-- ==== Sys2Proof/Word.lean ====
section
/-!
DEFINITION. The words of the A-720: 64-bit registers, bytes, wide registers (00_scope.md R6, R7, R9, R10).
-/

namespace Sys2Proof

/-- A scalar register, an address or an instruction word (R7, R41). -/
abbrev Word := BitVec 64

/-- One byte of storage (R10). -/
abbrev Byte := BitVec 8

/-- A vector register: 4 KiB, byte `i` in bits `8i + 7 .. 8i` (R6). -/
abbrev VData := BitVec 32768

/-- A mask: one bit for each 32-bit container (R7, R127). -/
abbrev MaskData := BitVec 1024

/-- An accumulator tile: 128 × 128 elements of 32 bits, element (i, j) at bit `32 (128 i + j)` (R7, R167). -/
abbrev TileData := BitVec 524288

/-- One 64-byte granule, byte `i` in bits `8i + 7 .. 8i` (R189). -/
abbrev Granule := BitVec 512

end Sys2Proof
end

