-- ==== Sys2Proof/Syntax.lean ====
section
/-!
DEFINITION. The instructions of the A-720: one constructor of `Instr` for each row of the opcode table
(02_encoding.md R49, R50 for the core's words; 10_retrieval_attention.md R315 for the Pavane's micro-words;
95_what_each_step_holds.md for the events, each one whole step).
-/

namespace Sys2Proof

/-- Type codes of R47. -/
inductive Ty where
  | f32 | bf16 | f16 | f8a | f8b | mx4 | f6a | f6b
  | i8 | i16 | i32 | i64 | n8 | n16 | n32 | n64
  deriving DecidableEq, Repr, Inhabited

/-- Rounding modes of R48. -/
inductive Rm where
  | rne | rtz | rup | rdn | rsto
  deriving DecidableEq, Repr, Inhabited

/-- Conditions of R48. -/
inductive Cond where
  | eq | ne | lt | le | gt | ge | ltn | gen
  deriving DecidableEq, Repr, Inhabited

/-- Scopes of R48, R187. -/
inductive Scope where
  | near | clus | die | dev | sys
  deriving DecidableEq, Repr, Inhabited

/-- Ordering suffixes of R48, R199. -/
inductive Ord where
  | rlx | acq | rel | ar | sc
  deriving DecidableEq, Repr, Inhabited

/-- Token queues of R43, in the order of their codes 1 to 8. -/
inductive TokQ where
  | LA | LM | MA | AS | AP | PS | PA | SL
  deriving DecidableEq, Repr, Inhabited

/-- The five engines of R31. -/
inductive Eng where
  | load | store | arith | matrix | permute
  deriving DecidableEq, Repr, Inhabited

/-- Gate or iteration qualifier of a word (R41, R42). -/
inductive Qual where
  | always
  | first
  | last
  | stage (n : BitVec 3)
  deriving DecidableEq, Repr, Inhabited

/-- The common part of an engine word: qualifier and token clauses (R41, R43). -/
structure Engw where
  q : Qual
  pop : Option TokQ
  push : Option TokQ
  deriving DecidableEq, Repr, Inhabited

/-- Operators of reductions and scans (R49, OP 0x5D). -/
inductive RedOp where
  | add | min | max | and | or | xor
  deriving DecidableEq, Repr, Inhabited

/-- Operators of RED (R50). -/
inductive RemOp where
  | add | min | max
  deriving DecidableEq, Repr, Inhabited

/-- Address operand of vector memory words (R154): a stream register, or a scalar base with an
optional post-increment in rows of 256 bytes. -/
inductive VAddr where
  | stream (q : BitVec 4)
  | base (s : BitVec 5) (inc : Option (BitVec 6))
  deriving DecidableEq, Repr, Inhabited

/-- Source of B of a matrix word (R168): a stream or the weight buffer. -/
inductive BSrc where
  | stream (q : BitVec 4)
  | wb
  deriving DecidableEq, Repr, Inhabited

/-- Kinds of a watchpoint (R363). -/
inductive WpKind where
  | off | read | write | rw
  deriving DecidableEq, Repr, Inhabited

/-- What one dispatch slot chooses (R260, R23, R39, R245): the pooled node (instance, node) and the executor:
for a tile task the global cluster and the first core of the set, for an attention node the cluster; the other
kinds name their executor by the rules alone. -/
structure Choice where
  inst : Nat
  node : Nat
  clus : Nat
  core : Nat
  deriving DecidableEq, Repr, Inhabited

/-- A payload that arrives over a peer link (R208, R241, R344): the port it comes over, the sender's device, DTAG, instance and core,
the destination, and the bytes. A remote RED carries its operator, type and region. -/
structure Payload where
  port : Nat
  srcDev : Nat
  dtag : Option (BitVec 16)
  inst : Nat
  red : Bool
  ring : Nat
  clus : Nat
  rtype : Ty
  rop : RemOp
  ordered : Bool
  rank : Nat
  srcs : Nat
  obj : Nat
  pos : Word
  box : Word
  dflag : Nat
  data : List Byte
  deriving DecidableEq, Repr, Inhabited

/-- A register that a debug session names: scalar, shadow, the conditions, vector, mask (0 the top of the stack), the whole mask stack with
its depth, tile, the kind of a tile, stream, and the pc (R359). -/
inductive DbgReg where
  | s (r : BitVec 6)
  | shadow (r : BitVec 3)
  | c
  | v (r : BitVec 5)
  | m (r : BitVec 3)
  | stack
  | t (r : BitVec 2)
  | kind (r : BitVec 2)
  | q (r : BitVec 4)
  | pc
  | loop (v : BitVec 3)
  | loopCtl
  deriving DecidableEq, Repr, Inhabited

/-- A debug session's access to halted state (R359), register values as bytes, least significant first; or the host's reading of the
trace buffer of a die through the debug service (R367). -/
inductive DbgAcc where
  | readTrace (die : Nat)
  | readReg (g : Nat) (r : DbgReg)
  | writeReg (g : Nat) (r : DbgReg) (bytes : List Byte)
  | readCsr (g : Nat) (csr : BitVec 16)
  | writeCsr (g : Nat) (csr : BitVec 16) (v : Word)
  | readMem (g : Nat) (va : Nat) (n : Nat)
  | writeMem (g : Nat) (va : Nat) (bytes : List Byte)
  deriving DecidableEq, Repr, Inhabited

/-- Properties of an index (R288). -/
structure IndexProps where
  graph : Bool
  fmt : Ty
  d : Nat
  l2 : Bool
  m : Nat
  maxdeg : Nat
  nlist : Nat
  logcap : Nat
  deriving DecidableEq, Repr, Inhabited

/-- One vector's record of a graph index (R288, R295): its vector, its neighbours and their guidance codes. -/
structure GraphRec where
  id : Word
  vec : List Byte
  nbrs : List (Word × List Byte)
  deriving DecidableEq, Repr, Inhabited

/-- Contents of one generation of an index (R288, R296). -/
structure IndexGen where
  entryPoint : Word
  recs : List GraphRec
  centroids : List (List Byte)
  lists : List (List (Word × List Byte))
  deriving DecidableEq, Repr, Inhabited

/-- What INDEX_CREATE makes: an index with its first generation, or a passage store (R288, R306). -/
inductive NewStore where
  | index (p : IndexProps) (g : IndexGen)
  | passages (ps : List (Word × List (List Byte)))
  deriving DecidableEq, Repr, Inhabited

/-- A section of a loaded image placed at an address of a cluster, a die or translated memory (R60). -/
structure Section where
  va : Nat
  clus : Nat
  bytes : List Byte
  deriving DecidableEq, Repr, Inhabited

/-- An expression that the loader evaluates in 64-bit two's complement (R58, R61, R62): a label is a section of the image and an
offset in it, and stands for its loaded address. -/
inductive RelExpr where
  | const (x : Word)
  | label (sec : Nat) (off : Word)
  | neg (a : RelExpr)
  | mul (a b : RelExpr)
  | add (a b : RelExpr)
  | sub (a b : RelExpr)
  | shl (a b : RelExpr)
  | shr (a b : RelExpr)
  | and (a b : RelExpr)
  | or (a b : RelExpr)
  deriving DecidableEq, Repr, Inhabited

/-- A relocation (R62): the low `len` bits of its value go to bit `lo` of the bytes that start at byte `off` of section `sec`. -/
structure Reloc where
  sec : Nat
  off : Nat
  lo : Nat
  len : Nat
  value : RelExpr
  deriving DecidableEq, Repr, Inhabited

/-- One entry of an image's object manifest (R333): index, entry, and the shadow record's namespace, store name and guard. -/
structure ObjInstall where
  index : Nat
  entry : BitVec 512
  ns : Nat
  store : Nat
  guard : Nat
  deriving DecidableEq, Repr, Inhabited

/-- What trusted firmware assigns a partition and the device without a row of its own (R278, R323, R331, R341 to R344): the spill area in
descriptors, the flash namespaces, the shares of each die's last-level TLB in units of 768 entries, DTAG, MSI-X range, exposed LPDDR
as (unit, physical page of 1 GiB), and the domain's device number and routes. -/
structure Grants where
  spill : Nat
  namespaces : List Nat
  tlb : List (Nat × Nat)
  dtag : Option (BitVec 16)
  msixBase : Nat
  msixCount : Nat
  hdm : List (Nat × Nat)
  domain : Option (BitVec 6 × List (Nat × List Nat))
  deriving DecidableEq, Repr, Inhabited

/-- A loaded image (R60 to R62, R333): the partition, the sections with their relocations, the manifests, and what comes with it. -/
structure LoadImage where
  part : Nat
  sections : List Section
  relocs : List Reloc
  objects : List ObjInstall
  rings : List (Nat × Nat × BitVec 128)
  experts : List (Nat × BitVec 128)
  grants : Option Grants
  deriving DecidableEq, Repr, Inhabited

/-- An access of the host to its own memory (R210): a read, a write, or an atomic that replaces the bytes when they are those
expected. -/
inductive HostOp where
  | read
  | write (bytes : List Byte)
  | swapIf (old new : List Byte)
  deriving DecidableEq, Repr, Inhabited

/-- The operands of an event, or service firmware's arguments of a system call with the core for which it calls (assumption 44).
An event row of the table names no fields, so its constructor of `Instr` has none; what it acts on stands here. -/
inductive Arg where
  | none
  | unit (k : Nat)
  | pair (a b : Nat)
  | node (inst node target : Nat)
  | engine (g : Nat) (e : Eng)
  | wake (g m : Nat) (spurious : Bool)
  | payload (pl : Payload)
  | slot (die p : Nat) (ch : Choice)
  | hdm (host p off n : Nat) (write : Option (List Byte))
  | hostMem (addr n : Nat) (op : HostOp)
  | word (p off : Nat) (v : Word)
  | flash (search page : Nat) (ok : Bool) (more : Nat)
  | merge (ns name mg : Nat) (g : IndexGen)
  | debug (p : Nat) (acc : DbgAcc)
  | flag (k : Nat) (b : Bool)
  | epoch (e : Option Nat)
  | image (im : LoadImage)
  | store (ns name : Nat) (st : NewStore)
  | service (g : Nat) (s2 s3 s4 s5 : Word)
  deriving DecidableEq, Repr, Inhabited

/-- The instructions, one constructor a row of the opcode table, those with
operands first (the compiler represents at most 244 constructors that carry fields). -/
inductive Instr where
  -- OP 0x01 (R97, R98)
  | add (q : Qual) (d a b : BitVec 6)
  | sub (q : Qual) (d a b : BitVec 6)
  | addx (q : Qual) (d a b : BitVec 6) (k : BitVec 3)
  | lea (q : Qual) (d a b : BitVec 6) (sh : BitVec 6)
  | min (q : Qual) (d a b : BitVec 6)
  | max (q : Qual) (d a b : BitVec 6)
  | minn (q : Qual) (d a b : BitVec 6)
  | maxn (q : Qual) (d a b : BitVec 6)
  | and (q : Qual) (d a b : BitVec 6)
  | or (q : Qual) (d a b : BitVec 6)
  | xor (q : Qual) (d a b : BitVec 6)
  | andn (q : Qual) (d a b : BitVec 6)
  | orn (q : Qual) (d a b : BitVec 6)
  | sel (q : Qual) (d a b : BitVec 6) (k : BitVec 3)
  -- OP 0x02 (R99)
  | shl (q : Qual) (d a b : BitVec 6)
  | shr (q : Qual) (d a b : BitVec 6)
  | sar (q : Qual) (d a b : BitVec 6)
  | rol (q : Qual) (d a b : BitVec 6)
  | ror (q : Qual) (d a b : BitVec 6)
  | fshl (q : Qual) (d a b c : BitVec 6)
  | fshr (q : Qual) (d a b c : BitVec 6)
  | clz (q : Qual) (d a : BitVec 6)
  | ctz (q : Qual) (d a : BitVec 6)
  | popc (q : Qual) (d a : BitVec 6)
  | brev (q : Qual) (d a : BitVec 6)
  | bswp (q : Qual) (d a : BitVec 6)
  -- OP 0x03 (R100)
  | mul (q : Qual) (d a b : BitVec 6)
  | mulh (q : Qual) (d a b : BitVec 6)
  | mulhn (q : Qual) (d a b : BitVec 6)
  | div (q : Qual) (d a b : BitVec 6)
  | divn (q : Qual) (d a b : BitVec 6)
  | rem (q : Qual) (d a b : BitVec 6)
  | remn (q : Qual) (d a b : BitVec 6)
  -- OP 0x04 (R101)
  | cmp (q : Qual) (cond : Cond) (t : BitVec 3) (a b : BitVec 6)
  -- OP 0x08 to 0x14 (R102)
  | addi (q : Qual) (d a : BitVec 6) (imm : BitVec 32)
  | andi (q : Qual) (d a : BitVec 6) (imm : BitVec 32)
  | ori (q : Qual) (d a : BitVec 6) (imm : BitVec 32)
  | xori (q : Qual) (d a : BitVec 6) (imm : BitVec 32)
  | shli (q : Qual) (d a : BitVec 6) (imm : BitVec 32)
  | shri (q : Qual) (d a : BitVec 6) (imm : BitVec 32)
  | sari (q : Qual) (d a : BitVec 6) (imm : BitVec 32)
  | bfx (q : Qual) (d a : BitVec 6) (pos : BitVec 6) (len : BitVec 7)
  | bfxn (q : Qual) (d a : BitVec 6) (pos : BitVec 6) (len : BitVec 7)
  | bfi (q : Qual) (d a : BitVec 6) (pos : BitVec 6) (len : BitVec 7)
  | cmpi (q : Qual) (cond : Cond) (t : BitVec 3) (a : BitVec 6) (imm : BitVec 32)
  | li (q : Qual) (d : BitVec 6) (imm : BitVec 32)
  | lih (q : Qual) (d : BitVec 6) (imm : BitVec 32)
  -- OP 0x20 (R103 to R108)
  | fadd (q : Qual) (ty : Ty) (rm : Rm) (d a b : BitVec 6)
  | fsub (q : Qual) (ty : Ty) (rm : Rm) (d a b : BitVec 6)
  | fmul (q : Qual) (ty : Ty) (rm : Rm) (d a b : BitVec 6)
  | ffma (q : Qual) (ty : Ty) (rm : Rm) (d a b c : BitVec 6)
  | fdiv (q : Qual) (ty : Ty) (rm : Rm) (d a b : BitVec 6)
  | fsqrt (q : Qual) (ty : Ty) (rm : Rm) (d a : BitVec 6)
  | fmin (q : Qual) (ty : Ty) (d a b : BitVec 6)
  | fmax (q : Qual) (ty : Ty) (d a b : BitVec 6)
  | fcmp (q : Qual) (ty : Ty) (cond : Cond) (t : BitVec 3) (a b : BitVec 6)
  | fcvt (q : Qual) (dst src : Ty) (rm : Rm) (d a : BitVec 6)
  | fclass (q : Qual) (ty : Ty) (d a : BitVec 6)
  -- OP 0x30 to 0x36 (R110 to R112): no gate, no qualifier (R42)
  | br (off : BitVec 32)
  | bc (k : BitVec 3) (neg : Bool) (off : BitVec 32)
  | jmpr (a : BitVec 6)
  | call (off : BitVec 32)
  | callr (a : BitVec 6)
  | ubz (off : BitVec 32)
  | ubnz (off : BitVec 32)
  -- OP 0x38 to 0x3B (R115 to R118)
  | loop (lv : BitVec 3) (a : BitVec 6) (off : BitVec 32)
  | ploop (lv : BitVec 3) (a : BitVec 6) (nst : BitVec 3) (off : BitVec 32)
  | lend (lv : BitVec 3) (off : BitVec 32)
  | lbrk (lv : BitVec 3) (off : BitVec 32)
  -- OP 0x3C to 0x3F (R120 to R124)
  | join (tag : BitVec 32)
  | detq (d : BitVec 6)
  -- OP 0x40 to 0x42 (R211, R212)
  | ldb (q : Qual) (d a : BitVec 6) (sc : Scope) (o : Ord) (off : BitVec 24)
  | ldh (q : Qual) (d a : BitVec 6) (sc : Scope) (o : Ord) (off : BitVec 24)
  | ldw (q : Qual) (d a : BitVec 6) (sc : Scope) (o : Ord) (off : BitVec 24)
  | ldd (q : Qual) (d a : BitVec 6) (sc : Scope) (o : Ord) (off : BitVec 24)
  | ldbn (q : Qual) (d a : BitVec 6) (sc : Scope) (o : Ord) (off : BitVec 24)
  | ldhn (q : Qual) (d a : BitVec 6) (sc : Scope) (o : Ord) (off : BitVec 24)
  | ldwn (q : Qual) (d a : BitVec 6) (sc : Scope) (o : Ord) (off : BitVec 24)
  | stb (q : Qual) (s a : BitVec 6) (sc : Scope) (o : Ord) (off : BitVec 24)
  | sth (q : Qual) (s a : BitVec 6) (sc : Scope) (o : Ord) (off : BitVec 24)
  | stw (q : Qual) (s a : BitVec 6) (sc : Scope) (o : Ord) (off : BitVec 24)
  | std (q : Qual) (s a : BitVec 6) (sc : Scope) (o : Ord) (off : BitVec 24)
  -- engine queues (R31, R33)
  | engineEnqueue (w : Word)
  -- OP 0x50 (R131)
  | vadd (p : Engw) (ty : Ty) (d a b : BitVec 5) (m : BitVec 3)
  | vsub (p : Engw) (ty : Ty) (d a b : BitVec 5) (m : BitVec 3)
  | vmul (p : Engw) (ty : Ty) (d a b : BitVec 5) (m : BitVec 3)
  | vfma (p : Engw) (ty : Ty) (d a b c : BitVec 5) (m : BitVec 3)
  | vfms (p : Engw) (ty : Ty) (d a b c : BitVec 5) (m : BitVec 3)
  | vmin (p : Engw) (ty : Ty) (d a b : BitVec 5) (m : BitVec 3)
  | vmax (p : Engw) (ty : Ty) (d a b : BitVec 5) (m : BitVec 3)
  | vabs (p : Engw) (ty : Ty) (d a : BitVec 5) (m : BitVec 3)
  | vneg (p : Engw) (ty : Ty) (d a : BitVec 5) (m : BitVec 3)
  -- OP 0x51, 0x52 (R133, R134)
  | vand (p : Engw) (d a b : BitVec 5) (m : BitVec 3)
  | vor (p : Engw) (d a b : BitVec 5) (m : BitVec 3)
  | vxor (p : Engw) (d a b : BitVec 5) (m : BitVec 3)
  | vnot (p : Engw) (d a : BitVec 5) (m : BitVec 3)
  | vshl (p : Engw) (ty : Ty) (d a b : BitVec 5) (m : BitVec 3)
  | vshr (p : Engw) (ty : Ty) (d a b : BitVec 5) (m : BitVec 3)
  | vsar (p : Engw) (ty : Ty) (d a b : BitVec 5) (m : BitVec 3)
  | vbfx (p : Engw) (ty : Ty) (d a : BitVec 5) (lenm1 : BitVec 5) (pos : BitVec 6) (m : BitVec 3)
  | vfsh (p : Engw) (ty : Ty) (d a b c : BitVec 5) (m : BitVec 3)
  | vclz (p : Engw) (ty : Ty) (d a : BitVec 5) (m : BitVec 3)
  | vpopc (p : Engw) (ty : Ty) (d a : BitVec 5) (m : BitVec 3)
  -- OP 0x53 to 0x55 (R135 to R137)
  | vcmp (p : Engw) (ty : Ty) (cond : Cond) (t : BitVec 3) (a b : BitVec 5) (m : BitVec 3)
  | vsel (p : Engw) (d a b : BitVec 5) (k : BitVec 3)
  | vmov (p : Engw) (d a : BitVec 5) (m : BitVec 3)
  | vli (p : Engw) (ty : Ty) (d : BitVec 5) (imm : BitVec 16) (m : BitVec 3)
  | vext (p : Engw) (ty : Ty) (d : BitVec 5) (a : BitVec 5) (row : BitVec 4) (col : BitVec 8)
  | vins (p : Engw) (ty : Ty) (d : BitVec 5) (a : BitVec 5) (row : BitVec 4) (col : BitVec 8) (m : BitVec 3)
  -- OP 0x56 to 0x5A (R140 to R143)
  | vcvt (p : Engw) (dst src : Ty) (d a : BitVec 5) (part : BitVec 2) (rm : Rm) (m : BitVec 3)
  | vqnt (p : Engw) (ty : Ty) (cmpd : Bool) (d a : BitVec 5) (part : BitVec 2) (rm : Rm) (m : BitVec 3)
  | vdqnt (p : Engw) (ty : Ty) (cmpd : Bool) (d a : BitVec 5) (part : BitVec 2) (m : BitVec 3)
  | vpack6 (p : Engw) (ty : Ty) (d a : BitVec 5) (part : BitVec 2) (m : BitVec 3)
  | vunpk6 (p : Engw) (dst src : Ty) (d a : BitVec 5) (part : BitVec 2) (rm : Rm) (m : BitVec 3)
  -- OP 0x5B to 0x5F (R144, R147 to R153)
  | vhad (p : Engw) (ty : Ty) (d a : BitVec 5) (n : BitVec 6) (m : BitVec 3)
  | vrotr (p : Engw) (ty : Ty) (d a : BitVec 5) (k : BitVec 8) (m : BitVec 3)
  | vrotc (p : Engw) (ty : Ty) (d a : BitVec 5) (k : BitVec 8) (m : BitVec 3)
  | vbcr (p : Engw) (ty : Ty) (d a : BitVec 5) (k : BitVec 8) (m : BitVec 3)
  | vbcc (p : Engw) (ty : Ty) (d a : BitVec 5) (k : BitVec 8) (m : BitVec 3)
  | vredr (p : Engw) (op : RedOp) (ty : Ty) (d a : BitVec 5) (m : BitVec 3)
  | vredc (p : Engw) (op : RedOp) (ty : Ty) (d a : BitVec 5) (m : BitVec 3)
  | vscanr (p : Engw) (op : RedOp) (ty : Ty) (d a : BitVec 5) (m : BitVec 3)
  | vhist (p : Engw) (ty : Ty) (d a : BitVec 5) (pos : BitVec 6) (m : BitVec 3)
  | vrkey (p : Engw) (ty : Ty) (d a : BitVec 5) (m : BitVec 3)
  | vselk (p : Engw) (d a b : BitVec 5) (km1 : BitVec 6) (m : BitVec 3)
  | vcomp (p : Engw) (ty : Ty) (d a : BitVec 5) (m : BitVec 3)
  | vlut (p : Engw) (ty : Ty) (d a b : BitVec 5) (m : BitVec 3)
  -- OP 0x60 to 0x65 (R154 to R157, R166)
  | vld (p : Engw) (ty : Ty) (d : BitVec 5) (addr : VAddr) (m : BitVec 3)
  | vst (p : Engw) (ty : Ty) (d : BitVec 5) (addr : VAddr) (m : BitVec 3)
  | vlda (p : Engw) (ty : Ty) (d : BitVec 5) (addr : VAddr) (m : BitVec 3)
  | vsta (p : Engw) (ty : Ty) (d : BitVec 5) (addr : VAddr) (m : BitVec 3)
  | vgth (p : Engw) (ty : Ty) (d : BitVec 5) (addr : VAddr) (c : BitVec 5) (m : BitVec 3)
  | vsct (p : Engw) (ty : Ty) (d : BitVec 5) (addr : VAddr) (c : BitVec 5) (m : BitVec 3)
  -- OP 0x70 (R138)
  | mpush (p : Engw) (k : BitVec 3)
  | minv (p : Engw)
  | mpop (p : Engw)
  | mset (p : Engw) (t : BitVec 3) (v : Bool)
  | mmov (p : Engw) (t k : BitVec 3)
  | many (p : Engw) (t k : BitVec 3)
  | mnone (p : Engw) (t k : BitVec 3)
  | mcnt (p : Engw) (d : BitVec 5) (k : BitVec 3)
  -- OP 0x71 (R145, R146)
  | vexp (p : Engw) (ty : Ty) (d a : BitVec 5) (m : BitVec 3)
  | vexp2 (p : Engw) (ty : Ty) (d a : BitVec 5) (m : BitVec 3)
  | vlog2 (p : Engw) (ty : Ty) (d a : BitVec 5) (m : BitVec 3)
  | vrcp (p : Engw) (ty : Ty) (d a : BitVec 5) (m : BitVec 3)
  | vrsq (p : Engw) (ty : Ty) (d a : BitVec 5) (m : BitVec 3)
  | vsqrt (p : Engw) (ty : Ty) (d a : BitVec 5) (m : BitVec 3)
  | vsin (p : Engw) (ty : Ty) (d a : BitVec 5) (m : BitVec 3)
  | vcos (p : Engw) (ty : Ty) (d a : BitVec 5) (m : BitVec 3)
  | vtanh (p : Engw) (ty : Ty) (d a : BitVec 5) (m : BitVec 3)
  -- OP 0x80 to 0x89 (R163, R168 to R177)
  | qbind (q : Qual) (qa : BitVec 4) (obj : BitVec 16)
  | qpos (q : Qual) (qa : BitVec 4) (s : BitVec 6)
  | qadv (q : Qual) (qa : BitVec 4) (n : BitVec 16)
  | mma (p : Engw) (ty : Ty) (alt : Bool) (td : BitVec 2) (qa : BitVec 4) (b : BSrc) (n : BitVec 16)
  | mmas (p : Engw) (ty : Ty) (alt : Bool) (td : BitVec 2) (qa : BitVec 4) (b : BSrc) (n : BitVec 16) (rowsm1 colsm1 : BitVec 2)
  | mzero (p : Engw) (td : BitVec 2)
  | mrd (p : Engw) (ty : Ty) (rm : Rm) (qa : BitVec 4) (td : BitVec 2)
  | mwr (p : Engw) (td : BitVec 2) (qa : BitVec 4)
  | mldw (p : Engw) (ty : Ty) (packed : Bool) (qa : BitVec 4)
  -- OP 0x8C to 0x8F (R179)
  | ptrn (p : Engw) (ty : Ty) (d a : BitVec 5) (b : BitVec 6) (m : BitVec 3)
  | pshf (p : Engw) (ty : Ty) (d a b : BitVec 5) (m : BitVec 3)
  | prot (p : Engw) (ty : Ty) (d a : BitVec 5) (k : BitVec 8) (m : BitVec 3)
  | pzip (p : Engw) (high : Bool) (ty : Ty) (d a b : BitVec 5) (m : BitVec 3)
  -- OP 0x90 to 0x95 (R236 to R242)
  | cpy (q : Qual) (sd a : BitVec 6) (flag : BitVec 10) (rel : Bool)
  | cpym (q : Qual) (sd a : BitVec 6) (flag : BitVec 10) (rel : Bool)
  | gthr (q : Qual) (sd a : BitVec 6) (flag : BitVec 10) (rel : Bool) (cntm1 : BitVec 14)
  | red (q : Qual) (sd a : BitVec 6) (flag : BitVec 10) (rel ordered : Bool) (op : RemOp) (ty : Ty) (srcs : BitVec 10)
  | send (q : Qual) (sd a : BitVec 6) (flag : BitVec 10) (rel : Bool)
  | xlat (q : Qual) (sd a : BitVec 6) (flag : BitVec 10) (rel : Bool)
  -- OP 0xA0 (R214 to R217)
  | aadd (q : Qual) (w64 : Bool) (sc : Scope) (o : Ord) (d a b : BitVec 6)
  | aand (q : Qual) (w64 : Bool) (sc : Scope) (o : Ord) (d a b : BitVec 6)
  | aor (q : Qual) (w64 : Bool) (sc : Scope) (o : Ord) (d a b : BitVec 6)
  | axor (q : Qual) (w64 : Bool) (sc : Scope) (o : Ord) (d a b : BitVec 6)
  | amin (q : Qual) (w64 : Bool) (sc : Scope) (o : Ord) (d a b : BitVec 6)
  | amax (q : Qual) (w64 : Bool) (sc : Scope) (o : Ord) (d a b : BitVec 6)
  | aminn (q : Qual) (w64 : Bool) (sc : Scope) (o : Ord) (d a b : BitVec 6)
  | amaxn (q : Qual) (w64 : Bool) (sc : Scope) (o : Ord) (d a b : BitVec 6)
  | axchg (q : Qual) (w64 : Bool) (sc : Scope) (o : Ord) (d a b : BitVec 6)
  | acas (q : Qual) (w64 : Bool) (sc : Scope) (o : Ord) (d a b c : BitVec 6)
  | afadd (q : Qual) (sc : Scope) (o : Ord) (d a b : BitVec 6)
  -- OP 0xA1, 0xA2 (R201, R218)
  | fence (q : Qual) (sc : Scope) (o : Ord)
  | waita (q : Qual) (sc : Scope) (o : Ord) (d a b t : BitVec 6)
  -- OP 0xA4 (R221 to R224)
  | fsig (q : Qual) (die : Bool) (d a b : BitVec 6) (obj : BitVec 10)
  | fset (q : Qual) (die : Bool) (d a b : BitVec 6) (obj : BitVec 10)
  | fwait (q : Qual) (die : Bool) (d a b : BitVec 6) (obj : BitVec 10) (e : BitVec 8)
  | fread (q : Qual) (die : Bool) (d a : BitVec 6) (obj : BitVec 10)
  -- OP 0xA5 (R226 to R229)
  | rclm (q : Qual) (d a : BitVec 6) (ring : BitVec 6) (e : BitVec 8)
  | rpub (q : Qual) (d a : BitVec 6) (ring : BitVec 6)
  | rwf (q : Qual) (d a : BitVec 6) (ring : BitVec 6) (e : BitVec 8)
  | rrel (q : Qual) (d a : BitVec 6) (ring : BitVec 6)
  | rinfo (q : Qual) (d a : BitVec 6) (ring : BitVec 6)
  -- OP 0xA6, 0xA7 (R230 to R235)
  | binit (q : Qual) (b : BitVec 4) (count : BitVec 8)
  | bara (q : Qual) (d : BitVec 6) (b : BitVec 4)
  | barw (q : Qual) (d : BitVec 6) (b : BitVec 4)
  | barq (q : Qual) (d : BitVec 6) (b : BitVec 4)
  | tkq (q : Qual) (d : BitVec 6) (t : TokQ)
  -- OP 0xB0 to 0xB6 (R255, R257, R267, R268, R277, R283, R284)
  | tsub (q : Qual) (d a b : BitVec 6) (flag : BitVec 10)
  | tdep (q : Qual) (d a b : BitVec 6) (nm1 : BitVec 8)
  | tcan (q : Qual) (d a : BitVec 6)
  | tqry (q : Qual) (d a : BitVec 6) (obj : BitVec 10) (sel : BitVec 8)
  | xqpush (q : Qual) (a : BitVec 6) (queue : BitVec 10)
  | xqtake (q : Qual) (d a b : BitVec 6) (queue : BitVec 10) (maxm1 : BitVec 8)
  | xqcomb (q : Qual) (ty : Ty) (d a b : BitVec 6) (flag : BitVec 10) (km1 : BitVec 4)
  -- OP 0xB8 to 0xBD (R290, R292, R304 to R313)
  | srch (q : Qual) (d a b : BitVec 6) (ring : BitVec 6)
  | ixapp (q : Qual) (d a : BitVec 6) (flag : BitVec 10)
  | kvbind (q : Qual) (d a b : BitVec 6) (flag : BitVec 10)
  | kvlookPos (q : Qual) (d a b : BitVec 6)
  | kvlookPsg (q : Qual) (d a b : BitVec 6)
  | kvlookPfx (q : Qual) (d a b : BitVec 6)
  | kvposPos (q : Qual) (d a b c : BitVec 6)
  | kvposPfx (q : Qual) (d a b c : BitVec 6)
  | astart (q : Qual) (d a : BitVec 6) (flag : BitVec 10)
  -- OP 0xC0 to 0xC5, 0xFF (R351, R355, R363, R365, R368, R370)
  | csrr (d : BitVec 6) (csr : BitVec 16)
  | csrw (a : BitVec 6) (csr : BitVec 16)
  | fpCtrlWrite (a : BitVec 6)
  | stochSeedWrite (a : BitVec 6)
  | cmpdTableWrite (a : BitVec 6) (csr : BitVec 16)
  | cmpdArm (a : BitVec 6)
  | syscBadcall (n : BitVec 16)
  | trmark (a : BitVec 6) (imm : BitVec 16)
  | wpset (a d : BitVec 6) (slot : BitVec 2) (sc : Scope) (kind : WpKind)
  | dbrk (tag : BitVec 16)
  -- Pavane micro-words (R315 to R319)
  | pavaneLit (n : BitVec 11)
  | pavaneLith (n : BitVec 11)
  | pavaneParm (k : BitVec 4)
  | pavaneJmp (off : BitVec 11)
  | pavaneBz (off : BitVec 11)
  | pavaneDjnz (off : BitVec 11)
  | pavaneWait (g : BitVec 4)
  | pavaneSig (f : BitVec 10)
  | pavaneKvblk (region : BitVec 1) (b : BitVec 2)
  | pavaneQk (b : BitVec 2)
  | pavaneSoft (b : BitVec 2)
  | pavanePv (b : BitVec 2)
  -- words and micro-words without operands
  | ret
  | exit
  | nop
  | hret
  | pavaneDup
  | pavaneDrop
  | pavaneSwap
  | pavaneOver
  | pavaneAdd
  | pavaneSub
  | pavaneMul
  | pavaneHalt
  | pavaneFinal
  | pavaneTriple
  | pavaneMerge
  | pavaneRev
  -- system calls: the caller and its arguments stand in the machine's `arg` (R370)
  | syscVersion
  | syscObjset
  | syscObjdel
  | syscRingset
  | syscXqset
  | syscMap
  | syscUnmap
  | syscPreempt
  | syscSwitch
  | syscPreset
  | syscPower
  | syscCkpt
  | syscAttest
  -- events: their operands stand in the machine's `arg`
  | engineResultWrite
  | monitorWake
  | waitaTimeout
  | flagWaitReturn
  | fwaitTimeout
  | ringWaitReturn
  | ringWaitTimeout
  | ringDelivery
  | barrierWaitReturn
  | xqcombCombine
  | ixappDurable
  | kvbindComplete
  | phasetimeExpiry
  | tokdeadExpiry
  | waitInterrupt
  | joinTimeout
  | quadrilleDecode
  | lineRefill
  | loadResponse
  | smbDrainStart
  | smbDrainComplete
  | stagingExpire
  | copyCommandComplete
  | redContribution
  | peerPayloadArrival
  | linkPortFail
  | taskComplete
  | dispatchSlot
  | nodePromote
  | nodeOffer
  | nodeTransferArrive
  | galliardPreemptRequest
  | cancelToken
  | instanceEnd
  | hostTailWrite
  | hostHeadWrite
  | hostHdmAccess
  | cmdNop
  | cmdLaunch
  | cmdCancel
  | cmdFence
  | cmdqBrkResume
  | hostRegisterWrite
  | msixCoalesceExpire
  | xqAgeDue
  | xqFiringSlot
  | flashReadComplete
  | indexMergeCommit
  | pavaneMergeTimeout
  | pvlost
  | msetlost
  | debugHaltRequest
  | debugSessionAccess
  | preemptStop
  | contextSaveComplete
  | contextResume
  | partitionResetComplete
  | deviceReset
  | checkpointCommit
  | restore
  | domainEpochCheckpoint
  | deviceFailureDetect
  | backgroundScrub
  | pavaneOperationComplete
  | xqSpillRefill
  | homeAcknowledgement
  | debugSessionAttach
  | debugSessionDetach
  | debugResume
  | imageLoad
  | indexCreate
  | indexRemove
  | galliardCtlWrite
  | dieScratchGrant
  | powerLoss
  | flitReplay
  | hostDumpRead
  deriving DecidableEq, Repr, Inhabited

end Sys2Proof
end

