-- ==== Sys2Proof/Config.lean ====
section
/-!
DEFINITION. What the manual leaves to the implementation, and the free values: constants without a body, of which
nothing can be proved, applied to a counter of the state or to the operands.
-/

namespace Sys2Proof.Config

/-- The firmware version that SYSC VERSION returns (12_recovery.md R370): the manual gives no number. -/
opaque firmwareVersion : Word

/-- Bytes of an attestation report beside its signature, less than 4096 (11_isolation.md R339 gives the signed items and no layout). -/
opaque reportExtra : BitVec 12

/-- Bytes of an attestation report: the signature of R338 and what stands beside it. -/
def reportSize : Nat := 2820 + reportExtra.toNat

/-- Byte `i` of the report signed over the image digest, the partition assignment, the nonce and signature index `n` (R339): the
layout is open and the key is the device's. -/
opaque reportByte : List Byte → List Byte → List Byte → Nat → Nat → Byte

/-- Byte `i` of the SHAKE256 digest of the running firmware image (R339). -/
opaque firmwareDigestByte : Nat → Byte

/-- Where trusted firmware looks first for a free physical page of the size given, for the `n`-th page it maps (R370: "from the
partition's LPDDR"). -/
opaque freePage : Nat → Nat → Nat

/-- The result bits of an operation whose value the manual does not state, for the `n`-th such value. -/
opaque freeValue : Nat → Word

/-- Where a fault report's AUX holds the level of the walk and the missing right of TRMISS and TRPERM (11_isolation.md R330
says that the report carries them; no layout is given). -/
opaque transAux : Nat → Nat → BitVec 16

/-- Records a trace buffer holds (R367: at least 1 MiB of 32-byte records). -/
def traceCapacity : Nat := 32768

/-- The retrieval controller that owns an index's entry point (10_retrieval_attention.md R292 refers to it; R38 numbers 16). -/
opaque ownerController : Nat → Nat → Nat

/-- The die that hosts the command processor of a partition (09_progress_scheduling.md R253 refers to it). -/
opaque commandDie : Nat → Nat

end Sys2Proof.Config
end

