-- ==== Sys2Proof/WellFormed.lean ====
section
/-!
DEFINITION. What makes an instruction of the core well formed: the operand limits of R50 and the chapters'
type rules (subcode 4 of R52), and the token rules of R32 (subcode 5).
-/

namespace Sys2Proof

/-- Element width in bits of a type code (R64, R70, R126); blocks and six-bit types have none of their own
in a lane and count as 8 and 6. -/
def Ty.bits : Ty → Nat
  | .f32 => 32 | .bf16 => 16 | .f16 => 16 | .f8a => 8 | .f8b => 8 | .mx4 => 8 | .f6a => 6 | .f6b => 6
  | .i8 => 8 | .i16 => 16 | .i32 => 32 | .i64 => 64
  | .n8 => 8 | .n16 => 16 | .n32 => 32 | .n64 => 64

/-- The Float class of R126. -/
def Ty.isFloat : Ty → Bool
  | .f32 | .bf16 | .f16 | .f8a | .f8b => true
  | _ => false

/-- The Integer class of R126. -/
def Ty.isVInt : Ty → Bool
  | .i8 | .i16 | .i32 | .n8 | .n16 | .n32 => true
  | _ => false

/-- Signed integer types (R70). -/
def Ty.isSigned : Ty → Bool
  | .i8 | .i16 | .i32 | .i64 => true
  | _ => false

/-- Unsigned integer types (R70). -/
def Ty.isUnsigned : Ty → Bool
  | .n8 | .n16 | .n32 | .n64 => true
  | _ => false

/-- Float or integer vector types (R126). -/
def Ty.isLane (t : Ty) : Bool := t.isFloat || t.isVInt

/-- Columns of one row for a lane type (R6). -/
def Ty.cols (t : Ty) : Nat := 2048 / t.bits

/-- Lanes of one register for a lane type (R6). -/
def Ty.lanes (t : Ty) : Nat := 32768 / t.bits

/-- Types of the scalar floating-point operations (R103). -/
def Ty.isScalarF : Ty → Bool
  | .f32 | .bf16 | .f16 => true
  | _ => false

/-- Types of FCVT (R108). -/
def Ty.isFcvt : Ty → Bool
  | .f32 | .bf16 | .f16 | .f8a | .f8b | .i32 | .i64 | .n32 | .n64 => true
  | _ => false

/-- The widening pairs of FCVT (R108). -/
def fcvtWidens : Ty → Ty → Bool
  | .bf16, .f32 | .f16, .f32 => true
  | .f8a, .f32 | .f8a, .bf16 | .f8a, .f16 => true
  | .f8b, .f32 | .f8b, .bf16 | .f8b, .f16 => true
  | .i32, .i64 => true
  | .n32, .n64 | .n32, .i64 => true
  | _, _ => false

/-- The widening pairs of VCVT (R141). -/
def vcvtWidens : Ty → Ty → Bool
  | .bf16, .f32 | .f16, .f32 => true
  | .f8a, .f32 | .f8a, .bf16 | .f8a, .f16 => true
  | .f8b, .f32 | .f8b, .bf16 | .f8b, .f16 => true
  | .i8, .i16 | .i8, .i32 | .n8, .i16 | .n8, .i32 | .n8, .n16 | .n8, .n32 => true
  | .i16, .i32 | .n16, .i32 | .n16, .n32 => true
  | .i8, .f16 | .i8, .bf16 | .i8, .f32 | .n8, .f16 | .n8, .bf16 | .n8, .f32 => true
  | .i16, .f32 | .n16, .f32 => true
  | _, _ => false

/-- The part operand of a conversion between lane counts `ns` and `nd` (R140). -/
def partOk (ns nd : Nat) (p : BitVec 2) : Bool :=
  if ns = nd then p = 0
  else if nd < ns then p.toNat < ns / nd
  else p.toNat < nd / ns

/-- The types that VQNT writes and VDQNT reads (R142). -/
def Ty.isQuant : Ty → Bool
  | .bf16 | .f16 | .f8a | .f8b | .mx4 => true
  | _ => false

/-- Lane count that a quantised type stands for in the part rule: a block type has four parts (R142). -/
def Ty.quantLanes : Ty → Nat
  | .mx4 => 4096
  | t => t.lanes

/-- Operand types of MMA and MMAS (R168). -/
def Ty.isMatrix : Ty → Bool
  | .f8a | .f8b | .mx4 | .bf16 | .f16 | .i8 => true
  | _ => false

/-- Types of RED (R50). -/
def Ty.isRed : Ty → Bool
  | .f32 | .bf16 | .i32 | .i64 | .n32 | .n64 => true
  | _ => false

/-- The types FVCMP, VCOMP, VLUT, VGTH and VSCT take (R135, R152, R153, R156). -/
def Ty.is32 : Ty → Bool
  | .f32 | .i32 | .n32 => true
  | _ => false

/-- A timeout exponent of R50: 0 to 40, or 0xFF for no timeout. -/
def expOk (e : BitVec 8) : Bool := e.toNat ≤ 40 || e = 0xFF

/-- Whether a CSR number is assigned (R356). -/
def csrAssigned (c : BitVec 16) : Bool :=
  let n := c.toNat
  n ≤ 0x002 || (0x010 ≤ n && n ≤ 0x012) || n = 0x020 || (0x030 ≤ n && n ≤ 0x04F) ||
  (0x050 ≤ n && n ≤ 0x056) || n = 0x060 || n = 0x061 || n = 0x070 || n = 0x080 ||
  (0x090 ≤ n && n ≤ 0x092) || (0x0A0 ≤ n && n ≤ 0x0A2) || (0x0A8 ≤ n && n ≤ 0x0B8) ||
  n = 0x0C0 || n = 0x0C1

/-- The CSR numbers that CMPD_TABLE_WRITE writes: CMPD_SEG0 to 15 and CMPD_OFS0 to 15 (R85, R356). -/
def csrIsCmpdTable (c : BitVec 16) : Bool := 0x030 ≤ c.toNat && c.toNat ≤ 0x04F

/-- The CSR numbers whose write has a row of its own (R83, R86). -/
def csrOwnRow (c : BitVec 16) : Bool :=
  c = 0x010 || c = 0x012 || c = 0x020 || csrIsCmpdTable c

/-- Loop levels are l0 to l5 (R7, R50). -/
def lvOk (lv : BitVec 3) : Bool := lv.toNat ≤ 5

/-- Loads take .rlx, .acq or .sc (R50, R199). -/
def Ord.loadOk : Ord → Bool
  | .rlx | .acq | .sc => true
  | _ => false

/-- Stores take .rlx, .rel or .sc (R50, R199). -/
def Ord.storeOk : Ord → Bool
  | .rlx | .rel | .sc => true
  | _ => false

/-- The operand limits of R50 and of the instructions' own rules (subcode 4 of R52). -/
def Instr.limits : Instr → Bool
  | .lea _ _ _ _ sh => sh.toNat ≤ 4
  | .shli _ _ _ i | .shri _ _ _ i | .sari _ _ _ i => i.toNat ≤ 63
  | .bfx _ _ _ p l | .bfxn _ _ _ p l | .bfi _ _ _ p l =>
      1 ≤ l.toNat && l.toNat ≤ 64 && p.toNat + l.toNat ≤ 64
  | .fadd _ ty rm _ _ _ | .fsub _ ty rm _ _ _ | .fmul _ ty rm _ _ _ | .fdiv _ ty rm _ _ _ =>
      ty.isScalarF && rm != .rsto
  | .ffma _ ty rm _ _ _ _ => ty.isScalarF && rm != .rsto
  | .fsqrt _ ty rm _ _ => ty.isScalarF && rm != .rsto
  | .fmin _ ty _ _ _ | .fmax _ ty _ _ _ => ty.isScalarF
  | .fclass _ ty _ _ => ty.isScalarF
  | .fcmp _ ty c _ _ _ => ty.isScalarF && c != .ltn && c != .gen
  | .fcvt _ dst src rm _ _ =>
      dst.isFcvt && src.isFcvt && dst != src && !(rm = .rsto && fcvtWidens src dst)
  | .loop lv _ off => lvOk lv && (0 : Int) < off.toInt
  | .ploop lv _ _ off => lvOk lv && (0 : Int) < off.toInt
  | .lend lv off => lvOk lv && off.toInt ≤ 0
  | .lbrk lv _ => lvOk lv
  | .ldb _ _ _ _ o _ | .ldh _ _ _ _ o _ | .ldw _ _ _ _ o _ | .ldd _ _ _ _ o _
  | .ldbn _ _ _ _ o _ | .ldhn _ _ _ _ o _ | .ldwn _ _ _ _ o _ => o.loadOk
  | .stb _ _ _ _ o _ | .sth _ _ _ _ o _ | .stw _ _ _ _ o _ | .std _ _ _ _ o _ => o.storeOk
  | .vadd _ ty .. | .vsub _ ty .. | .vmul _ ty .. | .vfma _ ty .. | .vfms _ ty ..
  | .vmin _ ty .. | .vmax _ ty .. | .vabs _ ty .. | .vneg _ ty .. => ty.isLane
  | .vshl _ ty .. | .vshr _ ty .. | .vsar _ ty .. | .vfsh _ ty .. | .vclz _ ty .. | .vpopc _ ty .. => ty.isVInt
  | .vbfx _ ty _ _ l p _ => ty.isVInt && p.toNat + (l.toNat + 1) ≤ ty.bits
  | .vcmp _ ty c .. => ty.is32 && !(ty = .f32 && (c = .ltn || c = .gen))
  | .vli _ ty _ imm _ => ty.isLane && !(ty.bits = 8 && imm.toNat ≥ 256)
  | .vext _ ty _ _ _ col | .vins _ ty _ _ _ col _ => ty.isLane && col.toNat < ty.cols
  | .vcvt _ dst src _ _ p rm _ =>
      dst.isLane && src.isLane && dst != src && partOk src.lanes dst.lanes p &&
      !(rm = .rsto && vcvtWidens src dst)
  | .vqnt _ ty _ _ _ p _ _ => ty.isQuant && partOk 1024 ty.quantLanes p
  | .vdqnt _ ty _ _ _ p _ => ty.isQuant && partOk ty.quantLanes 1024 p
  | .vpack6 _ ty .. => ty = .f6a || ty = .f6b
  | .vunpk6 _ dst src _ _ _ rm _ =>
      (dst = .f8a || dst = .f8b) && (src = .f6a || src = .f6b) &&
      !(rm = .rsto && !(src = .f6b && dst = .f8b))
  | .vhad _ ty _ _ n _ => ty.isScalarF && (n = 16 || n = 32)
  | .vrotr _ ty _ _ k _ | .vbcr _ ty _ _ k _ => ty.isLane && k.toNat < ty.cols
  | .vrotc _ ty _ _ k _ | .vbcc _ ty _ _ k _ => ty.isLane && k.toNat ≤ 15
  | .vredr _ op ty .. | .vredc _ op ty .. | .vscanr _ op ty .. =>
      ty.isLane && !(ty.isFloat && (op = .and || op = .or || op = .xor))
  | .vhist _ ty _ _ pos _ => ty.isUnsigned && ty != .n64 && pos.toNat < ty.bits
  | .vrkey _ ty .. => ty.isLane
  | .vselk _ d a b _ _ => d != a && d != b
  | .vcomp _ ty d a _ => ty.is32 && d != a
  | .vlut _ ty .. => ty.is32
  | .vld _ ty .. | .vst _ ty .. | .vlda _ ty .. | .vsta _ ty .. => ty.isLane
  | .vgth _ ty .. | .vsct _ ty .. => ty.is32
  | .vexp _ ty .. | .vexp2 _ ty .. | .vlog2 _ ty .. | .vrcp _ ty .. | .vrsq _ ty .. | .vsqrt _ ty ..
  | .vsin _ ty .. | .vcos _ ty .. | .vtanh _ ty .. => ty.isScalarF
  | .qadv _ _ n => 1 ≤ n.toNat
  | .mma _ ty alt _ _ _ n => ty.isMatrix && 1 ≤ n.toNat && !(alt && !(ty = .f8a || ty = .f8b))
  | .mmas _ ty alt _ _ _ n _ _ => ty.isMatrix && 1 ≤ n.toNat && !(alt && !(ty = .f8a || ty = .f8b))
  | .mrd _ ty rm _ _ => ty.isFloat && !(ty = .f32 && rm = .rsto)
  | .ptrn _ ty _ _ b _ => ty.isLane && (b = 2 || b = 4 || b = 8 || b = 16)
  | .pshf _ ty .. => ty.isLane
  | .prot _ ty _ _ k _ => ty.isLane && k.toNat < ty.cols
  | .pzip _ _ ty .. => ty.isLane
  | .red _ _ _ _ _ ordered _ ty srcs => ty.isRed && (if ordered then 1 ≤ srcs.toNat else srcs = 0)
  | .fence _ _ o => o != .rlx
  | .waita _ _ o .. => o = .rlx || o = .acq
  | .fwait _ _ _ _ _ _ e => expOk e
  | .rclm _ _ _ _ e | .rwf _ _ _ _ e => expOk e
  | .binit _ _ c => 1 ≤ c.toNat && c.toNat ≤ 16
  | .tqry _ _ _ _ s => s.toNat ≤ 3
  | .xqcomb _ ty .. => ty = .f32 || ty = .bf16
  | .csrr _ c => csrAssigned c
  | .csrw _ c => csrAssigned c
  | _ => true

/-- The engine that a queue word belongs to (R31), and its token clauses. -/
def Instr.engine : Instr → Option (Eng × Engw)
  | .vadd p .. | .vsub p .. | .vmul p .. | .vfma p .. | .vfms p .. | .vmin p .. | .vmax p .. | .vabs p ..
  | .vneg p .. | .vand p .. | .vor p .. | .vxor p .. | .vnot p .. | .vshl p .. | .vshr p .. | .vsar p ..
  | .vbfx p .. | .vfsh p .. | .vclz p .. | .vpopc p .. | .vcmp p .. | .vsel p .. | .vmov p .. | .vli p ..
  | .vext p .. | .vins p .. | .vcvt p .. | .vqnt p .. | .vdqnt p .. | .vpack6 p .. | .vunpk6 p .. | .vhad p ..
  | .vrotr p .. | .vrotc p .. | .vbcr p .. | .vbcc p .. | .vredr p .. | .vredc p .. | .vscanr p ..
  | .vhist p .. | .vrkey p .. | .vselk p .. | .vcomp p .. | .vlut p ..
  | .mpush p .. | .minv p | .mpop p | .mset p .. | .mmov p .. | .many p .. | .mnone p .. | .mcnt p ..
  | .vexp p .. | .vexp2 p .. | .vlog2 p .. | .vrcp p .. | .vrsq p .. | .vsqrt p .. | .vsin p .. | .vcos p ..
  | .vtanh p .. => some (.arith, p)
  | .vld p .. | .vlda p .. | .vgth p .. => some (.load, p)
  | .vst p .. | .vsta p .. | .vsct p .. => some (.store, p)
  | .mma p .. | .mmas p .. | .mzero p .. | .mrd p .. | .mwr p .. | .mldw p .. => some (.matrix, p)
  | .ptrn p .. | .pshf p .. | .prot p .. | .pzip p .. => some (.permute, p)
  | _ => none

/-- The token queues an engine may pop (R32). -/
def Eng.mayPop : Eng → TokQ → Bool
  | .load, .SL => true
  | .arith, .LA | .arith, .MA | .arith, .PA => true
  | .store, .AS | .store, .PS => true
  | .matrix, .LM => true
  | .permute, .AP => true
  | _, _ => false

/-- The token queues an engine may push (R32). -/
def Eng.mayPush : Eng → TokQ → Bool
  | .load, .LA | .load, .LM => true
  | .arith, .AS | .arith, .AP => true
  | .store, .SL => true
  | .matrix, .MA => true
  | .permute, .PS | .permute, .PA => true
  | _, _ => false

/-- The token rule of R32 for an engine's word (subcode 5 of R52). -/
def tokensOk (e : Eng) (p : Engw) : Bool :=
  (p.pop.all (e.mayPop ·)) && (p.push.all (e.mayPush ·))

/-- The token rule of R32 for an instruction. -/
def Instr.tokens (i : Instr) : Bool :=
  match i.engine with
  | none => true
  | some (e, p) => tokensOk e p

/-- Whether an instruction is an event, which no word encodes (95_what_each_step_holds.md). -/
def Instr.isEvent : Instr → Bool
  | .engineEnqueue .. | .engineResultWrite | .monitorWake | .waitaTimeout | .flagWaitReturn
  | .fwaitTimeout | .ringWaitReturn | .ringWaitTimeout | .ringDelivery | .barrierWaitReturn
  | .xqcombCombine | .ixappDurable | .kvbindComplete | .phasetimeExpiry | .tokdeadExpiry
  | .waitInterrupt | .joinTimeout | .quadrilleDecode | .lineRefill | .loadResponse
  | .smbDrainStart | .smbDrainComplete | .stagingExpire | .copyCommandComplete
  | .redContribution | .peerPayloadArrival | .linkPortFail | .taskComplete | .dispatchSlot
  | .nodePromote | .nodeOffer | .nodeTransferArrive | .galliardPreemptRequest | .cancelToken
  | .instanceEnd | .hostTailWrite | .hostHeadWrite | .hostHdmAccess | .cmdNop | .cmdLaunch
  | .cmdCancel | .cmdFence | .cmdqBrkResume | .hostRegisterWrite | .msixCoalesceExpire
  | .xqAgeDue | .xqFiringSlot | .flashReadComplete | .indexMergeCommit | .pavaneMergeTimeout
  | .pvlost | .msetlost | .debugHaltRequest | .debugSessionAccess | .preemptStop
  | .contextSaveComplete | .contextResume | .partitionResetComplete | .deviceReset
  | .checkpointCommit | .restore | .domainEpochCheckpoint | .deviceFailureDetect
  | .backgroundScrub | .pavaneOperationComplete | .xqSpillRefill | .homeAcknowledgement
  | .debugSessionAttach | .debugSessionDetach | .debugResume | .imageLoad | .indexCreate
  | .indexRemove | .galliardCtlWrite | .dieScratchGrant | .powerLoss | .flitReplay
  | .hostDumpRead => true
  | _ => false

/-- The Pavane's micro-words (R315). -/
def Instr.isPavane : Instr → Bool
  | .pavaneLit .. | .pavaneLith .. | .pavaneParm .. | .pavaneDup | .pavaneDrop | .pavaneSwap | .pavaneOver
  | .pavaneAdd | .pavaneSub | .pavaneMul | .pavaneJmp .. | .pavaneBz .. | .pavaneDjnz .. | .pavaneWait ..
  | .pavaneSig .. | .pavaneHalt | .pavaneKvblk .. | .pavaneQk .. | .pavaneSoft .. | .pavanePv ..
  | .pavaneFinal | .pavaneTriple | .pavaneMerge | .pavaneRev => true
  | _ => false

/-- What the rows that share an encoding ask: CSRW words name no register with a row of its own,
and an unknown call number is above those of R370; TQRY leaves unused operands zero (R268). -/
def Instr.rowOk : Instr → Bool
  | .csrw _ c => !csrOwnRow c
  | .cmpdTableWrite _ c => csrIsCmpdTable c
  | .syscBadcall n => 0x000D ≤ n.toNat
  | .tqry _ _ a o s => (s = 0 && o = 0) || (s = 1 && a = 0) || (2 ≤ s.toNat && a = 0 && o = 0)
  | .pavaneSig f => f != 0
  | _ => true

/-- A well-formed word of a core (R41 to R50). -/
def Instr.wf (i : Instr) : Bool :=
  !i.isEvent && !i.isPavane && i.limits && i.tokens && i.rowOk

/-- A well-formed micro-word of the Pavane (R315). -/
def Instr.wfPavane (i : Instr) : Bool := i.isPavane && i.rowOk

end Sys2Proof
end

