-- ==== Sys2Proof/Decode.lean ====
section
/-!
DEFINITION. Decoding and encoding of the cores' 64-bit words (02_encoding.md R41 to R52) and of the Pavane's
16-bit micro-words (10_retrieval_attention.md R315). The decoder is total: every word is an instruction or the
number of the first failing check of R52.
-/

namespace Sys2Proof

/-- Bits `[lo + len - 1 : lo]` of a bit vector (R9). -/
def fld {n : Nat} (w : BitVec n) (lo len : Nat) : BitVec len := w.extractLsb' lo len

/-! ## Codes (R43, R47, R48) -/

/-- Type codes (R47). -/
def Ty.code : Ty → BitVec 4
  | .f32 => 0x0 | .bf16 => 0x1 | .f16 => 0x2 | .f8a => 0x3 | .f8b => 0x4 | .mx4 => 0x5 | .f6a => 0x6 | .f6b => 0x7
  | .i8 => 0x8 | .i16 => 0x9 | .i32 => 0xA | .i64 => 0xB | .n8 => 0xC | .n16 => 0xD | .n32 => 0xE | .n64 => 0xF

/-- The type of a code (R47): every code names one. -/
def Ty.ofCode (c : BitVec 4) : Ty :=
  match c.toNat with
  | 0 => .f32 | 1 => .bf16 | 2 => .f16 | 3 => .f8a | 4 => .f8b | 5 => .mx4 | 6 => .f6a | 7 => .f6b
  | 8 => .i8 | 9 => .i16 | 10 => .i32 | 11 => .i64 | 12 => .n8 | 13 => .n16 | 14 => .n32 | _ => .n64

/-- Rounding codes (R48). -/
def Rm.code : Rm → BitVec 3
  | .rne => 0 | .rtz => 1 | .rup => 2 | .rdn => 3 | .rsto => 4

/-- The rounding mode of a code; codes 5 to 7 are illegal (R48). -/
def Rm.ofCode (c : BitVec 3) : Option Rm :=
  match c.toNat with
  | 0 => some .rne | 1 => some .rtz | 2 => some .rup | 3 => some .rdn | 4 => some .rsto | _ => none

/-- Condition codes (R48). -/
def Cond.code : Cond → BitVec 3
  | .eq => 0 | .ne => 1 | .lt => 2 | .le => 3 | .gt => 4 | .ge => 5 | .ltn => 6 | .gen => 7

/-- The condition of a code (R48). -/
def Cond.ofCode (c : BitVec 3) : Cond :=
  match c.toNat with
  | 0 => .eq | 1 => .ne | 2 => .lt | 3 => .le | 4 => .gt | 5 => .ge | 6 => .ltn | _ => .gen

/-- Scope codes (R48). -/
def Scope.code : Scope → BitVec 3
  | .near => 0 | .clus => 1 | .die => 2 | .dev => 3 | .sys => 4

/-- The scope of a code; codes 5 to 7 are illegal (R48). -/
def Scope.ofCode (c : BitVec 3) : Option Scope :=
  match c.toNat with
  | 0 => some .near | 1 => some .clus | 2 => some .die | 3 => some .dev | 4 => some .sys | _ => none

/-- Ordering codes (R48). -/
def Ord.code : Ord → BitVec 3
  | .rlx => 0 | .acq => 1 | .rel => 2 | .ar => 3 | .sc => 4

/-- The ordering of a code; codes 5 to 7 are illegal (R48). -/
def Ord.ofCode (c : BitVec 3) : Option Ord :=
  match c.toNat with
  | 0 => some .rlx | 1 => some .acq | 2 => some .rel | 3 => some .ar | 4 => some .sc | _ => none

/-- Token-queue codes (R43). -/
def TokQ.code : TokQ → BitVec 4
  | .LA => 1 | .LM => 2 | .MA => 3 | .AS => 4 | .AP => 5 | .PS => 6 | .PA => 7 | .SL => 8

/-- The token queue of a code from 1 to 8 (R43). -/
def TokQ.ofCode (c : BitVec 4) : Option TokQ :=
  match c.toNat with
  | 1 => some .LA | 2 => some .LM | 3 => some .MA | 4 => some .AS | 5 => some .AP | 6 => some .PS
  | 7 => some .PA | 8 => some .SL | _ => none

/-- A POP or PUSH field: 0 for none, 1 to 8 a queue, 9 to 15 illegal (R43). -/
def tokField (c : BitVec 4) : Option (Option TokQ) :=
  if c = 0 then some none else (TokQ.ofCode c).map some

/-- The field of a token clause. -/
def tokCode : Option TokQ → BitVec 4
  | none => 0
  | some t => t.code

/-- Reduction operators (R49, FN [7:4] of OP 0x5D). -/
def RedOp.code : RedOp → BitVec 4
  | .add => 0 | .min => 1 | .max => 2 | .and => 3 | .or => 4 | .xor => 5

/-- The reduction operator of a code (R49). -/
def RedOp.ofCode (c : BitVec 4) : Option RedOp :=
  match c.toNat with
  | 0 => some .add | 1 => some .min | 2 => some .max | 3 => some .and | 4 => some .or | 5 => some .xor | _ => none

/-- RED's operators (R50, FN [4:2]). -/
def RemOp.code : RemOp → BitVec 3
  | .add => 0 | .min => 1 | .max => 2

/-- The RED operator of a code (R50). -/
def RemOp.ofCode (c : BitVec 3) : Option RemOp :=
  match c.toNat with
  | 0 => some .add | 1 => some .min | 2 => some .max | _ => none

/-- Watchpoint kinds (R363). -/
def WpKind.code : WpKind → BitVec 2
  | .off => 0 | .read => 1 | .write => 2 | .rw => 3

/-- The watchpoint kind of a code (R363). -/
def WpKind.ofCode (c : BitVec 2) : WpKind :=
  match c.toNat with
  | 0 => .off | 1 => .read | 2 => .write | _ => .rw

/-- GATE and STG of a word that may be gated (R41, R42). -/
def Qual.ofFields (gate : BitVec 1) (stg : BitVec 3) : Option Qual :=
  if gate = 1 then some (.stage stg)
  else match stg.toNat with
    | 0 => some .always | 1 => some .first | 2 => some .last | _ => none

/-- GATE of a qualifier. -/
def Qual.gate : Qual → BitVec 1
  | .stage _ => 1
  | _ => 0

/-- STG of a qualifier. -/
def Qual.stg : Qual → BitVec 3
  | .always => 0 | .first => 1 | .last => 2 | .stage n => n

def Bool.bit (b : Bool) : BitVec 1 := if b then 1 else 0

/-! ## Formats (R41, R44) -/

/-- The common fields of a word and the body that the format fills (R41). -/
structure Hd where
  op : BitVec 8
  gate : BitVec 1
  stg : BitVec 3
  pop : BitVec 4
  push : BitVec 4
  body : BitVec 44
  deriving DecidableEq, Repr

def Hd.toWord (h : Hd) : Word := h.op ++ h.gate ++ h.stg ++ h.pop ++ h.push ++ h.body
def Hd.ofWord (w : Word) : Hd := ⟨fld w 56 8, fld w 55 1, fld w 52 3, fld w 48 4, fld w 44 4, fld w 0 44⟩

/-- S format (R44). -/
structure SF where
  d : BitVec 6
  a : BitVec 6
  b : BitVec 6
  c : BitVec 6
  fn : BitVec 8
  cc : BitVec 3
  z : BitVec 9
  deriving DecidableEq, Repr

def SF.toBody (f : SF) : BitVec 44 := f.d ++ f.a ++ f.b ++ f.c ++ f.fn ++ f.cc ++ f.z
def SF.ofBody (w : BitVec 44) : SF :=
  ⟨fld w 38 6, fld w 32 6, fld w 26 6, fld w 20 6, fld w 12 8, fld w 9 3, fld w 0 9⟩

/-- I format (R44). -/
structure IF where
  d : BitVec 6
  a : BitVec 6
  imm : BitVec 32
  deriving DecidableEq, Repr

def IF.toBody (f : IF) : BitVec 44 := f.d ++ f.a ++ f.imm
def IF.ofBody (w : BitVec 44) : IF := ⟨fld w 38 6, fld w 32 6, fld w 0 32⟩

/-- B format (R44). -/
structure BF where
  cc : BitVec 3
  neg : BitVec 1
  kind : BitVec 2
  a : BitVec 6
  off : BitVec 32
  deriving DecidableEq, Repr

def BF.toBody (f : BF) : BitVec 44 := f.cc ++ f.neg ++ f.kind ++ f.a ++ f.off
def BF.ofBody (w : BitVec 44) : BF := ⟨fld w 41 3, fld w 40 1, fld w 38 2, fld w 32 6, fld w 0 32⟩

/-- L format (R44). -/
structure LF where
  lv : BitVec 3
  a : BitVec 6
  nst : BitVec 3
  off : BitVec 32
  deriving DecidableEq, Repr

def LF.toBody (f : LF) : BitVec 44 := f.lv ++ f.a ++ f.nst ++ f.off
def LF.ofBody (w : BitVec 44) : LF := ⟨fld w 41 3, fld w 35 6, fld w 32 3, fld w 0 32⟩

/-- M format (R44). -/
structure MF where
  d : BitVec 6
  a : BitVec 6
  scope : BitVec 3
  ord : BitVec 3
  size : BitVec 2
  off : BitVec 24
  deriving DecidableEq, Repr

def MF.toBody (f : MF) : BitVec 44 := f.d ++ f.a ++ f.scope ++ f.ord ++ f.size ++ f.off
def MF.ofBody (w : BitVec 44) : MF := ⟨fld w 38 6, fld w 32 6, fld w 29 3, fld w 26 3, fld w 24 2, fld w 0 24⟩

/-- V format (R44). -/
structure VF where
  vd : BitVec 5
  va : BitVec 5
  vb : BitVec 5
  vc : BitVec 5
  ty : BitVec 4
  fn : BitVec 8
  mask : BitVec 3
  ax : BitVec 3
  imm : BitVec 6
  deriving DecidableEq, Repr

def VF.toBody (f : VF) : BitVec 44 :=
  f.vd ++ f.va ++ f.vb ++ f.vc ++ f.ty ++ f.fn ++ f.mask ++ f.ax ++ f.imm
def VF.ofBody (w : BitVec 44) : VF :=
  ⟨fld w 39 5, fld w 34 5, fld w 29 5, fld w 24 5, fld w 20 4, fld w 12 8, fld w 9 3, fld w 6 3, fld w 0 6⟩

/-- X format (R44). -/
structure XF where
  qa : BitVec 4
  qb : BitVec 4
  td : BitVec 2
  ty : BitVec 4
  fn : BitVec 8
  set : BitVec 6
  k : BitVec 16
  deriving DecidableEq, Repr

def XF.toBody (f : XF) : BitVec 44 := f.qa ++ f.qb ++ f.td ++ f.ty ++ f.fn ++ f.set ++ f.k
def XF.ofBody (w : BitVec 44) : XF :=
  ⟨fld w 40 4, fld w 36 4, fld w 34 2, fld w 30 4, fld w 22 8, fld w 16 6, fld w 0 16⟩

/-- A format (R44). -/
structure AF where
  sd : BitVec 6
  a : BitVec 6
  flag : BitVec 10
  fn : BitVec 8
  imm : BitVec 14
  deriving DecidableEq, Repr

def AF.toBody (f : AF) : BitVec 44 := f.sd ++ f.a ++ f.flag ++ f.fn ++ f.imm
def AF.ofBody (w : BitVec 44) : AF := ⟨fld w 38 6, fld w 32 6, fld w 22 10, fld w 14 8, fld w 0 14⟩

/-- Y format (R44). -/
structure YF where
  d : BitVec 6
  a : BitVec 6
  b : BitVec 6
  obj : BitVec 10
  fn : BitVec 8
  imm : BitVec 8
  deriving DecidableEq, Repr

def YF.toBody (f : YF) : BitVec 44 := f.d ++ f.a ++ f.b ++ f.obj ++ f.fn ++ f.imm
def YF.ofBody (w : BitVec 44) : YF :=
  ⟨fld w 38 6, fld w 32 6, fld w 26 6, fld w 16 10, fld w 8 8, fld w 0 8⟩

/-- K format (R44). -/
structure KF where
  d : BitVec 6
  a : BitVec 6
  csr : BitVec 16
  imm : BitVec 16
  deriving DecidableEq, Repr

def KF.toBody (f : KF) : BitVec 44 := f.d ++ f.a ++ f.csr ++ f.imm
def KF.ofBody (w : BitVec 44) : KF := ⟨fld w 38 6, fld w 32 6, fld w 16 16, fld w 0 16⟩

/-! ## Rows of the opcode map -/

/-- How a row makes its instruction: an engine word, a scalar-pipe word that may be gated, or a word that may not
carry a gate or qualifier (R31, R42). -/
inductive Maker where
  | eng (f : Engw → Instr)
  | sc (f : Qual → Instr)
  | bare (i : Instr)

/-- What the decoder knows of a word of an assigned opcode: whether its selector is assigned (check 2), whether its
zero fields are 0 (check 3), and its maker when every coded field holds a legal code (part of check 4). -/
structure Row where
  sel : Bool
  zero : Bool
  maker : Option Maker

/-- A row with an unassigned selector value (R51). -/
def Row.noSel : Row := ⟨false, true, none⟩

/-- A scalar-pipe row. -/
def Row.sc (zero : Bool) (f : Qual → Instr) : Row := ⟨true, zero, some (.sc f)⟩

/-- A scalar-pipe row whose coded fields may be illegal. -/
def Row.sc? (zero : Bool) (f : Option (Qual → Instr)) : Row := ⟨true, zero, f.map .sc⟩

/-- An engine row. -/
def Row.eng (zero : Bool) (f : Engw → Instr) : Row := ⟨true, zero, some (.eng f)⟩

/-- An engine row whose coded fields may be illegal. -/
def Row.eng? (zero : Bool) (f : Option (Engw → Instr)) : Row := ⟨true, zero, f.map .eng⟩

/-- A row that may not be gated. -/
def Row.bare (zero : Bool) (i : Instr) : Row := ⟨true, zero, some (.bare i)⟩

/-- A row that may not be gated, whose coded fields may be illegal. -/
def Row.bare? (zero : Bool) (i : Option Instr) : Row := ⟨true, zero, i.map .bare⟩

/-- OP 0x01 (R97). -/
def rowAlu (f : SF) : Row :=
  let z3 := f.c = 0 && f.cc = 0 && f.z = 0
  match f.fn.toNat with
  | 0x00 => .sc z3 (.add · f.d f.a f.b)
  | 0x01 => .sc z3 (.sub · f.d f.a f.b)
  | 0x02 => .sc (f.c = 0 && f.z = 0) (.addx · f.d f.a f.b f.cc)
  | 0x03 => .sc (f.cc = 0 && f.z = 0) (.lea · f.d f.a f.b f.c)
  | 0x04 => .sc z3 (.min · f.d f.a f.b)
  | 0x05 => .sc z3 (.max · f.d f.a f.b)
  | 0x06 => .sc z3 (.minn · f.d f.a f.b)
  | 0x07 => .sc z3 (.maxn · f.d f.a f.b)
  | 0x08 => .sc z3 (.and · f.d f.a f.b)
  | 0x09 => .sc z3 (.or · f.d f.a f.b)
  | 0x0A => .sc z3 (.xor · f.d f.a f.b)
  | 0x0B => .sc z3 (.andn · f.d f.a f.b)
  | 0x0C => .sc z3 (.orn · f.d f.a f.b)
  | 0x0D => .sc (f.c = 0 && f.z = 0) (.sel · f.d f.a f.b f.cc)
  | _ => .noSel

/-- OP 0x02 (R99). -/
def rowShift (f : SF) : Row :=
  let z3 := f.c = 0 && f.cc = 0 && f.z = 0
  let z4 := f.b = 0 && z3
  let z2 := f.cc = 0 && f.z = 0
  match f.fn.toNat with
  | 0x00 => .sc z3 (.shl · f.d f.a f.b)
  | 0x01 => .sc z3 (.shr · f.d f.a f.b)
  | 0x02 => .sc z3 (.sar · f.d f.a f.b)
  | 0x03 => .sc z3 (.rol · f.d f.a f.b)
  | 0x04 => .sc z3 (.ror · f.d f.a f.b)
  | 0x05 => .sc z2 (.fshl · f.d f.a f.b f.c)
  | 0x06 => .sc z2 (.fshr · f.d f.a f.b f.c)
  | 0x08 => .sc z4 (.clz · f.d f.a)
  | 0x09 => .sc z4 (.ctz · f.d f.a)
  | 0x0A => .sc z4 (.popc · f.d f.a)
  | 0x0B => .sc z4 (.brev · f.d f.a)
  | 0x0C => .sc z4 (.bswp · f.d f.a)
  | _ => .noSel

/-- OP 0x03 (R100). -/
def rowMul (f : SF) : Row :=
  let z3 := f.c = 0 && f.cc = 0 && f.z = 0
  match f.fn.toNat with
  | 0x00 => .sc z3 (.mul · f.d f.a f.b)
  | 0x01 => .sc z3 (.mulh · f.d f.a f.b)
  | 0x02 => .sc z3 (.mulhn · f.d f.a f.b)
  | 0x03 => .sc z3 (.div · f.d f.a f.b)
  | 0x04 => .sc z3 (.divn · f.d f.a f.b)
  | 0x05 => .sc z3 (.rem · f.d f.a f.b)
  | 0x06 => .sc z3 (.remn · f.d f.a f.b)
  | _ => .noSel

/-- OP 0x20 (R103 to R108): FN [7:4] the operation, FN [3:0] the type. -/
def rowFp (f : SF) : Row :=
  let ty := Ty.ofCode (fld f.fn 0 4)
  let rm := Rm.ofCode f.cc
  let zc := f.c = 0 && f.z = 0
  match (fld f.fn 4 4).toNat with
  | 0x0 => .sc? zc (rm.map fun r => (.fadd · ty r f.d f.a f.b))
  | 0x1 => .sc? zc (rm.map fun r => (.fsub · ty r f.d f.a f.b))
  | 0x2 => .sc? zc (rm.map fun r => (.fmul · ty r f.d f.a f.b))
  | 0x3 => .sc? (f.z = 0) (rm.map fun r => (.ffma · ty r f.d f.a f.b f.c))
  | 0x4 => .sc? zc (rm.map fun r => (.fdiv · ty r f.d f.a f.b))
  | 0x5 => .sc? (f.b = 0 && zc) (rm.map fun r => (.fsqrt · ty r f.d f.a))
  | 0x6 => .sc (f.cc = 0 && zc) (.fmin · ty f.d f.a f.b)
  | 0x7 => .sc (f.cc = 0 && zc) (.fmax · ty f.d f.a f.b)
  | 0x8 => .sc (f.cc = 0 && zc) (.fcmp · ty (Cond.ofCode (fld f.d 3 3)) (fld f.d 0 3) f.a f.b)
  | 0x9 => .sc? (f.b = 0 && fld f.c 4 2 = 0 && f.z = 0)
            (rm.map fun r => (.fcvt · ty (Ty.ofCode (fld f.c 0 4)) r f.d f.a))
  | 0xA => .sc (f.b = 0 && f.cc = 0 && zc) (.fclass · ty f.d f.a)
  | _ => .noSel

/-- BFX, BFXN and BFI: position in IMM32 [5:0], length in [12:6], [31:13] zero (R102). -/
def rowBits (f : IF) (mk : Qual → BitVec 6 → BitVec 6 → BitVec 6 → BitVec 7 → Instr) : Row :=
  .sc (fld f.imm 13 19 = 0) (mk · f.d f.a (fld f.imm 0 6) (fld f.imm 6 7))

/-- Loads and stores (R211). -/
def rowMem (f : MF) (mk : Qual → BitVec 6 → BitVec 6 → Scope → Ord → BitVec 24 → Instr) : Row :=
  .sc? true (do
    let sc ← Scope.ofCode f.scope
    let o ← Ord.ofCode f.ord
    return (mk · f.d f.a sc o f.off))

/-- A vector word of three registers. -/
def rowV3 (f : VF) (mk : Engw → Ty → BitVec 5 → BitVec 5 → BitVec 5 → BitVec 3 → Instr) : Row :=
  .eng (f.vc = 0 && f.ax = 0 && f.imm = 0) (mk · (Ty.ofCode f.ty) f.vd f.va f.vb f.mask)

/-- A vector word of four registers. -/
def rowV4 (f : VF) (mk : Engw → Ty → BitVec 5 → BitVec 5 → BitVec 5 → BitVec 5 → BitVec 3 → Instr) : Row :=
  .eng (f.ax = 0 && f.imm = 0) (mk · (Ty.ofCode f.ty) f.vd f.va f.vb f.vc f.mask)

/-- A vector word of two registers. -/
def rowV2 (f : VF) (mk : Engw → Ty → BitVec 5 → BitVec 5 → BitVec 3 → Instr) : Row :=
  .eng (f.vb = 0 && f.vc = 0 && f.ax = 0 && f.imm = 0) (mk · (Ty.ofCode f.ty) f.vd f.va f.mask)

/-- A word-typed vector word: TYPE must be .n32, a limit of R126 (subcode 4). -/
def wordTyped (f : VF) (zero : Bool) (mk : Engw → Instr) : Row :=
  .eng? zero (if f.ty = 0xE then some mk else none)

/-- OP 0x50 (R131). -/
def rowVArith (f : VF) : Row :=
  match f.fn.toNat with
  | 0x00 => rowV3 f .vadd
  | 0x01 => rowV3 f .vsub
  | 0x02 => rowV3 f .vmul
  | 0x03 => rowV4 f .vfma
  | 0x04 => rowV4 f .vfms
  | 0x05 => rowV3 f .vmin
  | 0x06 => rowV3 f .vmax
  | 0x07 => rowV2 f .vabs
  | 0x08 => rowV2 f .vneg
  | _ => .noSel

/-- OP 0x51 (R133). -/
def rowVLogic (f : VF) : Row :=
  let z := f.vc = 0 && f.ax = 0 && f.imm = 0
  match f.fn.toNat with
  | 0x00 => wordTyped f z (.vand · f.vd f.va f.vb f.mask)
  | 0x01 => wordTyped f z (.vor · f.vd f.va f.vb f.mask)
  | 0x02 => wordTyped f z (.vxor · f.vd f.va f.vb f.mask)
  | 0x03 => wordTyped f (f.vb = 0 && z) (.vnot · f.vd f.va f.mask)
  | _ => .noSel

/-- OP 0x52 (R134). -/
def rowVShift (f : VF) : Row :=
  match f.fn.toNat with
  | 0x00 => rowV3 f .vshl
  | 0x01 => rowV3 f .vshr
  | 0x02 => rowV3 f .vsar
  | 0x03 => .eng (f.vb = 0 && f.ax = 0) (.vbfx · (Ty.ofCode f.ty) f.vd f.va f.vc f.imm f.mask)
  | 0x04 => rowV4 f .vfsh
  | 0x05 => rowV2 f .vclz
  | 0x06 => rowV2 f .vpopc
  | _ => .noSel

/-- OP 0x53 (R135). -/
def rowVcmp (f : VF) : Row :=
  .eng (fld f.vd 3 2 = 0 && fld f.fn 3 5 = 0 && f.vc = 0 && f.ax = 0 && f.imm = 0)
    (.vcmp · (Ty.ofCode f.ty) (Cond.ofCode (fld f.fn 0 3)) (fld f.vd 0 3) f.va f.vb f.mask)

/-- The column or amount in {VC [25:24], IMM6} (R50). -/
def VF.col (f : VF) : BitVec 8 := fld f.vc 0 2 ++ f.imm

/-- OP 0x55 (R136, R137). -/
def rowVMove (f : VF) : Row :=
  let ty := Ty.ofCode f.ty
  match f.fn.toNat with
  | 0x00 => wordTyped f (f.vb = 0 && f.vc = 0 && f.ax = 0 && f.imm = 0) (.vmov · f.vd f.va f.mask)
  | 0x01 => .eng (f.va = 0 && f.ax = 0) (.vli · ty f.vd (f.vb ++ f.vc ++ f.imm) f.mask)
  | 0x02 => .eng (fld f.vb 4 1 = 0 && fld f.vc 2 3 = 0 && f.ax = 0 && f.mask = 0)
              (.vext · ty f.vd f.va (fld f.vb 0 4) f.col)
  | 0x03 => .eng (fld f.vb 4 1 = 0 && fld f.vc 2 3 = 0 && f.ax = 0)
              (.vins · ty f.vd f.va (fld f.vb 0 4) f.col f.mask)
  | _ => .noSel

/-- Zero fields of a conversion: VB, VC [28:26] and IMM6 (R130, R141). -/
def VF.cvtZero (f : VF) : Bool := f.vb = 0 && fld f.vc 2 3 = 0 && f.imm = 0

/-- OP 0x56 (R141). -/
def rowVcvt (f : VF) : Row :=
  .eng? (f.cvtZero && fld f.fn 4 4 = 0)
    ((Rm.ofCode f.ax).map fun rm =>
      (.vcvt · (Ty.ofCode f.ty) (Ty.ofCode (fld f.fn 0 4)) f.vd f.va (fld f.vc 0 2) rm f.mask))

/-- OP 0x57 (R142). -/
def rowVqnt (f : VF) : Row :=
  if 1 < f.fn.toNat then .noSel
  else .eng? f.cvtZero ((Rm.ofCode f.ax).map fun rm =>
    (.vqnt · (Ty.ofCode f.ty) (f.fn = 1) f.vd f.va (fld f.vc 0 2) rm f.mask))

/-- OP 0x58 (R142): AX must hold rne, a limit (subcode 4). -/
def rowVdqnt (f : VF) : Row :=
  if 1 < f.fn.toNat then .noSel
  else .eng? f.cvtZero (if f.ax = 0 then
    some (.vdqnt · (Ty.ofCode f.ty) (f.fn = 1) f.vd f.va (fld f.vc 0 2) f.mask) else none)

/-- OP 0x59 (R143). -/
def rowVpack6 (f : VF) : Row :=
  .eng (f.cvtZero && f.fn = 0 && f.ax = 0) (.vpack6 · (Ty.ofCode f.ty) f.vd f.va (fld f.vc 0 2) f.mask)

/-- OP 0x5A (R143). -/
def rowVunpk6 (f : VF) : Row :=
  .eng? (f.cvtZero && fld f.fn 4 4 = 0)
    ((Rm.ofCode f.ax).map fun rm =>
      (.vunpk6 · (Ty.ofCode (fld f.fn 0 4)) (Ty.ofCode f.ty) f.vd f.va (fld f.vc 0 2) rm f.mask))

/-- OP 0x5C (R147). -/
def rowVrot (f : VF) : Row :=
  let z := f.vb = 0 && fld f.vc 2 3 = 0 && f.ax = 0
  let ty := Ty.ofCode f.ty
  match f.fn.toNat with
  | 0x00 => .eng z (.vrotr · ty f.vd f.va f.col f.mask)
  | 0x01 => .eng z (.vrotc · ty f.vd f.va f.col f.mask)
  | 0x02 => .eng z (.vbcr · ty f.vd f.va f.col f.mask)
  | 0x03 => .eng z (.vbcc · ty f.vd f.va f.col f.mask)
  | _ => .noSel

/-- OP 0x5D (R148): FN [3:0] the form, FN [7:4] the operator. -/
def rowVred (f : VF) : Row :=
  let z := f.vb = 0 && f.vc = 0 && f.ax = 0 && f.imm = 0
  let ty := Ty.ofCode f.ty
  match RedOp.ofCode (fld f.fn 4 4) with
  | none => .noSel
  | some op =>
    match (fld f.fn 0 4).toNat with
    | 0 => .eng z (.vredr · op ty f.vd f.va f.mask)
    | 1 => .eng z (.vredc · op ty f.vd f.va f.mask)
    | 2 => .eng z (.vscanr · op ty f.vd f.va f.mask)
    | _ => .noSel

/-- OP 0x5E (R149 to R152). -/
def rowVsel (f : VF) : Row :=
  let ty := Ty.ofCode f.ty
  match f.fn.toNat with
  | 0x00 => .eng (f.vb = 0 && f.vc = 0 && f.ax = 0) (.vhist · ty f.vd f.va f.imm f.mask)
  | 0x01 => rowV2 f .vrkey
  | 0x02 => wordTyped f (f.vc = 0 && f.ax = 0) (.vselk · f.vd f.va f.vb f.imm f.mask)
  | 0x03 => rowV2 f .vcomp
  | _ => .noSel

/-- The address fields of vector memory words (R154): mode VA [38], stream VA [37:34], base VB, AX [0], IMM6. -/
def VF.addr (f : VF) : VAddr :=
  if fld f.va 4 1 = 0 then .stream (fld f.va 0 4)
  else .base f.vb (if fld f.ax 0 1 = 1 then some f.imm else none)

/-- The zero fields of the address (R50, R154). -/
def VF.addrZero (f : VF) : Bool :=
  fld f.ax 1 2 = 0 &&
  (if fld f.va 4 1 = 0 then f.vb = 0 && f.ax = 0 && f.imm = 0
   else fld f.va 0 4 = 0 && (fld f.ax 0 1 = 1 || f.imm = 0))

/-- OP 0x60 to 0x63 (R155). -/
def rowVmem (f : VF) (mk : Engw → Ty → BitVec 5 → VAddr → BitVec 3 → Instr) : Row :=
  .eng (f.addrZero && f.vc = 0 && f.fn = 0) (mk · (Ty.ofCode f.ty) f.vd f.addr f.mask)

/-- OP 0x64, 0x65 (R156). -/
def rowVidx (f : VF) (mk : Engw → Ty → BitVec 5 → VAddr → BitVec 5 → BitVec 3 → Instr) : Row :=
  .eng (f.addrZero && f.fn = 0) (mk · (Ty.ofCode f.ty) f.vd f.addr f.vc f.mask)

/-- OP 0x70 (R138). -/
def rowMask (f : VF) : Row :=
  let z := f.va = 0 && f.vb = 0 && f.vc = 0 && f.ty = 0 && f.ax = 0
  let zi := z && f.imm = 0
  let zt := fld f.vd 3 2 = 0
  let t := fld f.vd 0 3
  match f.fn.toNat with
  | 0x00 => .eng (zi && f.vd = 0) (.mpush · f.mask)
  | 0x01 => .eng (zi && f.vd = 0 && f.mask = 0) .minv
  | 0x02 => .eng (zi && f.vd = 0 && f.mask = 0) .mpop
  | 0x03 => .eng? (z && zt && f.mask = 0)
              (if f.imm = 0 then some (.mset · t false) else if f.imm = 1 then some (.mset · t true) else none)
  | 0x04 => .eng (zi && zt) (.mmov · t f.mask)
  | 0x05 => .eng (zi && zt) (.many · t f.mask)
  | 0x06 => .eng (zi && zt) (.mnone · t f.mask)
  | 0x07 => .eng zi (.mcnt · f.vd f.mask)
  | _ => .noSel

/-- OP 0x71 (R145). -/
def rowSpecial (f : VF) : Row :=
  match f.fn.toNat with
  | 0x00 => rowV2 f .vexp
  | 0x01 => rowV2 f .vexp2
  | 0x02 => rowV2 f .vlog2
  | 0x03 => rowV2 f .vrcp
  | 0x04 => rowV2 f .vrsq
  | 0x05 => rowV2 f .vsqrt
  | 0x06 => rowV2 f .vsin
  | 0x07 => rowV2 f .vcos
  | 0x08 => rowV2 f .vtanh
  | _ => .noSel

/-- The FN values of MMA and MMAS: B from a stream or the weight buffer, and the other FP8 encoding (R49, R168). -/
def mmaFn (fn : BitVec 8) : Option (Bool × Bool) :=
  match fn.toNat with
  | 0 => some (false, false) | 1 => some (true, false) | 4 => some (false, true) | 5 => some (true, true)
  | _ => none

/-- B's source (R168). -/
def XF.bsrc (f : XF) (wb : Bool) : BSrc := if wb then .wb else .stream f.qb

/-- OP 0x84 (R169). -/
def rowMma (f : XF) : Row :=
  match mmaFn f.fn with
  | none => .noSel
  | some (wb, alt) => .eng ((!wb || f.qb = 0) && f.set = 0) (.mma · (Ty.ofCode f.ty) alt f.td f.qa (f.bsrc wb) f.k)

/-- OP 0x85 (R176). -/
def rowMmas (f : XF) : Row :=
  match mmaFn f.fn with
  | none => .noSel
  | some (wb, alt) => .eng ((!wb || f.qb = 0) && fld f.set 4 2 = 0)
      (.mmas · (Ty.ofCode f.ty) alt f.td f.qa (f.bsrc wb) f.k (fld f.set 2 2) (fld f.set 0 2))

/-- OP 0x8C to 0x8F (R179). -/
def rowPtrn (f : VF) : Row :=
  .eng (f.vb = 0 && f.vc = 0 && f.fn = 0 && f.ax = 0) (.ptrn · (Ty.ofCode f.ty) f.vd f.va f.imm f.mask)
def rowPshf (f : VF) : Row :=
  .eng (f.vc = 0 && f.fn = 0 && f.ax = 0 && f.imm = 0) (.pshf · (Ty.ofCode f.ty) f.vd f.va f.vb f.mask)
def rowProt (f : VF) : Row :=
  .eng (f.vb = 0 && fld f.vc 2 3 = 0 && f.fn = 0 && f.ax = 0) (.prot · (Ty.ofCode f.ty) f.vd f.va f.col f.mask)
def rowPzip (f : VF) : Row :=
  if 1 < f.fn.toNat then .noSel
  else .eng (f.vc = 0 && f.ax = 0 && f.imm = 0) (.pzip · (f.fn = 1) (Ty.ofCode f.ty) f.vd f.va f.vb f.mask)

/-- The common shape of the engine commands but RED and GTHR: FN [7:1] and IMM14 zero (R236). -/
def rowCmd (f : AF) (mk : Qual → BitVec 6 → BitVec 6 → BitVec 10 → Bool → Instr) : Row :=
  .sc (fld f.fn 1 7 = 0 && f.imm = 0) (mk · f.sd f.a f.flag (fld f.fn 0 1 = 1))

/-- OP 0x93 (R236): FN [0] release, [1] ordered, [4:2] operator, IMM14 [13:10] type, [9:0] sources. -/
def rowRed (f : AF) : Row :=
  let ordered : Bool := fld f.fn 1 1 = 1
  .sc? (fld f.fn 5 3 = 0 && (ordered || fld f.imm 0 10 = 0))
    ((RemOp.ofCode (fld f.fn 2 3)).map fun op =>
      (.red · f.sd f.a f.flag (fld f.fn 0 1 = 1) ordered op (Ty.ofCode (fld f.imm 10 4)) (fld f.imm 0 10)))

/-- Scope, ordering and width of IMM8 (R214): width 0b10 is 32 bits, 0b11 is 64 bits. -/
def YF.sow (f : YF) : Option (Scope × Ord × Bool) := do
  let sc ← Scope.ofCode (fld f.imm 0 3)
  let o ← Ord.ofCode (fld f.imm 3 3)
  match (fld f.imm 6 2).toNat with
  | 2 => some (sc, o, false)
  | 3 => some (sc, o, true)
  | _ => none

/-- An atomic of two sources (R214). -/
def rowAtom (f : YF) (mk : Qual → Bool → Scope → Ord → BitVec 6 → BitVec 6 → BitVec 6 → Instr) : Row :=
  .sc? (f.obj = 0) (f.sow.map fun (sc, o, w) => (mk · w sc o f.d f.a f.b))

/-- OP 0xA0 (R214). -/
def rowAtomic (f : YF) : Row :=
  match f.fn.toNat with
  | 0x00 => rowAtom f .aadd
  | 0x01 => rowAtom f .aand
  | 0x02 => rowAtom f .aor
  | 0x03 => rowAtom f .axor
  | 0x04 => rowAtom f .amin
  | 0x05 => rowAtom f .amax
  | 0x06 => rowAtom f .aminn
  | 0x07 => rowAtom f .amaxn
  | 0x08 => rowAtom f .axchg
  | 0x09 => .sc? (fld f.obj 6 4 = 0) (f.sow.map fun (sc, o, w) => (.acas · w sc o f.d f.a f.b (fld f.obj 0 6)))
  | 0x0A => .sc? (f.obj = 0) (match f.sow with
      | some (sc, o, false) => some (.afadd · sc o f.d f.a f.b)
      | _ => none)
  | _ => .noSel

/-- OP 0xA1 (R201). -/
def rowFence (f : YF) : Row :=
  .sc? (f.d = 0 && f.a = 0 && f.b = 0 && f.obj = 0 && f.fn = 0 && fld f.imm 6 2 = 0) (do
    let sc ← Scope.ofCode (fld f.imm 0 3)
    let o ← Ord.ofCode (fld f.imm 3 3)
    return (.fence · sc o))

/-- OP 0xA2 (R218). -/
def rowWaita (f : YF) : Row :=
  .sc? (f.fn = 0 && fld f.obj 6 4 = 0) (match f.sow with
    | some (sc, o, true) => some (.waita · sc o f.d f.a f.b (fld f.obj 0 6))
    | _ => none)

/-- OP 0xA4 (R222). -/
def rowFlag (f : YF) : Row :=
  let die : Bool := fld f.fn 7 1 = 1
  match (fld f.fn 0 7).toNat with
  | 0 => .sc (f.imm = 0) (.fsig · die f.d f.a f.b f.obj)
  | 1 => .sc (f.imm = 0) (.fset · die f.d f.a f.b f.obj)
  | 2 => .sc true (.fwait · die f.d f.a f.b f.obj f.imm)
  | 3 => .sc (f.b = 0 && f.imm = 0) (.fread · die f.d f.a f.obj)
  | _ => .noSel

/-- OP 0xA5 (R227). -/
def rowRing (f : YF) : Row :=
  let z := f.b = 0 && fld f.obj 6 4 = 0
  let n := fld f.obj 0 6
  match f.fn.toNat with
  | 0 => .sc z (.rclm · f.d f.a n f.imm)
  | 1 => .sc (z && f.imm = 0) (.rpub · f.d f.a n)
  | 2 => .sc z (.rwf · f.d f.a n f.imm)
  | 3 => .sc (z && f.imm = 0) (.rrel · f.d f.a n)
  | 4 => .sc (z && f.imm = 0) (.rinfo · f.d f.a n)
  | _ => .noSel

/-- OP 0xA6 (R231). -/
def rowBar (f : YF) : Row :=
  let z := f.a = 0 && f.b = 0 && fld f.obj 4 6 = 0
  let b := fld f.obj 0 4
  match f.fn.toNat with
  | 0 => .sc (z && f.d = 0) (.binit · b f.imm)
  | 1 => .sc (z && f.imm = 0) (.bara · f.d b)
  | 2 => .sc (z && f.imm = 0) (.barw · f.d b)
  | 3 => .sc (z && f.imm = 0) (.barq · f.d b)
  | _ => .noSel

/-- OP 0xA7 (R235). -/
def rowTkq (f : YF) : Row :=
  .sc? (f.a = 0 && f.b = 0 && f.obj = 0 && f.fn = 0)
    (if f.imm.toNat < 16 then (TokQ.ofCode (fld f.imm 0 4)).map fun t => (.tkq · f.d t) else none)

/-- OP 0xB0 to 0xB6 (R255, R257, R267, R268, R277, R283, R284). -/
def rowTask (op : Nat) (f : YF) : Row :=
  let zf := f.fn = 0
  match op with
  | 0xB0 => .sc (zf && f.imm = 0) (.tsub · f.d f.a f.b f.obj)
  | 0xB1 => .sc (zf && f.obj = 0) (.tdep · f.d f.a f.b f.imm)
  | 0xB2 => .sc (zf && f.b = 0 && f.obj = 0 && f.imm = 0) (.tcan · f.d f.a)
  | 0xB3 => .sc (zf && f.b = 0 &&
              (if f.imm = 0 then f.obj = 0 else if f.imm = 1 then f.a = 0
               else f.imm.toNat > 3 || (f.a = 0 && f.obj = 0)))
              (.tqry · f.d f.a f.obj f.imm)
  | 0xB4 => .sc (zf && f.d = 0 && f.b = 0 && f.imm = 0) (.xqpush · f.a f.obj)
  | 0xB5 => .sc zf (.xqtake · f.d f.a f.b f.obj f.imm)
  | _ => .sc zf (.xqcomb · (Ty.ofCode (fld f.imm 4 4)) f.d f.a f.b f.obj (fld f.imm 0 4))

/-- OP 0xB8 to 0xBD (R290, R292, R304 to R306, R310, R311, R313). -/
def rowRetr (op : Nat) (f : YF) : Row :=
  let zf := f.fn = 0
  match op with
  | 0xB8 => .sc (zf && fld f.obj 6 4 = 0 && f.imm = 0) (.srch · f.d f.a f.b (fld f.obj 0 6))
  | 0xB9 => .sc (zf && f.b = 0 && f.imm = 0) (.ixapp · f.d f.a f.obj)
  | 0xBA => .sc (zf && f.imm = 0) (.kvbind · f.d f.a f.b f.obj)
  | 0xBB => .sc? (zf && f.obj = 0) (match f.imm.toNat with
      | 0 => some (.kvlookPos · f.d f.a f.b)
      | 1 => some (.kvlookPsg · f.d f.a f.b)
      | 2 => some (.kvlookPfx · f.d f.a f.b)
      | _ => none)
  | 0xBC => .sc? (zf && fld f.obj 6 4 = 0) (match f.imm.toNat with
      | 0 => some (.kvposPos · f.d f.a f.b (fld f.obj 0 6))
      | 1 => some (.kvposPfx · f.d f.a f.b (fld f.obj 0 6))
      | _ => none)
  | _ => .sc (zf && f.b = 0 && f.imm = 0) (.astart · f.d f.a f.obj)

/-- OP 0xC1 (R355): the row of the register written. -/
def csrwInstr (a : BitVec 6) (c : BitVec 16) : Instr :=
  if c = 0x010 then .fpCtrlWrite a
  else if c = 0x012 then .stochSeedWrite a
  else if c = 0x020 then .cmpdArm a
  else if csrIsCmpdTable c then .cmpdTableWrite a c
  else .csrw a c

/-- OP 0xC2 (R370): the row of the call. -/
def syscInstr (n : BitVec 16) : Instr :=
  match n.toNat with
  | 0x0 => .syscVersion
  | 0x1 => .syscObjset
  | 0x2 => .syscObjdel
  | 0x3 => .syscRingset
  | 0x4 => .syscXqset
  | 0x5 => .syscMap
  | 0x6 => .syscUnmap
  | 0x7 => .syscPreempt
  | 0x8 => .syscSwitch
  | 0x9 => .syscPreset
  | 0xA => .syscPower
  | 0xB => .syscCkpt
  | 0xC => .syscAttest
  | _ => .syscBadcall n

/-- OP 0xC0 to 0xC5 and 0xFF (R351, R355, R363, R365, R368, R370). -/
def rowSys (op : Nat) (f : KF) : Row :=
  match op with
  | 0xC0 => .bare (f.a = 0 && f.imm = 0) (.csrr f.d f.csr)
  | 0xC1 => .bare (f.d = 0 && f.imm = 0) (csrwInstr f.a f.csr)
  | 0xC2 => .bare (f.d = 0 && f.a = 0 && f.csr = 0) (syscInstr f.imm)
  | 0xC3 => .bare (f.d = 0 && f.a = 0 && f.csr = 0 && f.imm = 0) .hret
  | 0xC4 => .bare (f.d = 0 && f.csr = 0) (.trmark f.a f.imm)
  | 0xC5 => .bare? (f.csr = 0 && fld f.imm 7 9 = 0) ((Scope.ofCode (fld f.imm 2 3)).map fun sc =>
              .wpset f.a f.d (fld f.imm 0 2) sc (WpKind.ofCode (fld f.imm 5 2)))
  | _ => .bare (f.d = 0 && f.a = 0 && f.csr = 0) (.dbrk f.imm)

/-- OP 0x30 to 0x36 (R110 to R112). -/
def rowBranch (op : Nat) (f : BF) : Row :=
  let zcc := f.cc = 0
  let reg (i : Instr) : Option Instr := if f.kind = 1 then some i else none
  match op with
  | 0x30 => .bare (zcc && f.neg = 0 && f.kind = 0 && f.a = 0) (.br f.off)
  | 0x31 => .bare? (f.a = 0) (if f.kind = 0 then some (.bc f.cc (f.neg = 1) f.off) else none)
  | 0x32 => .bare? (zcc && f.neg = 0 && f.off = 0) (reg (.jmpr f.a))
  | 0x33 => .bare (zcc && f.neg = 0 && f.kind = 0 && f.a = 0) (.call f.off)
  | 0x34 => .bare? (zcc && f.neg = 0 && f.off = 0) (reg (.callr f.a))
  | 0x35 => .bare? (zcc && f.neg = 0 && f.off = 0) (if f.a = 62 then reg .ret else none)
  | _ => .bare? (zcc && f.a = 0) (if f.kind = 2 then some (if f.neg = 1 then .ubnz f.off else .ubz f.off) else none)

/-- OP 0x38 to 0x3B (R115 to R118). -/
def rowLoop (op : Nat) (f : LF) : Row :=
  match op with
  | 0x38 => .bare (f.nst = 0) (.loop f.lv f.a f.off)
  | 0x39 => .bare true (.ploop f.lv f.a f.nst f.off)
  | 0x3A => .bare (f.a = 0 && f.nst = 0) (.lend f.lv f.off)
  | _ => .bare (f.a = 0 && f.nst = 0) (.lbrk f.lv f.off)

/-- OP 0x08 to 0x14 (R102). -/
def rowImm (op : Nat) (f : IF) : Row :=
  match op with
  | 0x08 => .sc true (.addi · f.d f.a f.imm)
  | 0x09 => .sc true (.andi · f.d f.a f.imm)
  | 0x0A => .sc true (.ori · f.d f.a f.imm)
  | 0x0B => .sc true (.xori · f.d f.a f.imm)
  | 0x0C => .sc true (.shli · f.d f.a f.imm)
  | 0x0D => .sc true (.shri · f.d f.a f.imm)
  | 0x0E => .sc true (.sari · f.d f.a f.imm)
  | 0x0F => rowBits f .bfx
  | 0x10 => rowBits f .bfxn
  | 0x11 => rowBits f .bfi
  | 0x12 => .sc true (.cmpi · (Cond.ofCode (fld f.d 3 3)) (fld f.d 0 3) f.a f.imm)
  | 0x13 => .sc (f.a = 0) (.li · f.d f.imm)
  | _ => .sc (f.a = 0) (.lih · f.d f.imm)

/-- OP 0x40 to 0x42 (R211). -/
def rowLdst (op : Nat) (f : MF) : Row :=
  match op, f.size.toNat with
  | 0x40, 0 => rowMem f .ldb
  | 0x40, 1 => rowMem f .ldh
  | 0x40, 2 => rowMem f .ldw
  | 0x40, _ => rowMem f .ldd
  | 0x41, 0 => rowMem f .ldbn
  | 0x41, 1 => rowMem f .ldhn
  | 0x41, 2 => rowMem f .ldwn
  | 0x41, _ => .noSel
  | _, 0 => rowMem f .stb
  | _, 1 => rowMem f .sth
  | _, 2 => rowMem f .stw
  | _, _ => rowMem f .std

/-- The opcode map of R49: the row of a word, none where the opcode is reserved or always illegal. -/
def rowOf (h : Hd) : Option Row :=
  let s := SF.ofBody h.body
  let v := VF.ofBody h.body
  let x := XF.ofBody h.body
  let a := AF.ofBody h.body
  let y := YF.ofBody h.body
  let op := h.op.toNat
  match op with
  | 0x01 => some (rowAlu s)
  | 0x02 => some (rowShift s)
  | 0x03 => some (rowMul s)
  | 0x04 => some (.sc (s.c = 0 && s.fn = 0 && s.cc = 0 && s.z = 0)
              (.cmp · (Cond.ofCode (fld s.d 3 3)) (fld s.d 0 3) s.a s.b))
  | 0x08 | 0x09 | 0x0A | 0x0B | 0x0C | 0x0D | 0x0E | 0x0F | 0x10 | 0x11 | 0x12 | 0x13 | 0x14 =>
      some (rowImm op (IF.ofBody h.body))
  | 0x20 => some (rowFp s)
  | 0x30 | 0x31 | 0x32 | 0x33 | 0x34 | 0x35 | 0x36 => some (rowBranch op (BF.ofBody h.body))
  | 0x38 | 0x39 | 0x3A | 0x3B => some (rowLoop op (LF.ofBody h.body))
  | 0x3C => let i := IF.ofBody h.body; some (.bare (i.d = 0 && i.a = 0) (.join i.imm))
  | 0x3D => some (.bare (s.a = 0 && s.b = 0 && s.c = 0 && s.fn = 0 && s.cc = 0 && s.z = 0) (.detq s.d))
  | 0x3E => some (.bare (h.body = 0) .exit)
  | 0x3F => some (.bare (h.body = 0) .nop)
  | 0x40 | 0x41 | 0x42 => some (rowLdst op (MF.ofBody h.body))
  | 0x50 => some (rowVArith v)
  | 0x51 => some (rowVLogic v)
  | 0x52 => some (rowVShift v)
  | 0x53 => some (rowVcmp v)
  | 0x54 => some (wordTyped v (v.vc = 0 && v.fn = 0 && v.ax = 0 && v.imm = 0) (.vsel · v.vd v.va v.vb v.mask))
  | 0x55 => some (rowVMove v)
  | 0x56 => some (rowVcvt v)
  | 0x57 => some (rowVqnt v)
  | 0x58 => some (rowVdqnt v)
  | 0x59 => some (rowVpack6 v)
  | 0x5A => some (rowVunpk6 v)
  | 0x5B => some (.eng (v.vb = 0 && v.vc = 0 && v.fn = 0 && v.ax = 0) (.vhad · (Ty.ofCode v.ty) v.vd v.va v.imm v.mask))
  | 0x5C => some (rowVrot v)
  | 0x5D => some (rowVred v)
  | 0x5E => some (rowVsel v)
  | 0x5F => some (.eng (v.vc = 0 && v.fn = 0 && v.ax = 0 && v.imm = 0) (.vlut · (Ty.ofCode v.ty) v.vd v.va v.vb v.mask))
  | 0x60 => some (rowVmem v .vld)
  | 0x61 => some (rowVmem v .vst)
  | 0x62 => some (rowVmem v .vlda)
  | 0x63 => some (rowVmem v .vsta)
  | 0x64 => some (rowVidx v .vgth)
  | 0x65 => some (rowVidx v .vsct)
  | 0x70 => some (rowMask v)
  | 0x71 => some (rowSpecial v)
  | 0x80 => some (.sc (x.qb = 0 && x.td = 0 && x.ty = 0 && x.fn = 0 && x.set = 0) (.qbind · x.qa x.k))
  | 0x81 => some (.sc (x.qb = 0 && x.td = 0 && x.ty = 0 && x.fn = 0 && x.k = 0) (.qpos · x.qa x.set))
  | 0x82 => some (.sc (x.qb = 0 && x.td = 0 && x.ty = 0 && x.fn = 0 && x.set = 0) (.qadv · x.qa x.k))
  | 0x84 => some (rowMma x)
  | 0x85 => some (rowMmas x)
  | 0x86 => some (.eng (x.qa = 0 && x.qb = 0 && x.ty = 0 && x.fn = 0 && x.set = 0 && x.k = 0) (.mzero · x.td))
  | 0x87 => some (.eng? (x.qb = 0 && fld x.fn 3 5 = 0 && x.set = 0 && x.k = 0)
              ((Rm.ofCode (fld x.fn 0 3)).map fun rm => (.mrd · (Ty.ofCode x.ty) rm x.qa x.td)))
  | 0x88 => some (.eng? (x.qb = 0 && x.fn = 0 && x.set = 0 && x.k = 0)
              (if x.ty = 0 then some (.mwr · x.td x.qa) else none))
  | 0x89 => some (if 1 < x.fn.toNat then .noSel
              else .eng (x.qb = 0 && x.td = 0 && x.set = 0 && x.k = 0) (.mldw · (Ty.ofCode x.ty) (x.fn = 1) x.qa))
  | 0x8C => some (rowPtrn v)
  | 0x8D => some (rowPshf v)
  | 0x8E => some (rowProt v)
  | 0x8F => some (rowPzip v)
  | 0x90 => some (rowCmd a .cpy)
  | 0x91 => some (rowCmd a .cpym)
  | 0x92 => some (.sc (fld a.fn 1 7 = 0) (.gthr · a.sd a.a a.flag (fld a.fn 0 1 = 1) a.imm))
  | 0x93 => some (rowRed a)
  | 0x94 => some (rowCmd a .send)
  | 0x95 => some (rowCmd a .xlat)
  | 0xA0 => some (rowAtomic y)
  | 0xA1 => some (rowFence y)
  | 0xA2 => some (rowWaita y)
  | 0xA4 => some (rowFlag y)
  | 0xA5 => some (rowRing y)
  | 0xA6 => some (rowBar y)
  | 0xA7 => some (rowTkq y)
  | 0xB0 | 0xB1 | 0xB2 | 0xB3 | 0xB4 | 0xB5 | 0xB6 => some (rowTask op y)
  | 0xB8 | 0xB9 | 0xBA | 0xBB | 0xBC | 0xBD => some (rowRetr op y)
  | 0xC0 | 0xC1 | 0xC2 | 0xC3 | 0xC4 | 0xC5 | 0xFF => some (rowSys op (KF.ofBody h.body))
  | _ => none

/-- The checks 5 and 6 of R52 and the instruction, for a maker whose limits hold. -/
def Maker.finish (m : Maker) (h : Hd) : Except Nat Instr :=
  match m with
  | .eng f =>
    match tokField h.pop, tokField h.push with
    | some po, some pu =>
      if !(f ⟨.always, po, pu⟩).tokens then .error 5
      else match Qual.ofFields h.gate h.stg with
        | some q => .ok (f ⟨q, po, pu⟩)
        | none => .error 6
    | _, _ => .error 5
  | .sc f =>
    if !(h.pop = 0 && h.push = 0) then .error 5
    else match Qual.ofFields h.gate h.stg with
      | some q => .ok (f q)
      | none => .error 6
  | .bare i =>
    if !(h.pop = 0 && h.push = 0) then .error 5
    else if !(h.gate = 0 && h.stg = 0) then .error 6
    else .ok i

/-- The instruction of a maker with no qualifier and no token, for the limit check. -/
def Maker.plain : Maker → Instr
  | .eng f => f ⟨.always, none, none⟩
  | .sc f => f .always
  | .bare i => i

/-- The instruction of a 64-bit word, or the subcode of its ILLOP fault (R51, R52). -/
def decodeWord (w : Word) : Except Nat Instr :=
  let h := Hd.ofWord w
  match rowOf h with
  | none => .error 1
  | some r =>
    if !r.sel then .error 2
    else if !r.zero then .error 3
    else match r.maker with
      | none => .error 4
      | some m => if !m.plain.limits then .error 4 else m.finish h

/-! ## The Pavane's micro-words (R315) -/

/-- The micro-word of 16 bits, or none where it faults PVILL (R315): opcode in [15:11], operand in [10:0]. -/
def decodePavane (w : BitVec 16) : Option Instr :=
  let n := fld w 0 11
  let z (i : Instr) : Option Instr := if n = 0 then some i else none
  let buf (mk : BitVec 2 → Instr) : Option Instr :=
    if fld n 0 1 = 0 && fld n 3 8 = 0 then some (mk (fld n 1 2)) else none
  match (fld w 11 5).toNat with
  | 0x00 => some (.pavaneLit n)
  | 0x01 => some (.pavaneLith n)
  | 0x02 => if fld n 4 7 = 0 then some (.pavaneParm (fld n 0 4)) else none
  | 0x03 => z .pavaneDup
  | 0x04 => z .pavaneDrop
  | 0x05 => z .pavaneSwap
  | 0x06 => z .pavaneOver
  | 0x07 => z .pavaneAdd
  | 0x08 => z .pavaneSub
  | 0x09 => z .pavaneMul
  | 0x0A => some (.pavaneJmp n)
  | 0x0B => some (.pavaneBz n)
  | 0x0C => some (.pavaneDjnz n)
  | 0x0D => if fld n 4 7 = 0 then some (.pavaneWait (fld n 0 4)) else none
  | 0x0E => if fld n 10 1 = 0 && fld n 0 10 != 0 then some (.pavaneSig (fld n 0 10)) else none
  | 0x0F => z .pavaneHalt
  | 0x10 => if fld n 3 8 = 0 then some (.pavaneKvblk (fld n 0 1) (fld n 1 2)) else none
  | 0x11 => buf .pavaneQk
  | 0x12 => buf .pavaneSoft
  | 0x13 => buf .pavanePv
  | 0x14 => z .pavaneFinal
  | 0x15 => z .pavaneTriple
  | 0x16 => z .pavaneMerge
  | 0x17 => z .pavaneRev
  | _ => none

/-! ## The encoder -/

/-- A scalar-pipe word that may be gated. -/
def wSc (op : BitVec 8) (q : Qual) (body : BitVec 44) : Word := (Hd.mk op q.gate q.stg 0 0 body).toWord

/-- An engine word. -/
def wEng (op : BitVec 8) (p : Engw) (body : BitVec 44) : Word :=
  (Hd.mk op p.q.gate p.q.stg (tokCode p.pop) (tokCode p.push) body).toWord

/-- A word that carries no gate. -/
def wBare (op : BitVec 8) (body : BitVec 44) : Word := (Hd.mk op 0 0 0 0 body).toWord

/-- S format with FN and CC. -/
def wS (op : BitVec 8) (q : Qual) (fn : BitVec 8) (d a b c : BitVec 6) (cc : BitVec 3) : Word :=
  wSc op q (SF.mk d a b c fn cc 0).toBody
def wI (op : BitVec 8) (q : Qual) (d a : BitVec 6) (imm : BitVec 32) : Word := wSc op q (IF.mk d a imm).toBody
def wB (op : BitVec 8) (cc : BitVec 3) (neg : BitVec 1) (kind : BitVec 2) (a : BitVec 6) (off : BitVec 32) : Word :=
  wBare op (BF.mk cc neg kind a off).toBody
def wL (op : BitVec 8) (lv : BitVec 3) (a : BitVec 6) (nst : BitVec 3) (off : BitVec 32) : Word :=
  wBare op (LF.mk lv a nst off).toBody
def wM (op : BitVec 8) (size : BitVec 2) (q : Qual) (d a : BitVec 6) (sc : Scope) (o : Ord) (off : BitVec 24) : Word :=
  wSc op q (MF.mk d a sc.code o.code size off).toBody
def wV (op : BitVec 8) (p : Engw) (fn : BitVec 8) (vd va vb vc : BitVec 5) (ty : BitVec 4) (m ax : BitVec 3)
    (imm : BitVec 6) : Word :=
  wEng op p (VF.mk vd va vb vc ty fn m ax imm).toBody
def wX (qa qb : BitVec 4) (td : BitVec 2) (ty : BitVec 4) (fn : BitVec 8) (set : BitVec 6) (k : BitVec 16) :
    BitVec 44 := (XF.mk qa qb td ty fn set k).toBody
def wA (op : BitVec 8) (q : Qual) (sd a : BitVec 6) (flag : BitVec 10) (fn : BitVec 8) (imm : BitVec 14) : Word :=
  wSc op q (AF.mk sd a flag fn imm).toBody
def wY (op : BitVec 8) (q : Qual) (fn : BitVec 8) (d a b : BitVec 6) (obj : BitVec 10) (imm : BitVec 8) : Word :=
  wSc op q (YF.mk d a b obj fn imm).toBody
def wK (op : BitVec 8) (d a : BitVec 6) (csr imm : BitVec 16) : Word := wBare op (KF.mk d a csr imm).toBody

/-- IMM8 of an atomic or a wait (R214, R218). -/
def sowCode (sc : Scope) (o : Ord) (w64 : Bool) : BitVec 8 := (if w64 then (3 : BitVec 2) else 2) ++ o.code ++ sc.code

/-- The column split over VC [25:24] and IMM6 (R50). -/
def colVc (k : BitVec 8) : BitVec 5 := (0 : BitVec 3) ++ fld k 6 2
def colImm (k : BitVec 8) : BitVec 6 := fld k 0 6
def partVc (p : BitVec 2) : BitVec 5 := (0 : BitVec 3) ++ p
def maskVd (t : BitVec 3) : BitVec 5 := (0 : BitVec 2) ++ t

/-- The VA, VB, AX and IMM6 fields of a vector address (R154). -/
def VAddr.va : VAddr → BitVec 5
  | .stream q => (0 : BitVec 1) ++ q
  | .base _ _ => (1 : BitVec 1) ++ (0 : BitVec 4)
def VAddr.vb : VAddr → BitVec 5
  | .stream _ => 0
  | .base s _ => s
def VAddr.ax : VAddr → BitVec 3
  | .base _ (some _) => 1
  | _ => 0
def VAddr.imm : VAddr → BitVec 6
  | .base _ (some i) => i
  | _ => 0

/-- FN and QB of a matrix word's B operand (R168). -/
def BSrc.fn (b : BSrc) (alt : Bool) : BitVec 8 :=
  (0 : BitVec 5) ++ Bool.bit alt ++ (0 : BitVec 1) ++ Bool.bit (b = .wb)
def BSrc.qb : BSrc → BitVec 4
  | .stream q => q
  | .wb => 0

/-- FN of a flag word (R222). -/
def flagFn (die : Bool) (n : BitVec 7) : BitVec 8 := Bool.bit die ++ n

/-- The word of a well-formed instruction (R41 to R50); 0 for an event or a micro-word, which has none. -/
def encode : Instr → Word
  | .add q d a b => wS 0x01 q 0x00 d a b 0 0
  | .sub q d a b => wS 0x01 q 0x01 d a b 0 0
  | .addx q d a b k => wS 0x01 q 0x02 d a b 0 k
  | .lea q d a b sh => wS 0x01 q 0x03 d a b sh 0
  | .min q d a b => wS 0x01 q 0x04 d a b 0 0
  | .max q d a b => wS 0x01 q 0x05 d a b 0 0
  | .minn q d a b => wS 0x01 q 0x06 d a b 0 0
  | .maxn q d a b => wS 0x01 q 0x07 d a b 0 0
  | .and q d a b => wS 0x01 q 0x08 d a b 0 0
  | .or q d a b => wS 0x01 q 0x09 d a b 0 0
  | .xor q d a b => wS 0x01 q 0x0A d a b 0 0
  | .andn q d a b => wS 0x01 q 0x0B d a b 0 0
  | .orn q d a b => wS 0x01 q 0x0C d a b 0 0
  | .sel q d a b k => wS 0x01 q 0x0D d a b 0 k
  | .shl q d a b => wS 0x02 q 0x00 d a b 0 0
  | .shr q d a b => wS 0x02 q 0x01 d a b 0 0
  | .sar q d a b => wS 0x02 q 0x02 d a b 0 0
  | .rol q d a b => wS 0x02 q 0x03 d a b 0 0
  | .ror q d a b => wS 0x02 q 0x04 d a b 0 0
  | .fshl q d a b c => wS 0x02 q 0x05 d a b c 0
  | .fshr q d a b c => wS 0x02 q 0x06 d a b c 0
  | .clz q d a => wS 0x02 q 0x08 d a 0 0 0
  | .ctz q d a => wS 0x02 q 0x09 d a 0 0 0
  | .popc q d a => wS 0x02 q 0x0A d a 0 0 0
  | .brev q d a => wS 0x02 q 0x0B d a 0 0 0
  | .bswp q d a => wS 0x02 q 0x0C d a 0 0 0
  | .mul q d a b => wS 0x03 q 0x00 d a b 0 0
  | .mulh q d a b => wS 0x03 q 0x01 d a b 0 0
  | .mulhn q d a b => wS 0x03 q 0x02 d a b 0 0
  | .div q d a b => wS 0x03 q 0x03 d a b 0 0
  | .divn q d a b => wS 0x03 q 0x04 d a b 0 0
  | .rem q d a b => wS 0x03 q 0x05 d a b 0 0
  | .remn q d a b => wS 0x03 q 0x06 d a b 0 0
  | .cmp q c t a b => wS 0x04 q 0x00 (c.code ++ t) a b 0 0
  | .addi q d a i => wI 0x08 q d a i
  | .andi q d a i => wI 0x09 q d a i
  | .ori q d a i => wI 0x0A q d a i
  | .xori q d a i => wI 0x0B q d a i
  | .shli q d a i => wI 0x0C q d a i
  | .shri q d a i => wI 0x0D q d a i
  | .sari q d a i => wI 0x0E q d a i
  | .bfx q d a p l => wI 0x0F q d a ((0 : BitVec 19) ++ l ++ p)
  | .bfxn q d a p l => wI 0x10 q d a ((0 : BitVec 19) ++ l ++ p)
  | .bfi q d a p l => wI 0x11 q d a ((0 : BitVec 19) ++ l ++ p)
  | .cmpi q c t a i => wI 0x12 q (c.code ++ t) a i
  | .li q d i => wI 0x13 q d 0 i
  | .lih q d i => wI 0x14 q d 0 i
  | .fadd q ty rm d a b => wS 0x20 q ((0 : BitVec 4) ++ ty.code) d a b 0 rm.code
  | .fsub q ty rm d a b => wS 0x20 q ((1 : BitVec 4) ++ ty.code) d a b 0 rm.code
  | .fmul q ty rm d a b => wS 0x20 q ((2 : BitVec 4) ++ ty.code) d a b 0 rm.code
  | .ffma q ty rm d a b c => wS 0x20 q ((3 : BitVec 4) ++ ty.code) d a b c rm.code
  | .fdiv q ty rm d a b => wS 0x20 q ((4 : BitVec 4) ++ ty.code) d a b 0 rm.code
  | .fsqrt q ty rm d a => wS 0x20 q ((5 : BitVec 4) ++ ty.code) d a 0 0 rm.code
  | .fmin q ty d a b => wS 0x20 q ((6 : BitVec 4) ++ ty.code) d a b 0 0
  | .fmax q ty d a b => wS 0x20 q ((7 : BitVec 4) ++ ty.code) d a b 0 0
  | .fcmp q ty c t a b => wS 0x20 q ((8 : BitVec 4) ++ ty.code) (c.code ++ t) a b 0 0
  | .fcvt q dst src rm d a => wS 0x20 q ((9 : BitVec 4) ++ dst.code) d a 0 ((0 : BitVec 2) ++ src.code) rm.code
  | .fclass q ty d a => wS 0x20 q ((10 : BitVec 4) ++ ty.code) d a 0 0 0
  | .br off => wB 0x30 0 0 0 0 off
  | .bc k neg off => wB 0x31 k (Bool.bit neg) 0 0 off
  | .jmpr a => wB 0x32 0 0 1 a 0
  | .call off => wB 0x33 0 0 0 0 off
  | .callr a => wB 0x34 0 0 1 a 0
  | .ret => wB 0x35 0 0 1 62 0
  | .ubz off => wB 0x36 0 0 2 0 off
  | .ubnz off => wB 0x36 0 1 2 0 off
  | .loop lv a off => wL 0x38 lv a 0 off
  | .ploop lv a nst off => wL 0x39 lv a nst off
  | .lend lv off => wL 0x3A lv 0 0 off
  | .lbrk lv off => wL 0x3B lv 0 0 off
  | .join tag => wBare 0x3C (IF.mk 0 0 tag).toBody
  | .detq d => wBare 0x3D (SF.mk d 0 0 0 0 0 0).toBody
  | .exit => wBare 0x3E 0
  | .nop => wBare 0x3F 0
  | .ldb q d a sc o off => wM 0x40 0 q d a sc o off
  | .ldh q d a sc o off => wM 0x40 1 q d a sc o off
  | .ldw q d a sc o off => wM 0x40 2 q d a sc o off
  | .ldd q d a sc o off => wM 0x40 3 q d a sc o off
  | .ldbn q d a sc o off => wM 0x41 0 q d a sc o off
  | .ldhn q d a sc o off => wM 0x41 1 q d a sc o off
  | .ldwn q d a sc o off => wM 0x41 2 q d a sc o off
  | .stb q d a sc o off => wM 0x42 0 q d a sc o off
  | .sth q d a sc o off => wM 0x42 1 q d a sc o off
  | .stw q d a sc o off => wM 0x42 2 q d a sc o off
  | .std q d a sc o off => wM 0x42 3 q d a sc o off
  | .vadd p ty d a b m => wV 0x50 p 0x00 d a b 0 ty.code m 0 0
  | .vsub p ty d a b m => wV 0x50 p 0x01 d a b 0 ty.code m 0 0
  | .vmul p ty d a b m => wV 0x50 p 0x02 d a b 0 ty.code m 0 0
  | .vfma p ty d a b c m => wV 0x50 p 0x03 d a b c ty.code m 0 0
  | .vfms p ty d a b c m => wV 0x50 p 0x04 d a b c ty.code m 0 0
  | .vmin p ty d a b m => wV 0x50 p 0x05 d a b 0 ty.code m 0 0
  | .vmax p ty d a b m => wV 0x50 p 0x06 d a b 0 ty.code m 0 0
  | .vabs p ty d a m => wV 0x50 p 0x07 d a 0 0 ty.code m 0 0
  | .vneg p ty d a m => wV 0x50 p 0x08 d a 0 0 ty.code m 0 0
  | .vand p d a b m => wV 0x51 p 0x00 d a b 0 0xE m 0 0
  | .vor p d a b m => wV 0x51 p 0x01 d a b 0 0xE m 0 0
  | .vxor p d a b m => wV 0x51 p 0x02 d a b 0 0xE m 0 0
  | .vnot p d a m => wV 0x51 p 0x03 d a 0 0 0xE m 0 0
  | .vshl p ty d a b m => wV 0x52 p 0x00 d a b 0 ty.code m 0 0
  | .vshr p ty d a b m => wV 0x52 p 0x01 d a b 0 ty.code m 0 0
  | .vsar p ty d a b m => wV 0x52 p 0x02 d a b 0 ty.code m 0 0
  | .vbfx p ty d a l pos m => wV 0x52 p 0x03 d a 0 l ty.code m 0 pos
  | .vfsh p ty d a b c m => wV 0x52 p 0x04 d a b c ty.code m 0 0
  | .vclz p ty d a m => wV 0x52 p 0x05 d a 0 0 ty.code m 0 0
  | .vpopc p ty d a m => wV 0x52 p 0x06 d a 0 0 ty.code m 0 0
  | .vcmp p ty c t a b m => wV 0x53 p ((0 : BitVec 5) ++ c.code) (maskVd t) a b 0 ty.code m 0 0
  | .vsel p d a b k => wV 0x54 p 0 d a b 0 0xE k 0 0
  | .vmov p d a m => wV 0x55 p 0x00 d a 0 0 0xE m 0 0
  | .vli p ty d imm m => wV 0x55 p 0x01 d 0 (fld imm 11 5) (fld imm 6 5) ty.code m 0 (fld imm 0 6)
  | .vext p ty d a row col => wV 0x55 p 0x02 d a ((0 : BitVec 1) ++ row) (colVc col) ty.code 0 0 (colImm col)
  | .vins p ty d a row col m => wV 0x55 p 0x03 d a ((0 : BitVec 1) ++ row) (colVc col) ty.code m 0 (colImm col)
  | .vcvt p dst src d a part rm m => wV 0x56 p ((0 : BitVec 4) ++ src.code) d a 0 (partVc part) dst.code m rm.code 0
  | .vqnt p ty c d a part rm m => wV 0x57 p ((0 : BitVec 7) ++ Bool.bit c) d a 0 (partVc part) ty.code m rm.code 0
  | .vdqnt p ty c d a part m => wV 0x58 p ((0 : BitVec 7) ++ Bool.bit c) d a 0 (partVc part) ty.code m 0 0
  | .vpack6 p ty d a part m => wV 0x59 p 0 d a 0 (partVc part) ty.code m 0 0
  | .vunpk6 p dst src d a part rm m => wV 0x5A p ((0 : BitVec 4) ++ dst.code) d a 0 (partVc part) src.code m rm.code 0
  | .vhad p ty d a n m => wV 0x5B p 0 d a 0 0 ty.code m 0 n
  | .vrotr p ty d a k m => wV 0x5C p 0x00 d a 0 (colVc k) ty.code m 0 (colImm k)
  | .vrotc p ty d a k m => wV 0x5C p 0x01 d a 0 (colVc k) ty.code m 0 (colImm k)
  | .vbcr p ty d a k m => wV 0x5C p 0x02 d a 0 (colVc k) ty.code m 0 (colImm k)
  | .vbcc p ty d a k m => wV 0x5C p 0x03 d a 0 (colVc k) ty.code m 0 (colImm k)
  | .vredr p op ty d a m => wV 0x5D p (op.code ++ (0 : BitVec 4)) d a 0 0 ty.code m 0 0
  | .vredc p op ty d a m => wV 0x5D p (op.code ++ (1 : BitVec 4)) d a 0 0 ty.code m 0 0
  | .vscanr p op ty d a m => wV 0x5D p (op.code ++ (2 : BitVec 4)) d a 0 0 ty.code m 0 0
  | .vhist p ty d a pos m => wV 0x5E p 0x00 d a 0 0 ty.code m 0 pos
  | .vrkey p ty d a m => wV 0x5E p 0x01 d a 0 0 ty.code m 0 0
  | .vselk p d a b km1 m => wV 0x5E p 0x02 d a b 0 0xE m 0 km1
  | .vcomp p ty d a m => wV 0x5E p 0x03 d a 0 0 ty.code m 0 0
  | .vlut p ty d a b m => wV 0x5F p 0 d a b 0 ty.code m 0 0
  | .vld p ty d ad m => wV 0x60 p 0 d ad.va ad.vb 0 ty.code m ad.ax ad.imm
  | .vst p ty d ad m => wV 0x61 p 0 d ad.va ad.vb 0 ty.code m ad.ax ad.imm
  | .vlda p ty d ad m => wV 0x62 p 0 d ad.va ad.vb 0 ty.code m ad.ax ad.imm
  | .vsta p ty d ad m => wV 0x63 p 0 d ad.va ad.vb 0 ty.code m ad.ax ad.imm
  | .vgth p ty d ad c m => wV 0x64 p 0 d ad.va ad.vb c ty.code m ad.ax ad.imm
  | .vsct p ty d ad c m => wV 0x65 p 0 d ad.va ad.vb c ty.code m ad.ax ad.imm
  | .mpush p k => wV 0x70 p 0x00 0 0 0 0 0 k 0 0
  | .minv p => wV 0x70 p 0x01 0 0 0 0 0 0 0 0
  | .mpop p => wV 0x70 p 0x02 0 0 0 0 0 0 0 0
  | .mset p t v => wV 0x70 p 0x03 (maskVd t) 0 0 0 0 0 0 ((0 : BitVec 5) ++ Bool.bit v)
  | .mmov p t k => wV 0x70 p 0x04 (maskVd t) 0 0 0 0 k 0 0
  | .many p t k => wV 0x70 p 0x05 (maskVd t) 0 0 0 0 k 0 0
  | .mnone p t k => wV 0x70 p 0x06 (maskVd t) 0 0 0 0 k 0 0
  | .mcnt p d k => wV 0x70 p 0x07 d 0 0 0 0 k 0 0
  | .vexp p ty d a m => wV 0x71 p 0x00 d a 0 0 ty.code m 0 0
  | .vexp2 p ty d a m => wV 0x71 p 0x01 d a 0 0 ty.code m 0 0
  | .vlog2 p ty d a m => wV 0x71 p 0x02 d a 0 0 ty.code m 0 0
  | .vrcp p ty d a m => wV 0x71 p 0x03 d a 0 0 ty.code m 0 0
  | .vrsq p ty d a m => wV 0x71 p 0x04 d a 0 0 ty.code m 0 0
  | .vsqrt p ty d a m => wV 0x71 p 0x05 d a 0 0 ty.code m 0 0
  | .vsin p ty d a m => wV 0x71 p 0x06 d a 0 0 ty.code m 0 0
  | .vcos p ty d a m => wV 0x71 p 0x07 d a 0 0 ty.code m 0 0
  | .vtanh p ty d a m => wV 0x71 p 0x08 d a 0 0 ty.code m 0 0
  | .qbind q qa o => wSc 0x80 q (wX qa 0 0 0 0 0 o)
  | .qpos q qa s => wSc 0x81 q (wX qa 0 0 0 0 s 0)
  | .qadv q qa n => wSc 0x82 q (wX qa 0 0 0 0 0 n)
  | .mma p ty alt td qa b n => wEng 0x84 p (wX qa b.qb td ty.code (b.fn alt) 0 n)
  | .mmas p ty alt td qa b n r c => wEng 0x85 p (wX qa b.qb td ty.code (b.fn alt) ((0 : BitVec 2) ++ r ++ c) n)
  | .mzero p td => wEng 0x86 p (wX 0 0 td 0 0 0 0)
  | .mrd p ty rm qa td => wEng 0x87 p (wX qa 0 td ty.code ((0 : BitVec 5) ++ rm.code) 0 0)
  | .mwr p td qa => wEng 0x88 p (wX qa 0 td 0 0 0 0)
  | .mldw p ty pk qa => wEng 0x89 p (wX qa 0 0 ty.code ((0 : BitVec 7) ++ Bool.bit pk) 0 0)
  | .ptrn p ty d a b m => wV 0x8C p 0 d a 0 0 ty.code m 0 b
  | .pshf p ty d a b m => wV 0x8D p 0 d a b 0 ty.code m 0 0
  | .prot p ty d a k m => wV 0x8E p 0 d a 0 (colVc k) ty.code m 0 (colImm k)
  | .pzip p hi ty d a b m => wV 0x8F p ((0 : BitVec 7) ++ Bool.bit hi) d a b 0 ty.code m 0 0
  | .cpy q sd a f r => wA 0x90 q sd a f ((0 : BitVec 7) ++ Bool.bit r) 0
  | .cpym q sd a f r => wA 0x91 q sd a f ((0 : BitVec 7) ++ Bool.bit r) 0
  | .gthr q sd a f r c => wA 0x92 q sd a f ((0 : BitVec 7) ++ Bool.bit r) c
  | .red q sd a f r od op ty n =>
      wA 0x93 q sd a f ((0 : BitVec 3) ++ op.code ++ Bool.bit od ++ Bool.bit r) (ty.code ++ n)
  | .send q sd a f r => wA 0x94 q sd a f ((0 : BitVec 7) ++ Bool.bit r) 0
  | .xlat q sd a f r => wA 0x95 q sd a f ((0 : BitVec 7) ++ Bool.bit r) 0
  | .aadd q w sc o d a b => wY 0xA0 q 0x00 d a b 0 (sowCode sc o w)
  | .aand q w sc o d a b => wY 0xA0 q 0x01 d a b 0 (sowCode sc o w)
  | .aor q w sc o d a b => wY 0xA0 q 0x02 d a b 0 (sowCode sc o w)
  | .axor q w sc o d a b => wY 0xA0 q 0x03 d a b 0 (sowCode sc o w)
  | .amin q w sc o d a b => wY 0xA0 q 0x04 d a b 0 (sowCode sc o w)
  | .amax q w sc o d a b => wY 0xA0 q 0x05 d a b 0 (sowCode sc o w)
  | .aminn q w sc o d a b => wY 0xA0 q 0x06 d a b 0 (sowCode sc o w)
  | .amaxn q w sc o d a b => wY 0xA0 q 0x07 d a b 0 (sowCode sc o w)
  | .axchg q w sc o d a b => wY 0xA0 q 0x08 d a b 0 (sowCode sc o w)
  | .acas q w sc o d a b c => wY 0xA0 q 0x09 d a b ((0 : BitVec 4) ++ c) (sowCode sc o w)
  | .afadd q sc o d a b => wY 0xA0 q 0x0A d a b 0 (sowCode sc o false)
  | .fence q sc o => wY 0xA1 q 0 0 0 0 0 ((0 : BitVec 2) ++ o.code ++ sc.code)
  | .waita q sc o d a b t => wY 0xA2 q 0 d a b ((0 : BitVec 4) ++ t) (sowCode sc o true)
  | .fsig q die d a b o => wY 0xA4 q (flagFn die 0) d a b o 0
  | .fset q die d a b o => wY 0xA4 q (flagFn die 1) d a b o 0
  | .fwait q die d a b o e => wY 0xA4 q (flagFn die 2) d a b o e
  | .fread q die d a o => wY 0xA4 q (flagFn die 3) d a 0 o 0
  | .rclm q d a n e => wY 0xA5 q 0x00 d a 0 ((0 : BitVec 4) ++ n) e
  | .rpub q d a n => wY 0xA5 q 0x01 d a 0 ((0 : BitVec 4) ++ n) 0
  | .rwf q d a n e => wY 0xA5 q 0x02 d a 0 ((0 : BitVec 4) ++ n) e
  | .rrel q d a n => wY 0xA5 q 0x03 d a 0 ((0 : BitVec 4) ++ n) 0
  | .rinfo q d a n => wY 0xA5 q 0x04 d a 0 ((0 : BitVec 4) ++ n) 0
  | .binit q b c => wY 0xA6 q 0x00 0 0 0 ((0 : BitVec 6) ++ b) c
  | .bara q d b => wY 0xA6 q 0x01 d 0 0 ((0 : BitVec 6) ++ b) 0
  | .barw q d b => wY 0xA6 q 0x02 d 0 0 ((0 : BitVec 6) ++ b) 0
  | .barq q d b => wY 0xA6 q 0x03 d 0 0 ((0 : BitVec 6) ++ b) 0
  | .tkq q d t => wY 0xA7 q 0 d 0 0 0 ((0 : BitVec 4) ++ t.code)
  | .tsub q d a b f => wY 0xB0 q 0 d a b f 0
  | .tdep q d a b n => wY 0xB1 q 0 d a b 0 n
  | .tcan q d a => wY 0xB2 q 0 d a 0 0 0
  | .tqry q d a o s => wY 0xB3 q 0 d a 0 o s
  | .xqpush q a o => wY 0xB4 q 0 0 a 0 o 0
  | .xqtake q d a b o n => wY 0xB5 q 0 d a b o n
  | .xqcomb q ty d a b f k => wY 0xB6 q 0 d a b f (ty.code ++ k)
  | .srch q d a b n => wY 0xB8 q 0 d a b ((0 : BitVec 4) ++ n) 0
  | .ixapp q d a f => wY 0xB9 q 0 d a 0 f 0
  | .kvbind q d a b f => wY 0xBA q 0 d a b f 0
  | .kvlookPos q d a b => wY 0xBB q 0 d a b 0 0
  | .kvlookPsg q d a b => wY 0xBB q 0 d a b 0 1
  | .kvlookPfx q d a b => wY 0xBB q 0 d a b 0 2
  | .kvposPos q d a b c => wY 0xBC q 0 d a b ((0 : BitVec 4) ++ c) 0
  | .kvposPfx q d a b c => wY 0xBC q 0 d a b ((0 : BitVec 4) ++ c) 1
  | .astart q d a f => wY 0xBD q 0 d a 0 f 0
  | .csrr d c => wK 0xC0 d 0 c 0
  | .csrw a c => wK 0xC1 0 a c 0
  | .fpCtrlWrite a => wK 0xC1 0 a 0x010 0
  | .stochSeedWrite a => wK 0xC1 0 a 0x012 0
  | .cmpdTableWrite a c => wK 0xC1 0 a c 0
  | .cmpdArm a => wK 0xC1 0 a 0x020 0
  | .syscVersion => wK 0xC2 0 0 0 0x0
  | .syscObjset => wK 0xC2 0 0 0 0x1
  | .syscObjdel => wK 0xC2 0 0 0 0x2
  | .syscRingset => wK 0xC2 0 0 0 0x3
  | .syscXqset => wK 0xC2 0 0 0 0x4
  | .syscMap => wK 0xC2 0 0 0 0x5
  | .syscUnmap => wK 0xC2 0 0 0 0x6
  | .syscPreempt => wK 0xC2 0 0 0 0x7
  | .syscSwitch => wK 0xC2 0 0 0 0x8
  | .syscPreset => wK 0xC2 0 0 0 0x9
  | .syscPower => wK 0xC2 0 0 0 0xA
  | .syscCkpt => wK 0xC2 0 0 0 0xB
  | .syscAttest => wK 0xC2 0 0 0 0xC
  | .syscBadcall n => wK 0xC2 0 0 0 n
  | .hret => wK 0xC3 0 0 0 0
  | .trmark a i => wK 0xC4 0 a 0 i
  | .wpset a d s sc k => wK 0xC5 d a 0 ((0 : BitVec 9) ++ k.code ++ sc.code ++ s)
  | .dbrk t => wK 0xFF 0 0 0 t
  | _ => 0

/-- A micro-word: opcode and operand (R315). -/
def wP (op : BitVec 5) (n : BitVec 11) : BitVec 16 := op ++ n

/-- The 16-bit word of a micro-instruction (R315); 0 for any other. -/
def encodePavane : Instr → BitVec 16
  | .pavaneLit n => wP 0x00 n
  | .pavaneLith n => wP 0x01 n
  | .pavaneParm k => wP 0x02 ((0 : BitVec 7) ++ k)
  | .pavaneDup => wP 0x03 0
  | .pavaneDrop => wP 0x04 0
  | .pavaneSwap => wP 0x05 0
  | .pavaneOver => wP 0x06 0
  | .pavaneAdd => wP 0x07 0
  | .pavaneSub => wP 0x08 0
  | .pavaneMul => wP 0x09 0
  | .pavaneJmp o => wP 0x0A o
  | .pavaneBz o => wP 0x0B o
  | .pavaneDjnz o => wP 0x0C o
  | .pavaneWait g => wP 0x0D ((0 : BitVec 7) ++ g)
  | .pavaneSig f => wP 0x0E ((0 : BitVec 1) ++ f)
  | .pavaneHalt => wP 0x0F 0
  | .pavaneKvblk r b => wP 0x10 ((0 : BitVec 8) ++ b ++ r)
  | .pavaneQk b => wP 0x11 ((0 : BitVec 8) ++ b ++ (0 : BitVec 1))
  | .pavaneSoft b => wP 0x12 ((0 : BitVec 8) ++ b ++ (0 : BitVec 1))
  | .pavanePv b => wP 0x13 ((0 : BitVec 8) ++ b ++ (0 : BitVec 1))
  | .pavaneFinal => wP 0x14 0
  | .pavaneTriple => wP 0x15 0
  | .pavaneMerge => wP 0x16 0
  | .pavaneRev => wP 0x17 0
  | _ => 0

/-- The instruction the decoder reads from an instruction whose bits are `w` (bit 0 the least significant bit of the
first word): a 16-bit micro-word of the Pavane, or a 64-bit word of a core (R41, R315). A table row that gives no bits of its own
is a 64-bit word's. -/
def decodeTableWord (nbits w : Nat) : Option Instr :=
  if nbits = 16 then decodePavane (BitVec.ofNat 16 w)
  else match decodeWord (BitVec.ofNat 64 w) with
    | .ok i => some i
    | .error _ => none

end Sys2Proof
end

