-- ==== Sys2Proof/Machine/State.lean ====
section
/-!
DEFINITION. The state of one A-720: every piece of state the manual gives the device, as plain data
(INVENTORY.md lists each with its rule and its reset value). `agenda` and `arg` are the model's own: the moves of the
agents and the outside inputs, in the order in which they happen.
-/

namespace Sys2Proof.Machine

/-- A sparse table by number; a number that is not listed reads as the table's default. -/
abbrev Tab (α : Type) := List (Nat × α)

/-- The bytes of storage by location (07_ordering.md R183): see `Sys2Proof/Machine/Ops.lean` for the numbering of locations.
Addresses rise strictly and no listed byte is 0, which is what an unlisted location reads as. -/
abbrev Memory := List Host.Cell

/-! ## The core -/

/-- One hardware loop level (04_scalar_control.md "Hardware loops", R115 to R119). The iteration number `k` is exact: a kernel
runs N + S − 1 iterations (01_machine.md R25), which may pass 2^32; LOOPI and ITER show its low 32 bits. -/
structure LoopLv where
  active : Bool
  trip : BitVec 32
  k : Nat
  body : Word
  brk : Bool
  pipelined : Bool
  opened : Bool
  deriving DecidableEq, Repr, Inhabited

/-- The loop state: six levels, the stage window and the stage count less one of the pipelined level (R25, R119). -/
structure LoopState where
  lv : Vector LoopLv 6
  sp : BitVec 8
  nst : BitVec 3
  deriving DecidableEq, Repr

/-- A stream register (06_streams_matrix.md R162). -/
structure StreamReg where
  bound : Bool
  index : BitVec 16
  entry : BitVec 512
  p0 : BitVec 24
  p1 : BitVec 24
  p2 : BitVec 8
  p3 : BitVec 8
  deriving DecidableEq, Repr, Inhabited

/-- An effective position (R164): exact, may be negative. -/
structure Pos where
  p0 : Int
  p1 : Int
  p2 : Int
  p3 : Int
  deriving DecidableEq, Repr, Inhabited

/-- An entry of an engine queue: the word with the operands captured when it entered (R31, R154, R164). `seq` is its
place in program order; `ms` and `mc` are the registers it marks pending (R34); `noWatch` is set when HRET re-issues it
(12_recovery.md R351); `nth` counts the MMAS words that are on (R177). -/
structure QEntry where
  seq : Nat
  word : Word
  pc : Word
  on : Bool
  scalar : Word
  sa : StreamReg
  sb : StreamReg
  pa : Pos
  pb : Pos
  ms : Option (BitVec 6)
  mc : Option (BitVec 3)
  noWatch : Bool
  nth : Nat
  deriving DecidableEq, Repr, Inhabited

/-- An engine instruction that has issued and whose results are not yet written: the token it pushes and the scalar or
condition register it writes (R33, R34). -/
structure Inflight where
  seq : Nat
  push : Option TokQ
  sw : Option (BitVec 6 × Word)
  cw : Option (BitVec 3 × Bool)
  deriving DecidableEq, Repr, Inhabited

/-- One engine of a core: its queue of at most 32 entries, oldest first, and what it has in flight (R31, R33). -/
structure EngState where
  queue : List QEntry
  inflight : List Inflight
  deriving DecidableEq, Repr, Inhabited

/-- A row of 256 bytes that an engine's issued word has still to write to vector register `d` (05_vector.md R128). -/
structure LateRow where
  eng : Eng
  d : Nat
  row : Nat
  data : BitVec 2048
  deriving DecidableEq, Repr, Inhabited

/-- A token queue: tokens visible, and pushes reserved but not yet visible (R32, R33, R235). -/
structure TokState where
  vis : Nat
  res : Nat
  deriving DecidableEq, Repr, Inhabited

/-- An outstanding scalar load, strong store or atomic (08_sync_async.md R213). A load's or atomic's value waits for its
response; a strong store performs and is acknowledged at its home. `shadow` says the bank that s56 to s63 named. -/
inductive OutAcc where
  | load (d : BitVec 6) (shadow : Bool) (v : Word)
  | atomic (d : BitVec 6) (shadow : Bool) (v : Word)
  | store (loc : Nat) (bytes : List Byte) (va : Nat)
  deriving DecidableEq, Repr, Inhabited

/-- An entry of the store-merge buffer (07_ordering.md R195): a 64-byte granule, its bytes and byte mask. -/
structure SmbEntry where
  gran : Nat
  bytes : Granule
  mask : BitVec 64
  draining : Bool
  filled : Nat
  deriving DecidableEq, Repr, Inhabited

/-- An entry of the read staging (R196, R197). -/
structure StageEntry where
  gran : Nat
  bytes : Granule
  filled : Nat
  deriving DecidableEq, Repr, Inhabited

/-- An armed monitor of WAITA (R218 to R220). -/
structure Monitor where
  loc : Nat
  expect : Word
  d : BitVec 6
  shadow : Bool
  acq : Bool
  scope : Scope
  deadline : Option Nat
  woken : Bool
  deriving DecidableEq, Repr, Inhabited

/-- A word that waits in the scalar pipe (R120, R218, R223, R227, R231; R401 for the deadline). `agent` is who made the
write that reached an FWAIT's target (R224); `got` is what a BARW returns once its phase has completed, its status and c1 (R231,
R232); `sysc` is a system call in progress (01_machine.md R24, 12_recovery.md R350). -/
inductive Wait where
  | join (tag : BitVec 32) (deadline : Nat)
  | waita (m : Nat)
  | fwait (die : Bool) (home flag : Nat) (target : BitVec 32) (issued : Nat) (deadline : Option Nat) (d : BitVec 6) (agent : Nat)
  | rclm (clus ring : Nat) (deadline : Option Nat) (d : BitVec 6)
  | rwf (clus ring : Nat) (deadline : Option Nat) (d : BitVec 6)
  | barw (b : Nat) (d : BitVec 6) (got : Option (Word × Bool))
  | sysc (i : Instr)
  deriving DecidableEq, Repr, Inhabited

/-- Phases of a tile task on a core (01_machine.md R24). `ended` is a core whose part has ended and whose task has not. -/
inductive Phase where
  | idle | prologue | kernel | epilogue | ended
  deriving DecidableEq, Repr, Inhabited

/-- Kinds of an accumulator tile (06_streams_matrix.md R167). -/
inductive TKind where
  | zero | float | int
  deriving DecidableEq, Repr, Inhabited

/-- The weight buffer and the fields of MX_STATE that describe it (R167, R173). -/
structure WBuf where
  valid : Bool
  cmp : Bool
  ty : Ty
  kcur : Nat
  kld : Nat
  rows : List (List Byte)
  last : Option QEntry
  deriving DecidableEq, Repr, Inhabited

/-- A watchpoint slot (12_recovery.md R363, R364): the range as armed, and the locations it watches. -/
structure WpSlot where
  addr : BitVec 52
  len : BitVec 21
  scope : BitVec 3
  kind : BitVec 2
  loc : Nat
  deriving DecidableEq, Repr, Inhabited

/-- A precise fault that waits for the older engine entries to complete (R350, R353). `seq` is the place of the
faulting word in program order; `eng` its engine when it was a queue entry, `stage` the stage of its gate (R367), `cmd` the RED
command whose contribution it traps (03_numbers.md R94). -/
structure PendFault where
  rep : Vector Word 8
  seq : Nat
  eng : Option Eng
  stage : Nat
  since : Nat
  cmd : Option Nat
  deriving DecidableEq, Repr

/-- One core: everything the manual gives a core (01_machine.md R7, R27). The last three fields are the model's own: the stage of
the gate of the scalar pipe's word (R367), and the cycle of the newest engine word to issue with its place in program order
(R402). -/
structure Core where
  -- registers
  s : Vector Word 64
  shadow : Vector Word 8
  c : BitVec 8
  v : Vector VData 32
  m : Vector MaskData 8
  mstack : List MaskData
  t : Vector TileData 4
  tkind : Vector TKind 4
  q : Vector StreamReg 16
  loops : LoopState
  pc : Word
  -- the task
  task : Option Nat
  phase : Phase
  rank : Nat
  lastPart : Option Nat
  phaseStart : Nat
  phaseDue : Bool
  -- engines
  eng : Vector EngState 5
  toks : Vector TokState 8
  seq : Nat
  mmasSeen : Nat
  mmasDone : Nat
  wbuf : WBuf
  -- memory side
  smb : List SmbEntry
  staging : List StageEntry
  out : List OutAcc
  monitors : Vector (Option Monitor) 4
  wait : Option Wait
  -- attachment and fetch
  att : Bool
  qpos : Nat
  lines : List (Nat × BitVec 512)
  badLines : List Nat
  refills : List Nat
  -- control registers
  ftz : Bool
  nten : Bool
  fpstat : BitVec 8
  seed : Word
  genS : Word
  genV : Word
  genM : Word
  cmpdSeg : Vector (BitVec 40) 16
  cmpdOfs : Vector (BitVec 32) 16
  cmpdN : BitVec 4
  cmpdValid : Bool
  cmpdErr : Bool
  joinTimeout : BitVec 32
  xqStride : BitVec 24
  xqWidth : BitVec 16
  hndCtl : BitVec 4
  hndBase : BitVec 52
  inh : Bool
  skip : Bool
  hndStart : Nat
  faultRep : Vector Word 8
  wp : Vector WpSlot 4
  wpHit : BitVec 4
  traceCtl : BitVec 16
  -- faults, stops, halts
  pend : Option PendFault
  noWatch : Bool
  stopped : Bool
  halted : Bool
  haltRep : Vector Word 8
  haltStart : Nat
  drainSince : Option Nat
  late : List LateRow
  stage : Nat
  issueCycle : Nat
  issueSeq : Nat
  deriving DecidableEq, Repr

/-! ## The cluster -/

/-- A decoded word in the drift window (01_machine.md R29): `ref` is the leader's next address at a pausing word, once the
leader has executed it, and `trip` the trip count it captured (R114, R269); `unc` says that it was read with an uncorrectable error
(12_recovery.md R354). -/
structure WinEntry where
  pc : Word
  word : Word
  unc : Bool
  ref : Option Word
  trip : BitVec 32
  deriving DecidableEq, Repr, Inhabited

/-- States of the Quadrille (09_progress_scheduling.md R271). -/
inductive QuadRun where
  | idle | running | paused | stopped
  deriving DecidableEq, Repr, Inhabited

/-- The Quadrille of a cluster (R29, R120, R269): the window's newest 128 entries with the number of the first one, the
JOIN words that left it last, its own loop state, and the next address it decodes. -/
structure Quad where
  run : QuadRun
  dpc : Word
  base : Nat
  win : List WinEntry
  hist : List (Word × BitVec 32)
  loops : LoopState
  phase : Phase
  deriving DecidableEq, Repr

/-- A ring descriptor with its hidden bits (08_sync_async.md R226): `filled` and `released` list the slots whose bit is set. -/
structure Ring where
  base : BitVec 52
  slotsz : BitVec 16
  count : BitVec 11
  valid : Bool
  part : BitVec 3
  dlv : Bool
  claimed : BitVec 32
  tail : BitVec 32
  taken : BitVec 32
  head : BitVec 32
  filled : List Nat
  released : List Nat
  deriving DecidableEq, Repr, Inhabited

/-- A named barrier (R230). -/
structure Barrier where
  cur : BitVec 16
  nxt : BitVec 16
  mem : BitVec 16
  exp : BitVec 5
  expl : BitVec 5
  lost : Bool
  valid : Bool
  phase : BitVec 32
  deriving DecidableEq, Repr, Inhabited

/-- A buffer of the Pavane (10_retrieval_attention.md R316): the block's keys and values, the keys that are masked, and per
query row the scores and probabilities as FP32 bits. -/
structure PavBuf where
  filled : Bool
  keys : List Byte
  vals : List Byte
  masked : BitVec 64
  scores : List (List (BitVec 32))
  probs : List (List (BitVec 32))
  deriving DecidableEq, Repr, Inhabited

/-- A launched operation of a Pavane pass that has not ended (R315, R316): its opcode and buffer; for KVBLK the region, the
block position and the first slot read once it has been made; for TRIPLE the number of the message once it has been sent. `pc` is
the address of its word in the control store. -/
structure PavOp where
  pc : Nat
  op : Nat
  buf : Nat
  psg : Bool
  p : Word
  first : Option Word
  sent : Option Nat
  deriving DecidableEq, Repr, Inhabited

/-- A Pavane pass in progress (R314 to R319): who started it and its flag, the parameter words, the objects it checked with the
entries of QOBJ and OOBJ, the program, the buffers, and the working state with its query rows. `mergeDeadline` is set while
a MERGE waits, and `id` is the number that the pass took at its start. -/
structure Pass where
  id : Nat
  part : Nat
  inst : Nat
  node : Option Nat
  flag : Nat
  params : List Word
  objs : List Nat
  qent : BitVec 512
  oent : BitVec 512
  fmt : Ty
  pc : Nat
  stack : List Word
  bufs : Vector PavBuf 4
  qry : List (List Byte)
  m : List (BitVec 32)
  l : List (BitVec 32)
  o : List (List (BitVec 32))
  revn : BitVec 32
  origin : Nat
  hop : Nat
  ops : List PavOp
  mergeDeadline : Option Nat
  deriving DecidableEq, Repr

/-- An ASTART request not yet part of a pass (R313): the core, its instance and task, parameter block and flag. -/
structure PavReq where
  core : Nat
  inst : Nat
  task : Option Nat
  blk : Word
  flag : BitVec 10
  deriving DecidableEq, Repr, Inhabited

/-- The report of a fault in a pass (R318), in the Pavane of the cluster that it names: the cause, the control-store address and
the word. -/
structure PavReport where
  cause : Nat
  pc : Nat
  word : BitVec 16
  deriving DecidableEq, Repr, Inhabited

/-- The Pavane of a cluster (R312): the control store (unlisted words are 0), the requests, the number of passes
started, the pass in progress, and the report of its last fault. -/
structure Pavane where
  store : Tab (BitVec 16)
  reqs : List PavReq
  passes : Nat
  pass : Option Pass
  report : Option PavReport
  deriving DecidableEq, Repr

/-- One cluster: its owner (11_isolation.md R323), its Quadrille, flags, rings, barriers, Pavane, and the power mode it
has adopted (R346). -/
structure Cluster where
  part : Nat
  quad : Quad
  flags : Tab (BitVec 32)
  rings : Tab Ring
  bars : Tab Barrier
  pav : Pavane
  mode : BitVec 2
  deriving DecidableEq, Repr

/-! ## Work -/

/-- States of a node (09_progress_scheduling.md R259). -/
inductive NodeState where
  | waiting | ready | pooled | running | saved | complete | dropped
  deriving DecidableEq, Repr, Inhabited

/-- A node of a live instance: its record and successors as read at submission, its dependence count, its state, the die whose
pool holds it, when it became ready, whether it is promoted, moving to another die or has moved (R256 to R262); since when it has
waited in the pool with no executor idle for it, and whether it has asked for a pre-emption (R262, R263). -/
structure Node where
  record : BitVec 512
  succ : List Nat
  addr : Nat
  cnt : Nat
  st : NodeState
  die : Nat
  readyAt : Nat
  promoted : Bool
  moved : Bool
  inTransit : Option (Nat × Nat)
  blocked : Option Nat
  asked : Bool
  task : Option Nat
  deriving DecidableEq, Repr, Inhabited

/-- An expert-queue descriptor with the pusher's instance and the push time (R276). -/
structure XDesc where
  bits : BitVec 128
  inst : Nat
  time : Nat
  deriving DecidableEq, Repr, Inhabited

/-- Who learns of an instance's end (R251, R255): a TSUB's cluster flag, or a LAUNCH packet. -/
inductive Notify where
  | none
  | flag (clus flag : Nat)
  | packet (seq : BitVec 32) (vec : BitVec 12) (cpl : BitVec 52)
  deriving DecidableEq, Repr, Inhabited

/-- A live graph instance (R254 to R258, R265). -/
structure Instance where
  part : Nat
  parent : Option Nat
  die : Nat
  notify : Notify
  graph : Nat
  nodes : List Node
  cancelled : Option Nat
  delivered : Bool
  restarts : Nat
  batch : Option (Nat × List XDesc)
  deriving DecidableEq, Repr, Inhabited

/-- A tile task that runs on a set of cores (01_machine.md R23, R24). `part` is its partition; `preReq` and `haltReq` are
requests that have not taken effect, and `stopAt` the address of the stop point once decoded (R272). -/
structure Task where
  inst : Nat
  node : Nat
  part : Nat
  clus : Nat
  first : Nat
  size : Nat
  recAddr : Nat
  pro : Word
  kern : Word
  epi : Word
  trip : BitVec 32
  nst : BitVec 3
  since : Nat
  preReq : Bool
  haltReq : Bool
  saving : Bool
  preBytes : Nat
  deriving DecidableEq, Repr, Inhabited

/-- A region record read at hand-off, with the object entry it names (08_sync_async.md R237). -/
structure Region where
  obj : BitVec 16
  entry : BitVec 512
  dev : Nat
  remote : Bool
  rank : Nat
  pos : Word
  box : Word
  idx : Nat
  deriving DecidableEq, Repr, Inhabited

/-- What an accepted command does (R239 to R242, 09_progress_scheduling.md R284). -/
inductive CmdKind where
  | copy (src dst : Region)
  | transpose (src dst : Region)
  | gather (src dst : Region) (idx : List Nat)
  | reduce (src dst : Region) (ty : Ty) (op : RemOp) (ordered : Bool) (srcs : Nat)
  | send (src : Region) (desig : Word)
  | xlat (va len : Nat)
  | combine (ty : Ty) (row dst : Nat) (k stride width : Nat)
  deriving DecidableEq, Repr, Inhabited

/-- A command accepted by a cluster copy engine (`die` false, engine 2g + e) or a die copy engine (`die` true, engine
4d + e) and not yet completed (01_machine.md R37, R236). `core` is the issuing core, whose own windows it uses, and `task` its task
(R28), `pc` the command's address, `ftz` that core's FTZ and `seq` the place of its next queue entry at hand-off. `trapped` says that
its contribution has raised the trap of 03_numbers.md R94, and `reads` lists the addresses that its hand-off read: the region
records and the index list (R237, R238). -/
structure Cmd where
  id : Nat
  die : Bool
  engine : Nat
  core : Option Nat
  task : Option Nat
  pc : Word
  ftz : Bool
  part : Nat
  inst : Nat
  node : Option Nat
  flag : Nat
  kind : CmdKind
  started : Bool
  moved : Bool
  applied : Bool
  seq : Nat
  trapped : Bool
  reads : List (Nat × Nat)
  deriving DecidableEq, Repr, Inhabited

/-- A contribution held by an ordered round: its rank, its elements, whether its sender flushes subnormals, and the command
to signal (R240). -/
structure Contribution where
  rank : Nat
  data : List Byte
  ftz : Bool
  cmd : Option Nat
  deriving DecidableEq, Repr, Inhabited

/-- An open ordered round at die `die`'s receive side (R240). -/
structure Round where
  part : Nat
  obj : BitVec 16
  pos : Word
  box : Word
  entry : BitVec 512
  ty : Ty
  op : RemOp
  srcs : Nat
  dflag : Nat
  die : Nat
  held : List Contribution
  deriving DecidableEq, Repr, Inhabited

/-- A payload waiting for a slot of a local ring (R229, R241): a SEND's, a link's or a Pavane's. `sender` names who sent it. -/
structure Delivery where
  id : Nat
  part : Nat
  clus : Nat
  ring : Nat
  bytes : List Byte
  cmd : Option Nat
  pav : Option Nat
  sender : Nat
  deriving DecidableEq, Repr, Inhabited

/-- An expert queue (09_progress_scheduling.md R275 to R280): its configuration, its descriptors oldest first, how many of
them stand in die scratch, when it fired last, and since when it has been fill-due. -/
structure XQueue where
  cfg : BitVec 128
  descs : List XDesc
  near : Nat
  firedAt : Option Nat
  fillSince : Option Nat
  deriving DecidableEq, Repr, Inhabited

/-! ## Retrieval -/

/-- A record of an index's append log (10_retrieval_attention.md R289, R290). -/
structure LogRec where
  del : Bool
  id : Word
  vec : List Byte
  deriving DecidableEq, Repr, Inhabited

/-- An index: its properties, its current generation with the merge point, the whole log, and the older generations that
running searches may still read (R288 to R291). -/
structure Index where
  props : IndexProps
  gen : Nat
  mg : Nat
  cur : IndexGen
  log : List LogRec
  deriving DecidableEq, Repr, Inhabited

/-- What a flash namespace holds under a name (R288, R333). -/
inductive Store where
  | index (x : Index)
  | passages (ps : List (Word × List (List Byte)))
  deriving DecidableEq, Repr, Inhabited

/-- A candidate of a traversal (R295): its guidance distance's bits, whether its record has been expanded, and the failed reads
of it so far (R297). -/
structure Cand where
  guide : BitVec 32
  id : Word
  expanded : Bool
  fails : Nat
  deriving DecidableEq, Repr, Inhabited

/-- A page that an ivf traversal is to read (R296): its list, or the number of lists for a centroid page, its place there, and
the failed reads of it so far. -/
structure ListPage where
  list : Nat
  page : Nat
  fails : Nat
  deriving DecidableEq, Repr, Inhabited

/-- A search in progress (R292 to R301), with the snapshot it fixed. `objs` is the index object it checked; `listed` says that
the lists of an ivf traversal are chosen, `short` that a page was still needed when the budget was spent, and `slot` the
result slot it has claimed. `flying` lists the candidates whose reads had been issued when another completed, and are in flight, and `ooo`
says that a read has completed before one issued earlier (R299). `touched` lists the translated addresses that its start read
(11_isolation.md R332). -/
structure Search where
  part : Nat
  inst : Nat
  node : Option Nat
  objs : List Nat
  snum : Nat
  ctrl : Nat
  ringClus : Nat
  ring : Nat
  flagDie : Bool
  flagHome : Nat
  flag : Nat
  k : Nat
  det : Bool
  beam : Nat
  pages : Nat
  query : List Byte
  guideTab : List Byte
  props : IndexProps
  gen : Nat
  snap : IndexGen
  logVis : List LogRec
  logPos : Nat
  cand : List Cand
  flying : List Cand
  seen : List Word
  scored : List (BitVec 32 × Word)
  cents : List (BitVec 32 × Word)
  todo : List ListPage
  listed : Bool
  done : Nat
  req : Nat
  lost : Nat
  finished : Bool
  short : Bool
  slot : Option Nat
  ooo : Bool
  touched : List (Nat × Nat)
  deriving DecidableEq, Repr, Inhabited

/-- A KVBIND command in progress (R306): the store's key, where its first passage slot lies, and the pool's entry. -/
structure KvBind where
  id : Nat
  part : Nat
  inst : Nat
  core : Nat
  objs : List Nat
  ctrl : Nat
  ns : Nat
  store : Nat
  slotLoc : Nat
  nblk : Nat
  pid : Word
  blk0 : Nat
  pool : BitVec 512
  flag : Nat
  deriving DecidableEq, Repr, Inhabited

/-- An appended record that is not yet durable (R290). -/
structure Append where
  id : Nat
  part : Nat
  inst : Nat
  clus : Nat
  flag : Nat
  ctrl : Nat
  deriving DecidableEq, Repr, Inhabited

/-! ## Partitions and the host -/

/-- An object-table entry with its shadow record: the flash namespace, the store that it names there, and the guard (11_isolation.md
R333). -/
structure ObjEntry where
  bits : BitVec 512
  ns : Nat
  store : Nat
  guard : Nat
  deriving DecidableEq, Repr, Inhabited

/-- The command window and register page of a partition (09_progress_scheduling.md R248 to R252, 12_recovery.md R366). `halted` is
the stop on an overrun that only a partition reset ends; `launched` lists the live instances of earlier LAUNCH packets,
`fence` the FENCE that waits for them, and `untested` says that the packet at HEAD is not tested for a breakpoint again. -/
structure CmdQ where
  slots : Tab (BitVec 512)
  tail : BitVec 32
  head : BitVec 32
  en : Bool
  log2 : BitVec 4
  coal : BitVec 16
  halted : Bool
  ovr : Bool
  brk0 : BitVec 55
  brk1 : BitVec 55
  hit : Bool
  which : Bool
  hitSeq : BitVec 32
  untested : Bool
  fence : Option (BitVec 512)
  launched : List Nat
  deriving DecidableEq, Repr, Inhabited

/-- A trace record: TIME and the three doublewords that follow it (12_recovery.md R367). -/
structure TraceRec where
  time : Word
  what : Word
  arg0 : Word
  arg1 : Word
  deriving DecidableEq, Repr, Inhabited

/-- The core, instance and node that the records of a dump name (R371). -/
structure DumpWho where
  core : Nat
  inst : Nat
  node : Nat
  deriving DecidableEq, Repr, Inhabited

/-- A dump without its END: its bytes, how many records they are, whose they are, and the locations that it read with an uncorrectable
error (R354, R371). -/
structure DumpText where
  bytes : List Byte
  records : Nat
  who : DumpWho
  unc : List Nat
  deriving DecidableEq, Repr, Inhabited

/-- The dump area of a partition (R371): the dump not yet read by the host, its records so far, the task whose dump is still
open to a nested fault, the dumps queued behind another task's, and the count of lost ones. `unc` lists the locations that the
dump read with an uncorrectable error (R354). -/
structure DumpArea where
  cur : Option (List Byte)
  unc : List Nat
  records : Nat
  who : DumpWho
  openTask : Option Nat
  queued : List DumpText
  lost : Nat
  deriving DecidableEq, Repr, Inhabited

/-- A mapped page: its first address, its bytes, its physical address and its leaf level (11_isolation.md R328). -/
structure PageMap where
  va : Nat
  size : Nat
  pa : Nat
  lv : Nat
  deriving DecidableEq, Repr, Inhabited

/-- A change of the mapping whose tables are written and whose caller still waits (R332): the caller (a core, or 512 and the core
for which service firmware calls), the pages of the old mapping, the page-table entries as they were, the number that parts the users
of the old mapping from those of the new, and what the call returns in s2. -/
structure Remap where
  caller : Nat
  old : List PageMap
  pages : Tab (BitVec 64)
  since : Nat
  res : Option Word
  deriving DecidableEq, Repr, Inhabited

/-- What a partition owns beside its clusters (R323): object table, page table entries by (level, index) with the physical address of
the level-0 table (R328), expert queues and spill area, command window, flash namespaces, DTAG, MSI-X range, exposed LPDDR, a change
of the mapping in progress, dump area, debug session, reset in progress. -/
structure Partition where
  objs : Tab ObjEntry
  pages : Tab (BitVec 64)
  root : Option Nat
  remap : Option Remap
  xqs : Tab XQueue
  spillCap : Nat
  cmdq : CmdQ
  namespaces : List Nat
  dtag : Option (BitVec 16)
  msixBase : Nat
  msixCount : Nat
  hdm : Tab Nat
  dump : DumpArea
  debug : Bool
  resetting : Bool
  deriving DecidableEq, Repr, Inhabited

/-- A window of message coalescing (R251). -/
structure Coalesce where
  part : Nat
  vec : Nat
  ends : Nat
  deriving DecidableEq, Repr, Inhabited

/-- A message the device sends to the host (R210, R251, R337, R373, R375). -/
inductive HostMsg where
  | msix (vec : Nat)
  | recovered
  | devLost (dev : Nat)
  | loaderFailed
  deriving DecidableEq, Repr, Inhabited

/-- A rejection that goes back to the sender of a payload (08_sync_async.md R240, R241): its device, its instance, and the cause of the
cancel token. -/
structure Reject where
  dev : Nat
  inst : Nat
  cause : Nat
  deriving DecidableEq, Repr, Inhabited

/-- A message sent over a peer link and not yet published or rejected (R208, R343). -/
structure LinkMsg where
  id : Nat
  dev : Nat
  port : Nat
  inst : Nat
  cmd : Option Nat
  pl : Payload
  deriving DecidableEq, Repr, Inhabited

/-- A saved context (R358, R360): the cores of a pre-empted task as they stopped, the contents of their scratch with its dirty
regions and what was read with an uncorrectable error: locations, and places elsewhere above every location (`uncPlace`). A cluster
switched out is saved with no cores. -/
structure Saved where
  cores : List (Nat × Core)
  clus : Nat
  scratch : List Host.Cell
  dirty : List Nat
  unc : List Nat
  deriving DecidableEq, Repr

/-- A die's part: its Galliard's registers, its pool of 4,096 entries with the entry that the sweep examines next
(09_progress_scheduling.md R260, R264, R266), its last-level TLB as (partition, page base, page size) with each partition's share in
units of 768 entries (11_isolation.md R331). -/
structure Die where
  age : BitVec 32
  xchg : BitVec 16
  pool : Tab (Nat × Nat)
  sweep : Nat
  tlb : List (Nat × Nat × Nat)
  shares : Tab Nat
  flags : Tab (BitVec 32)
  traces : Tab (List TraceRec)
  dropped : Tab (BitVec 32)
  deriving DecidableEq, Repr

/-- A checkpoint image (12_recovery.md R372): everything that a restore brings back. -/
structure Image where
  epoch : Nat
  valid : Bool
  mem : Memory
  memunc : List Nat
  dirty : List Nat
  baseline : Memory
  cores : Tab Core
  clusters : Tab Cluster
  dies : Tab Die
  parts : Tab Partition
  insts : Tab Instance
  instCounter : BitVec 24
  tasks : Tab Task
  saved : Tab Saved
  swapped : Tab Saved
  tokens : List Nat
  cmds : List Cmd
  granules : Tab Nat
  deriving DecidableEq, Repr

/-! ## The device -/

/-- Where storage other than LPDDR and scratch is read with an uncorrectable error (12_recovery.md R354): by the word of a core's scalar
pipe or of an engine (its registers, tiles, queues, TLB and weight buffer), by copy command `i`, search `n`, KVBIND `i` or the pass of
cluster `k` (the memory of their engine, controller or Pavane), by the controller of append `i`, or by trusted firmware while it
writes partition `p`'s dump or saves the context of task `tn`, at its own place `i` (assumption 53). -/
inductive UncRead where
  | scalar (g : Nat)
  | engine (g : Nat) (e : Eng)
  | command (i : Nat)
  | search (n : Nat)
  | bind (i : Nat)
  | append (i : Nat)
  | pass (k : Nat)
  | dump (p i : Nat)
  | saving (tn i : Nat)
  deriving DecidableEq, Repr, Inhabited

/-- Who moves next: a core's scalar pipe, an engine of a core (`engineLate` leaves some rows of the result to be written later, and `rows`
writes them, 05_vector.md R128), a cluster's Pavane, a read that meets an uncorrectable error, or an event. -/
inductive Turn where
  | scalar (g : Nat)
  | engine (g : Nat) (e : Eng)
  | engineLate (g : Nat) (e : Eng) (rows : List Nat)
  | rows (g : Nat) (e : Eng) (rows : List Nat)
  | pavane (k : Nat)
  | unc (x : UncRead)
  | event (i : Instr) (a : Arg)
  deriving DecidableEq, Repr, Inhabited

/-- One move of the agenda: the cycles that pass before it, and who moves. -/
structure Move where
  dt : Nat
  turn : Turn
  deriving DecidableEq, Repr, Inhabited

/-- The firmware's condition (11_isolation.md R337). -/
inductive Firmware where
  | running | loader
  deriving DecidableEq, Repr, Inhabited

/-- Faults of the model: none is raised by a word of a core, whose faults are the manual's own and are taken as next states. -/
inductive Fault where
  /-- Raised by no meaning: kept for an access of the model itself to a location that does not exist. Safe. -/
  | noSuchLocation
  deriving DecidableEq, Repr, Inhabited

/-- Refusals of the model. -/
inductive Refusal where
  /-- An instruction without a meaning yet, rejected by name in Dispatch. Safe: the run stops. -/
  | notModelled (mnemonic : String)
  deriving DecidableEq, Repr, Inhabited

/-- The whole device. `spaceOwner` is the partition that held each flash namespace last, which flash keeps, and `dbgValue` what the last
read of the host or of a debug session answered. -/
structure State where
  -- the model's own: who moves, its operands, the moves to come, and the counter of the free values
  agenda : List Move
  me : Nat
  clus : Nat
  arg : Arg
  fresh : Nat
  nextId : Nat
  -- time and memory
  cycle : Nat
  mem : Memory
  memunc : List Nat
  dirty : List Nat
  baseline : Memory
  -- the four dies' units
  cores : Tab Core
  clusters : Tab Cluster
  dies : Tab Die
  parts : Tab Partition
  granules : Tab Nat
  -- work
  insts : Tab Instance
  instCounter : BitVec 24
  tokens : List Nat
  tasks : Tab Task
  cmds : List Cmd
  rounds : List Round
  deliveries : List Delivery
  saved : Tab Saved
  swapped : Tab Saved
  -- retrieval
  stores : Tab (Tab Store)
  spaceOwner : Tab Nat
  searches : Tab Search
  searchCount : BitVec 32
  binds : List KvBind
  appends : List Append
  -- host, links, firmware
  coalesce : List Coalesce
  toHost : List HostMsg
  links : List LinkMsg
  rejects : List Reject
  ports : BitVec 16
  routes : Tab (List Nat)
  inDomain : Bool
  devNum : BitVec 6
  quiesced : Bool
  firmware : Firmware
  sigNext : Nat
  svcStatus : Word
  svcResult : Word
  powerReq : BitVec 2
  images : List Image
  ckpt : Option Nat
  dbgValue : List Byte
  lostDevs : List Nat
  deriving DecidableEq, Repr

/-! ## Reset -/

def LoopLv.reset : LoopLv := ⟨false, 0, 0, 0, false, false, false⟩

def LoopState.reset : LoopState := ⟨Vector.replicate 6 .reset, 0, 0⟩

def StreamReg.reset : StreamReg := ⟨false, 0, 0, 0, 0, 0, 0⟩

def WBuf.reset : WBuf := ⟨false, false, .f32, 0, 0, [], none⟩

/-- STOCH_SEED at reset (03_numbers.md R80). -/
def seedReset (g : Nat) : Word := 0x9E3779B97F4A7C15 ^^^ BitVec.ofNat 64 g

/-- A generator is never loaded with 0 (R79). -/
def genLoad (x : Word) : Word := if x = 0 then 1 else x

def maskOnes : MaskData := BitVec.allOnes 1024

/-- Core `g` after a device reset (R27 with no task run since reset; the CSRs' Reset columns). -/
def Core.reset (g : Nat) : Core where
  s := Vector.replicate 64 0
  shadow := Vector.replicate 8 0
  c := 0
  v := Vector.replicate 32 0
  m := Vector.replicate 8 maskOnes
  mstack := [maskOnes]
  t := Vector.replicate 4 0
  tkind := Vector.replicate 4 .zero
  q := Vector.replicate 16 .reset
  loops := .reset
  pc := 0
  task := none
  phase := .idle
  rank := 0
  lastPart := none
  phaseStart := 0
  phaseDue := false
  eng := Vector.replicate 5 ⟨[], []⟩
  toks := Vector.replicate 8 ⟨0, 0⟩
  seq := 0
  mmasSeen := 0
  mmasDone := 0
  wbuf := .reset
  smb := []
  staging := []
  out := []
  monitors := Vector.replicate 4 none
  wait := none
  att := false
  qpos := 0
  lines := []
  badLines := []
  refills := []
  ftz := false
  nten := false
  fpstat := 0
  seed := seedReset g
  genS := genLoad (seedReset g)
  genV := genLoad (seedReset g ^^^ 0x5555555555555555)
  genM := genLoad (seedReset g ^^^ 0xAAAAAAAAAAAAAAAA)
  cmpdSeg := Vector.replicate 16 0
  cmpdOfs := Vector.replicate 16 0
  cmpdN := 0
  cmpdValid := false
  cmpdErr := false
  joinTimeout := 0x00001000
  xqStride := 0
  xqWidth := 0
  hndCtl := 0
  hndBase := 0
  inh := false
  skip := false
  hndStart := 0
  faultRep := Vector.replicate 8 0
  wp := Vector.replicate 4 ⟨0, 0, 0, 0, 0⟩
  wpHit := 0
  traceCtl := 0
  pend := none
  noWatch := false
  stopped := false
  halted := false
  haltRep := Vector.replicate 8 0
  haltStart := 0
  drainSince := none
  late := []
  stage := 0
  issueCycle := 0
  issueSeq := 0

def Ring.reset : Ring := ⟨0, 0, 0, false, 0, false, 0, 0, 0, 0, [], []⟩

def Barrier.reset : Barrier := ⟨0, 0, 0, 0, 0, false, false, 0⟩

def Quad.reset : Quad := ⟨.idle, 0, 0, [], [], .reset, .idle⟩

/-- A cluster after a device reset: partition 0 holds every cluster (assumption 4), mode Blend (R345, R346). -/
def Cluster.reset : Cluster := ⟨0, .reset, [], [], [], ⟨[], [], 0, none, none⟩, 1⟩

/-- A die after a device reset (R264): partition 0 holds the whole TLB (assumption 4). -/
def Die.reset : Die := ⟨0x00010000, 0x0400, [], 0, [], [(0, 16)], [], [], []⟩

def CmdQ.reset : CmdQ :=
  { slots := [], tail := 0, head := 0, en := false, log2 := 0xA, coal := 0, halted := false, ovr := false,
    brk0 := 0, brk1 := 0, hit := false, which := false, hitSeq := 0, untested := false, fence := none, launched := [] }

/-- A partition after a device reset: empty tables (assumption 4 for the grants). -/
def Partition.reset : Partition :=
  { objs := [], pages := [], root := none, remap := none, xqs := [], spillCap := 0, cmdq := .reset, namespaces := [], dtag := none,
    msixBase := 0, msixCount := 0, hdm := [], dump := ⟨none, [], 0, ⟨0, 0, 0⟩, none, [], 0⟩, debug := false, resetting := false }

/-- The machine right after a device reset: every core idle, nothing loaded, the firmware running (R337). -/
def State.reset : State :=
  { agenda := [], me := 0, clus := 0, arg := .none, fresh := 0, nextId := 0,
    cycle := 0, mem := [], memunc := [], dirty := [], baseline := [],
    cores := [], clusters := [], dies := [], parts := [], granules := [],
    insts := [], instCounter := 1, tokens := [], tasks := [], cmds := [], rounds := [], deliveries := [], saved := [], swapped := [],
    stores := [], spaceOwner := [], searches := [], searchCount := 0, binds := [], appends := [],
    coalesce := [], toHost := [], links := [], rejects := [], ports := BitVec.allOnes 16, routes := [],
    inDomain := false, devNum := 0, quiesced := false, firmware := .running, sigNext := 0, svcStatus := 0, svcResult := 0,
    powerReq := 1, images := [], ckpt := none, dbgValue := [], lostDevs := [] }

end Sys2Proof.Machine
end

