-- ==== Sys2Proof/Machine/Tab.lean ====
section
/-!
DEFINITION. Sparse tables (`Tab`), byte storage (`Memory`) and little-endian bit and byte helpers (00_scope.md R9, R10).
-/

namespace Sys2Proof.Machine

/-! ## Tables -/

/-- The entry listed under `k`. -/
def Tab.find {α : Type} : Tab α → Nat → Option α
  | [], _ => none
  | (i, a) :: t, k => if i = k then some a else Tab.find t k

/-- The entry of `k`, or the table's default. -/
def Tab.get {α : Type} (t : Tab α) (k : Nat) (dflt : α) : α := (Tab.find t k).getD dflt

/-- List `a` under `k`, keeping the keys in rising order. -/
def Tab.set {α : Type} : Tab α → Nat → α → Tab α
  | [], k, a => [(k, a)]
  | (i, b) :: t, k, a =>
    if k < i then (k, a) :: (i, b) :: t
    else if k = i then (k, a) :: t
    else (i, b) :: Tab.set t k a

/-- Unlist `k`. -/
def Tab.del {α : Type} : Tab α → Nat → Tab α
  | [], _ => []
  | (i, b) :: t, k => if i = k then Tab.del t k else (i, b) :: Tab.del t k

/-- The number of the first `n` numbers from 0 that the list does not hold. -/
def leastFree (used : List Nat) (n : Nat) : Option Nat := (List.range n).find? (fun i => !used.contains i)

/-- Replace the element at position `i`. -/
def listSet {α : Type} (l : List α) (i : Nat) (a : α) : List α := l.set i a

/-- Change every element that satisfies `p`. -/
def listUpd {α : Type} (l : List α) (p : α → Bool) (f : α → α) : List α := l.map fun a => if p a then f a else a

/-! ## Byte storage -/

/-- The byte at a location; an unlisted one reads 0 (assumption 1). -/
def memGet : Memory → Nat → Byte
  | [], _ => 0
  | (i, b) :: m, a => if i = a then b else if a < i then 0 else memGet m a

/-- Store one byte, keeping the canonical form: rising locations, no zero byte listed. -/
def memPut : Memory → Nat → Byte → Memory
  | [], a, v => if v = 0 then [] else [(a, v)]
  | (i, b) :: m, a, v =>
    if a < i then (if v = 0 then (i, b) :: m else (a, v) :: (i, b) :: m)
    else if a = i then (if v = 0 then m else (i, v) :: m)
    else (i, b) :: memPut m a v

/-- The first location listed lies above `lo`, locations rise, and no byte is 0. -/
def memOk (lo : Option Nat) : Memory → Bool
  | [] => true
  | (i, b) :: m => (match lo with | none => true | some l => decide (l < i)) && b != 0 && memOk (some i) m

/-- The canonical form of storage. -/
def Memory.wf (m : Memory) : Bool := memOk none m

/-- `n` bytes from location `a`. -/
def memRead (m : Memory) (a : Nat) : Nat → List Byte
  | 0 => []
  | n + 1 => memGet m a :: memRead m (a + 1) n

/-- Store bytes from location `a` up. -/
def memWrite (m : Memory) (a : Nat) : List Byte → Memory
  | [] => m
  | b :: bs => memWrite (memPut m a b) (a + 1) bs

/-! ## Bits and bytes (R9, R10) -/

/-- The number that bytes hold, least significant first (R10). -/
def bytesNat : List Byte → Nat
  | [] => 0
  | b :: bs => b.toNat + 256 * bytesNat bs

/-- The `n` bytes of a number, least significant first (R10). -/
def natBytes : Nat → Nat → List Byte
  | 0, _ => []
  | n + 1, x => BitVec.ofNat 8 x :: natBytes n (x / 256)

/-- A doubleword from bytes. -/
def bytesWord (bs : List Byte) : Word := BitVec.ofNat 64 (bytesNat bs)

/-- The low `n` bytes of a doubleword. -/
def wordBytes (n : Nat) (w : Word) : List Byte := natBytes n w.toNat

/-- Bits `[lo + len - 1 : lo]` of a number. -/
def bitsOf (x lo len : Nat) : Nat := (x >>> lo) % 2 ^ len

/-- Bits `[lo + len - 1 : lo]` of a doubleword as a number (R9). -/
def wfld (w : Word) (lo len : Nat) : Nat := bitsOf w.toNat lo len

/-- Byte `i` of a list, 0 past its end. -/
def byteAt (bs : List Byte) (i : Nat) : Byte := bs.getD i 0

/-- `n` bytes of a list from position `i`, padded with 0. -/
def bytesAt (bs : List Byte) (i n : Nat) : List Byte := (List.range n).map fun j => byteAt bs (i + j)

/-- The number held in `n` bytes of a list from position `i`. -/
def natAt (bs : List Byte) (i n : Nat) : Nat := bytesNat (bytesAt bs i n)

/-- Doubleword at byte offset `i` of a record. -/
def dwordAt (bs : List Byte) (i : Nat) : Word := BitVec.ofNat 64 (natAt bs i 8)

/-- A bit as a number. -/
def bit (b : Bool) : Nat := if b then 1 else 0

/-- Sign extension of the low `n` bits of a number to an integer. -/
def signedOf (n x : Nat) : Int :=
  let y := x % 2 ^ n
  if n = 0 then 0 else if y < 2 ^ (n - 1) then (y : Int) else (y : Int) - 2 ^ n

/-- An integer modulo `2^n`. -/
def wrapInt (n : Nat) (x : Int) : Nat := (x % (2 ^ n : Int)).toNat

/-- `a` rounded down to a multiple of `n`. -/
def alignDown (a n : Nat) : Nat := a / n * n

/-- Split a list into runs of `k` elements, at most `n` of them. -/
def chunks {α : Type} (k : Nat) : Nat → List α → List (List α)
  | 0, _ => []
  | _ + 1, [] => []
  | n + 1, l => l.take k :: chunks k n (l.drop k)

/-- The positions of a list with their elements. -/
def enum {α : Type} (l : List α) : List (Nat × α) := (List.range l.length).zip l

/-- The numbers `a`, `a + 1`, … `n` of them. -/
def upFrom (a n : Nat) : List Nat := (List.range n).map (a + ·)

end Sys2Proof.Machine
end

