-- ==== Sys2Proof/Machine/Units.lean ====
section
/-!
DEFINITION. Reading and replacing the units of the device by number: cores, clusters, dies, partitions, tasks and
instances (00_scope.md R5, R6; 01_machine.md R5, R29, R40).
-/

namespace Sys2Proof.Machine

/-- What one step of a meaning answers. -/
abbrev Out := Host.Outcome State Fault Refusal

/-- Global core `g`. -/
def State.core (s : State) (g : Nat) : Core := s.cores.get g (.reset g)

def State.setCore (s : State) (g : Nat) (c : Core) : State := { s with cores := s.cores.set g c }

def State.updCore (s : State) (g : Nat) (f : Core → Core) : State := s.setCore g (f (s.core g))

/-- Global cluster `k`. -/
def State.cluster (s : State) (k : Nat) : Cluster := s.clusters.get k .reset

def State.setCluster (s : State) (k : Nat) (c : Cluster) : State := { s with clusters := s.clusters.set k c }

def State.updCluster (s : State) (k : Nat) (f : Cluster → Cluster) : State := s.setCluster k (f (s.cluster k))

/-- Die `d`. -/
def State.die (s : State) (d : Nat) : Die := s.dies.get d .reset

def State.updDie (s : State) (d : Nat) (f : Die → Die) : State := { s with dies := s.dies.set d (f (s.die d)) }

/-- Partition `p`. -/
def State.part (s : State) (p : Nat) : Partition := s.parts.get p .reset

def State.updPart (s : State) (p : Nat) (f : Partition → Partition) : State :=
  { s with parts := s.parts.set p (f (s.part p)) }

/-- Global cluster of a core: sixteen cores each (R5). -/
def clusOf (g : Nat) : Nat := g / 16

/-- Die of a cluster: eight clusters each (R5). -/
def dieOfClus (k : Nat) : Nat := k / 8

/-- Die of a core. -/
def dieOf (g : Nat) : Nat := dieOfClus (clusOf g)

/-- The sixteen cores of a cluster. -/
def coresOf (k : Nat) : List Nat := upFrom (16 * k) 16

/-- The issuing core. -/
abbrev State.myCore (s : State) : Core := s.core s.me

abbrev State.setMe (s : State) (c : Core) : State := s.setCore s.me c

abbrev State.updMe (s : State) (f : Core → Core) : State := s.updCore s.me f

/-- The partition of a core: that of its cluster (11_isolation.md R323). -/
def State.partOf (s : State) (g : Nat) : Nat := (s.cluster (clusOf g)).part

/-- The task a core runs, if any. -/
def State.taskOf (s : State) (g : Nat) : Option Task := (s.core g).task.bind s.tasks.find

/-- The cores of a task's set (R23). -/
def Task.cores (t : Task) : List Nat := upFrom t.first t.size

def State.inst (s : State) (i : Nat) : Option Instance := s.insts.find i

def State.updInst (s : State) (i : Nat) (f : Instance → Instance) : State :=
  match s.insts.find i with
  | none => s
  | some x => { s with insts := s.insts.set i (f x) }

def State.updTask (s : State) (i : Nat) (f : Task → Task) : State :=
  match s.tasks.find i with
  | none => s
  | some x => { s with tasks := s.tasks.set i (f x) }

/-- Change node `n` of instance `i`. -/
def State.updNode (s : State) (i n : Nat) (f : Node → Node) : State :=
  s.updInst i fun x => { x with nodes := x.nodes.modify n f }

/-- A number that no other command, delivery or record of the model has. -/
def State.newId (s : State) : Nat × State := (s.nextId, { s with nextId := s.nextId + 1 })

/-- The next free value (Config.freeValue) and the counter advanced. -/
def State.free (s : State) : Word × State := (Config.freeValue s.fresh, { s with fresh := s.fresh + 1 })

/-- Whether a core belongs to a sixteen-core set (01_machine.md R29). -/
def State.inSixteen (s : State) (g : Nat) : Bool :=
  match s.taskOf g with
  | some t => t.size = 16
  | none => false

/-- A core that executes words: it has a phase and has not ended its part, or it runs a handler for an engine word or a command
that its part left behind (R28; 12_recovery.md R350). -/
def Core.running (c : Core) : Bool :=
  c.inh ||
  match c.phase with
  | .prologue | .kernel | .epilogue => true
  | .idle | .ended => false

/-- A core is idle when no task holds it (R23). -/
def State.coreIdle (s : State) (g : Nat) : Bool := (s.core g).task.isNone

/-- Instance and node that a core's task belongs to. -/
def State.instOf (s : State) (g : Nat) : Nat := (s.taskOf g).elim 0 (·.inst)

def State.nodeOf (s : State) (g : Nat) : Nat := (s.taskOf g).elim 0 (·.node)

end Sys2Proof.Machine
end

