-- ==== Sys2Proof/Machine/Access.lean ====
section
/-!
DEFINITION. Addresses: windows, allowances, translation and the locations they reach (07_ordering.md R181 to R186;
11_isolation.md R326 to R330). Every byte of storage has one number, its location (R183): the any-core, any-cluster or
die-scratch address of a scratch byte, and 2^52 plus the physical address of an LPDDR or host byte.
-/

namespace Sys2Proof.Machine

/-! ## Windows (R181) -/

def vaLimit : Nat := 0x10000000000000
def winBase : Nat := 0xF000000000000
def ownNear : Nat := 0xF000000000000
def ownClus : Nat := 0xF010000000000
def dieScr : Nat := 0xF020000000000
def anyNear : Nat := 0xF100000000000
def anyClus : Nat := 0xF110000000000
def ctlBase : Nat := 0xF200000000000

def nearSize : Nat := 0x100000
def clusSize : Nat := 0x1000000
def dieScrSize : Nat := 0x10000000

/-- First location of translated storage. -/
def physBase : Nat := 0x10000000000000

/-- First location of host memory (R327). -/
def hostBase : Nat := physBase + 0x8000000000000

def nearLoc (g : Nat) : Nat := anyNear + g * nearSize
def clusLoc (k : Nat) : Nat := anyClus + k * clusSize
def dieLoc (d : Nat) : Nat := dieScr + d * dieScrSize

/-- Whether a location is in core `g`'s own near scratch (R194). -/
def inNear (g loc : Nat) : Bool := nearLoc g ≤ loc && loc < nearLoc g + nearSize

/-- Whether a location is host memory (R210). -/
def isHostLoc (loc : Nat) : Bool := hostBase ≤ loc

/-- Whether a location is near or cluster scratch (R360). -/
def isScratch (loc : Nat) : Bool := anyNear ≤ loc && loc < anyClus + 32 * clusSize

/-- Causes of R347 that an address can raise. -/
def cWINBOUND : Nat := 17
def cCTLACCESS : Nat := 18
def cTRMISS : Nat := 19
def cTRPERM : Nat := 20

/-- Why an access is turned away: the cause, the address named and the report's AUX (12_recovery.md R348). -/
structure AFault where
  cause : Nat
  addr : Nat
  aux : BitVec 16
  deriving DecidableEq, Repr, Inhabited

/-- The rights an access needs of a leaf (R330). -/
inductive Need where
  | rd | wr | both
  deriving DecidableEq, Repr, Inhabited

/-- Who makes an access: its agent code (12_recovery.md R369), its partition, and the core whose own windows it may use. -/
structure Who where
  agent : Nat
  part : Nat
  own : Option Nat
  deriving DecidableEq, Repr, Inhabited

/-- A core as an agent. -/
def State.whoCore (s : State) (g : Nat) : Who := ⟨g, s.partOf g, some g⟩

/-! ## Translation (R327 to R330) -/

/-- Key of the entry of level `l` that covers `va` (R328). -/
def pteKey (l va : Nat) : Nat := l * 0x10000000000000 + va / 2 ^ (39 - 9 * l)

def pteV (e : Word) : Bool := e.getLsbD 0
def pteLeaf (e : Word) : Bool := e.getLsbD 1
def pteRd (e : Word) : Bool := e.getLsbD 2
def pteWr (e : Word) : Bool := e.getLsbD 3
def pteCont (e : Word) : Bool := e.getLsbD 4
def pteAddr (e : Word) : Nat := wfld e 12 40 * 4096

/-- Walk from level `l`: the leaf and its level, or the level at which V = 0 was found. -/
def walkFrom (pages : Tab (BitVec 64)) (va : Nat) : Nat → Nat → Except Nat (Word × Nat)
  | 0, l => .error l
  | n + 1, l =>
    let e := pages.get (pteKey l va) 0
    if !pteV e then .error l
    else if pteLeaf e || l = 3 then .ok (e, l)
    else walkFrom pages va n (l + 1)

/-- The walk of R328. -/
def walk (p : Partition) (va : Nat) : Except Nat (Word × Nat) := walkFrom p.pages va 4 0

/-- Physical address of `va` under a leaf of level `l`. -/
def leafPa (e : Word) (l va : Nat) : Nat := pteAddr e + va % 2 ^ (39 - 9 * l)

/-- Bytes a leaf of level `l` maps. -/
def leafSize (l : Nat) : Nat := 2 ^ (39 - 9 * l)

/-- Leaves joined by the CONT bit at a level. -/
def contCount (l : Nat) : Nat := if l = 3 then 16 else 32

/-- The page that the entry under a key belongs to, when it is a leaf. -/
def pageMapOf (k : Nat) (e : Word) : Option PageMap :=
  let l := k / 0x10000000000000
  let va := k % 0x10000000000000 * leafSize l
  if pteV e && (pteLeaf e || l = 3) then
    let n := if pteCont e then contCount l * leafSize l else leafSize l
    some ⟨alignDown va n, n, pteAddr e - va % n, l⟩
  else none

/-- The pages that a partition maps. -/
def Partition.mapped (p : Partition) : List PageMap := p.pages.filterMap fun x => pageMapOf x.1 x.2

/-- The rights a leaf lacks of those needed: RD as bit 0, WR as bit 1. -/
def missing (need : Need) (e : Word) : Nat :=
  let r := bit (!pteRd e)
  let w := 2 * bit (!pteWr e)
  match need with
  | .rd => r
  | .wr => w
  | .both => r + w

/-- The state as the user with number `id` translates in partition `p`: a command, KVBIND or pass that began before a change of the
mapping in progress uses the old one (R332). -/
def State.viewOf (s : State) (p id : Nat) : State :=
  match (s.part p).remap with
  | some r => if id ≤ r.since then s.updPart p fun x => { x with pages := r.pages } else s
  | none => s

/-- Location of a translated byte, or TRMISS or TRPERM (R330). -/
def translate (s : State) (p va : Nat) (need : Need) : Except AFault Nat :=
  match walk (s.part p) va with
  | .error l => .error ⟨cTRMISS, va, Config.transAux l 0⟩
  | .ok (e, l) =>
    if missing need e ≠ 0 then .error ⟨cTRPERM, va, Config.transAux l (missing need e)⟩
    else .ok (physBase + leafPa e l va)

/-! ## Control space (R184, R185) -/

/-- An object of control space. -/
inductive CtlObj where
  | flag (k f : Nat)
  | dieFlag (d f : Nat)
  | ring (k n : Nat)
  | bar (k b : Nat)
  | pav (k w : Nat)
  deriving DecidableEq, Repr, Inhabited

/-- The object at an offset of control space and the byte within it (R184). -/
def ctlAt (off : Nat) : Option (CtlObj × Nat) :=
  if off < 0x20000 then some (.flag (off / 0x1000) (off % 0x1000 / 4), off % 4)
  else if off < 0x30000 then some (.dieFlag ((off - 0x20000) / 0x4000) ((off - 0x20000) % 0x4000 / 4), off % 4)
  else if off < 0x50000 then some (.ring ((off - 0x30000) / 0x1000) ((off - 0x30000) % 0x1000 / 64), off % 64)
  else if off < 0x52000 then some (.bar ((off - 0x50000) / 0x100) ((off - 0x50000) % 0x100 / 16), off % 16)
  else if off < 0x60000 then none
  else if off < 0xA0000 then some (.pav ((off - 0x60000) / 0x2000) ((off - 0x60000) % 0x2000 / 2), off % 2)
  else none

/-- The cluster an object belongs to; a die flag belongs to none. -/
def CtlObj.clus : CtlObj → Option Nat
  | .flag k _ | .ring k _ | .bar k _ | .pav k _ => some k
  | .dieFlag _ _ => none

/-- Whether partition `p` may name the object (R184). -/
def CtlObj.allowed (s : State) (p : Nat) (o : CtlObj) : Bool :=
  match o.clus with
  | some k => (s.cluster k).part = p
  | none => true

/-! ## Checks (R182) -/

/-- Owner of a die-scratch granule of 1 MiB (R326); not listed: partition 0 (assumption 4). -/
def State.granuleOwner (s : State) (d i : Nat) : Nat := s.granules.get (256 * d + i) 0

/-- Whether `va` lies in partition control space. -/
def isCtl (va : Nat) : Bool := ctlBase ≤ va && va < ctlBase + 0x100000

/-- First location of partition `p`'s control space: each partition sees its own (R184). -/
def ctlLoc (p : Nat) : Nat := ctlBase + 0x100000 * p

/-- The first address past the window that `va` lies in (R181). -/
def winEnd (va : Nat) : Nat :=
  if va < winBase then winBase
  else if va < ownNear + nearSize then ownNear + nearSize
  else if va < ownClus + clusSize then ownClus + clusSize
  else if va < dieScr + 4 * dieScrSize then alignDown va dieScrSize + dieScrSize
  else if va < anyNear + 512 * nearSize then alignDown va nearSize + nearSize
  else if va < anyClus + 32 * clusSize then alignDown va clusSize + clusSize
  else ctlBase + 0x100000

/-- Whether byte `off` of control space is an object that partition `p` may name (R184). -/
def ctlOk (s : State) (p off : Nat) : Bool :=
  match ctlAt off with
  | some (o, _) => o.allowed s p
  | none => false

/-- The location of one byte of an untranslated window, when `w` may reach it (R181, R182, R184). -/
def winLoc (s : State) (w : Who) (va : Nat) : Option Nat :=
  if ownNear ≤ va && va < ownNear + nearSize then w.own.map fun g => nearLoc g + (va - ownNear)
  else if ownClus ≤ va && va < ownClus + clusSize then w.own.map fun g => clusLoc (clusOf g) + (va - ownClus)
  else if dieScr ≤ va && va < dieScr + 4 * dieScrSize then
    if s.granuleOwner ((va - dieScr) / dieScrSize) ((va - dieScr) % dieScrSize / 0x100000) = w.part then some va else none
  else if anyNear ≤ va && va < anyNear + 512 * nearSize then
    if s.partOf ((va - anyNear) / nearSize) = w.part then some va else none
  else if anyClus ≤ va && va < anyClus + 32 * clusSize then
    if (s.cluster ((va - anyClus) / clusSize)).part = w.part then some va else none
  else if isCtl va then
    if ctlOk s w.part (va - ctlBase) then some (ctlLoc w.part + (va - ctlBase)) else none
  else none

/-- The first byte after `va` and before `stop`, within one window, that `w` may not reach: a granule of die scratch outside the
allowance, or a byte of control space. -/
def winGap (s : State) (w : Who) (va stop : Nat) : Option Nat :=
  if isCtl va then (upFrom va (stop - va)).find? fun a => (winLoc s w a).isNone
  else if dieScr ≤ va && va < dieScr + 4 * dieScrSize then
    ((upFrom (va / 0x100000 + 1) ((stop - 1) / 0x100000 - va / 0x100000)).map (· * 0x100000)).find? fun a => (winLoc s w a).isNone
  else none

/-- The window check of R182 for `n` bytes at `va`: the location in an untranslated window, none below them, or WINBOUND at the
first byte that fails. -/
def window (s : State) (w : Who) (va n : Nat) : Except AFault (Option Nat) :=
  if vaLimit ≤ va then .error ⟨cWINBOUND, va, 0⟩
  else if va < winBase then
    if winBase < va + n then .error ⟨cWINBOUND, winBase, 0⟩ else .ok none
  else
    match winLoc s w va with
    | none => .error ⟨cWINBOUND, va, 0⟩
    | some loc =>
      match winGap s w va (min (va + n) (winEnd va)) with
      | some a => .error ⟨cWINBOUND, a, 0⟩
      | none => if winEnd va < va + n then .error ⟨cWINBOUND, winEnd va, 0⟩ else .ok (some loc)

/-- The location of `n` bytes at `va`, none of which crosses a page, for a plain access by `w`: R181, R182, R185, R330 in
that order. -/
def resolve (s : State) (w : Who) (need : Need) (va n : Nat) : Except AFault Nat :=
  match window s w va n with
  | .error e => .error e
  | .ok none => translate s w.part va need
  | .ok (some loc) => if isCtl va then .error ⟨cCTLACCESS, va, 0⟩ else .ok loc

/-- Cut `n` bytes at `va` into runs that cross no 4 KiB boundary: start and length of each. -/
def pageRuns : Nat → Nat → Nat → List (Nat × Nat)
  | 0, _, _ => []
  | _ + 1, _, 0 => []
  | f + 1, va, n =>
    let k := min n (4096 - va % 4096)
    (va, k) :: pageRuns f (va + k) (n - k)

/-- The locations of `n` bytes at `va`, run by run; the first failing byte is named. -/
def resolveRuns (s : State) (w : Who) (need : Need) : List (Nat × Nat) → Except AFault (List (Nat × Nat))
  | [] => .ok []
  | (va, k) :: rs =>
    match resolve s w need va k with
    | .error e => .error e
    | .ok loc =>
      match resolveRuns s w need rs with
      | .error e => .error e
      | .ok ls => .ok ((loc, k) :: ls)

/-- A whole range: it lies in one window, and every page of it passes (R182, R330). -/
def resolveRange (s : State) (w : Who) (need : Need) (va n : Nat) : Except AFault (List (Nat × Nat)) :=
  if winBase ≤ va then
    match resolve s w need va n with
    | .error e => .error e
    | .ok loc => .ok [(loc, n)]
  else if winBase < va + n then .error ⟨cWINBOUND, winBase, 0⟩
  else resolveRuns s w need (pageRuns (n / 4096 + 2) va n)

/-- Whether location `loc` belongs to no other partition than `p`: scratch by its cluster, die scratch by its granule, control space by
whose view it is, LPDDR and host memory by the pages that the others map (11_isolation.md R322, R323, R326). -/
def State.ownsLoc (s : State) (p loc : Nat) : Bool :=
  if physBase ≤ loc then
    s.parts.all fun x => x.1 = p || !x.2.mapped.any fun m => physBase + m.pa ≤ loc && loc < physBase + m.pa + m.size
  else if ctlBase ≤ loc then ctlLoc p ≤ loc && loc < ctlLoc p + 0x100000
  else if anyClus ≤ loc then (s.cluster ((loc - anyClus) / clusSize)).part = p
  else if anyNear ≤ loc then s.partOf ((loc - anyNear) / nearSize) = p
  else s.granuleOwner ((loc - dieScr) / dieScrSize) ((loc - dieScr) % dieScrSize / 0x100000) = p

/-! ## What control space holds (R184, R185) -/

/-- Key of a die flag within its die: each partition has a private set (R323). -/
def dieFlagKey (p f : Nat) : Nat := 4096 * p + f

def State.clusFlag (s : State) (k f : Nat) : BitVec 32 := (s.cluster k).flags.get f 0

def State.dieFlag (s : State) (p d f : Nat) : BitVec 32 := (s.die d).flags.get (dieFlagKey p f) 0

/-- The 64 bytes of a ring descriptor as a number (08_sync_async.md R226). -/
def Ring.bits (r : Ring) : Nat :=
  r.base.toNat
  + (r.slotsz.toNat + r.count.toNat * 2 ^ 16 + bit r.valid * 2 ^ 32 + r.part.toNat * 2 ^ 33 + bit r.dlv * 2 ^ 36) * 2 ^ 64
  + (r.claimed.toNat + r.tail.toNat * 2 ^ 32) * 2 ^ 128
  + (r.taken.toNat + r.head.toNat * 2 ^ 32) * 2 ^ 192

/-- The 16 bytes of a barrier as a number (R230). -/
def Barrier.bits (b : Barrier) : Nat :=
  b.cur.toNat + b.nxt.toNat * 2 ^ 16 + b.mem.toNat * 2 ^ 32 + b.exp.toNat * 2 ^ 48 + b.expl.toNat * 2 ^ 53
  + bit b.lost * 2 ^ 58 + bit b.valid * 2 ^ 59 + b.phase.toNat * 2 ^ 64

def State.ring (s : State) (k n : Nat) : Ring := (s.cluster k).rings.get n .reset

def State.bar (s : State) (k b : Nat) : Barrier := (s.cluster k).bars.get b .reset

/-- The value an object of control space holds, as partition `p` sees it. -/
def ctlValue (s : State) (p : Nat) : CtlObj → Nat
  | .flag k f => (s.clusFlag k f).toNat
  | .dieFlag d f => (s.dieFlag p d f).toNat
  | .ring k n => (s.ring k n).bits
  | .bar k b => (s.bar k b).bits
  | .pav k w => ((s.cluster k).pav.store.get w 0).toNat

/-- One byte of control space; an offset that holds nothing reads 0 (it is never read: the checks come first). -/
def ctlByte (s : State) (p off : Nat) : Byte :=
  match ctlAt off with
  | some (o, i) => BitVec.ofNat 8 (bitsOf (ctlValue s p o) (8 * i) 8)
  | none => 0

end Sys2Proof.Machine
end

