-- ==== Sys2Proof/Machine/Mem.lean ====
section
/-!
DEFINITION. Trace records, accesses at the home of a location, watchpoints, the store-merge buffer, the read staging and
the outstanding scalar accesses (07_ordering.md R189 to R200; 08_sync_async.md R213; 12_recovery.md R354, R364, R367).
-/

namespace Sys2Proof.Machine

/-! ## Loop levels as seen by reports and records (04_scalar_control.md "Hardware loops") -/

/-- The innermost active level. -/
def LoopState.inner (l : LoopState) : Option Nat :=
  (List.range 6).foldl (fun r v => if (l.lv.toArray.getD v .reset).active then some v else r) none

def LoopState.get (l : LoopState) (v : Nat) : LoopLv := l.lv.toArray.getD v .reset

def LoopState.set (l : LoopState) (v : Nat) (x : LoopLv) : LoopState := { l with lv := l.lv.setIfInBounds v x }

/-- ITER of the innermost active level, 0 with none (R119). -/
def LoopState.iter (l : LoopState) : BitVec 32 :=
  match l.inner with
  | some v => BitVec.ofNat 32 (l.get v).k
  | none => 0

/-! ## Trace (R367 to R369) -/

def evTRMARK : Nat := 1
def evFAULT : Nat := 2
def evHANDLER : Nat := 3
def evHRET : Nat := 4
def evDETACH : Nat := 5
def evJOIN : Nat := 6
def evSTOP : Nat := 7
def evRESUME : Nat := 8
def evWATCH : Nat := 9
def evFLAGWAIT : Nat := 10
def evSRCHREQ : Nat := 11
def evXQFIRE : Nat := 12
def evTASKSTART : Nat := 13
def evTASKEND : Nat := 14
def evCANCEL : Nat := 15

/-- Agent codes of R369. -/
def agCopy (k e : Nat) : Nat := 0x200 + 2 * k + e
def agDieCopy (d e : Nat) : Nat := 0x240 + 4 * d + e
def agCtrl (c : Nat) : Nat := 0x250 + c
def agPavane (k : Nat) : Nat := 0x260 + k
def agGalliard (d : Nat) : Nat := 0x280 + d
def agHost : Nat := 0x284
def agPort (p : Nat) : Nat := 0x290 + p

/-- Append a record to the buffer of partition `p` on die `d`; a full buffer drops it and counts (R367). -/
def State.addTrace (s : State) (p d : Nat) (r : TraceRec) : State :=
  s.updDie d fun x =>
    let l := x.traces.get p []
    if l.length < Config.traceCapacity then { x with traces := x.traces.set p (l ++ [r]) }
    else
      let n := x.dropped.get p 0
      { x with dropped := x.dropped.set p (if n = BitVec.allOnes 32 then n else n + 1) }

/-- Whether core `c` writes event `ev`: FLAGWAIT and FAULT always, others by EVMASK (R368). -/
def Core.traces (c : Core) (ev : Nat) : Bool := ev = evFLAGWAIT || ev = evFAULT || c.traceCtl.getLsbD (ev - 1)

/-- A record of core `g` for a word in stage `stage` (R367). -/
def State.traceStage (s : State) (g stage ev : Nat) (a0 a1 : Word) : State :=
  let c := s.core g
  if c.traces ev then
    let lv := c.loops.inner.getD 7
    let w := g + lv * 2 ^ 10 + stage * 2 ^ 13 + ev * 2 ^ 16 + c.loops.iter.toNat * 2 ^ 32
    s.addTrace (s.partOf g) (dieOf g) ⟨BitVec.ofNat 64 s.cycle, BitVec.ofNat 64 w, a0, a1⟩
  else s

/-- A record of core `g` for the word of its scalar pipe. -/
def State.traceCore (s : State) (g ev : Nat) (a0 a1 : Word) : State := s.traceStage g (s.core g).stage ev a0 a1

/-- Whether an agent that is no core writes event `ev` for partition `p` on die `d`: EVMASK enables it on some core of the
partition there (assumption 52). -/
def State.agentTraces (s : State) (p d ev : Nat) : Bool :=
  s.cores.any fun (g, c) => s.partOf g = p && dieOf g = d && c.traces ev

/-- A record of another agent for partition `p` on die `d` (R367, R368): LOOP is 7, STAGE and ITER 0. -/
def State.traceAgent (s : State) (agent p d ev : Nat) (a0 a1 : Word) : State :=
  if s.agentTraces p d ev then
    s.addTrace p d ⟨BitVec.ofNat 64 s.cycle, BitVec.ofNat 64 (agent + 7 * 2 ^ 10 + ev * 2 ^ 16), a0, a1⟩
  else s

/-! ## Agents and scopes (R187) -/

/-- The die of an agent of the package; none for the host and the peer links. -/
def agentDie (a : Nat) : Option Nat :=
  if a < 0x200 then some (dieOf a)
  else if a < 0x240 then some (dieOfClus ((a - 0x200) / 2))
  else if a < 0x250 then some ((a - 0x240) / 4)
  else if a < 0x260 then some ((a - 0x250) / 4)
  else if a < 0x280 then some (dieOfClus (a - 0x260))
  else if a < 0x284 then some (a - 0x280)
  else none

/-- Every agent of the package: its dies' agents and its peer-link ports, but not the host. -/
def inPackage (a : Nat) : Bool := (agentDie a).isSome || (0x290 ≤ a && a < 0x2A0)

/-- The cluster of an agent that belongs to one. -/
def agentClus (a : Nat) : Option Nat :=
  if a < 0x200 then some (clusOf a)
  else if a < 0x240 then some ((a - 0x200) / 2)
  else if 0x260 ≤ a ∧ a < 0x280 then some (a - 0x260)
  else none

/-- Whether agent `a` lies within scope `sc` of core `g` (R187). -/
def inScope (sc : Scope) (g a : Nat) : Bool :=
  match sc with
  | .near => a = g
  | .clus => agentClus a = some (clusOf g)
  | .die => agentDie a = some (dieOf g)
  | .dev => inPackage a
  | .sys => true

/-- The scope of a code held in a watchpoint slot (R48). -/
def scopeOf (c : BitVec 3) : Scope :=
  match c.toNat with
  | 0 => .near | 1 => .clus | 2 => .die | 3 => .dev | _ => .sys

/-! ## Watchpoints (R364) -/

/-- Whether a slot watches an access of this kind to `n` bytes at `loc`. -/
def WpSlot.hits (w : WpSlot) (write : Bool) (loc n : Nat) : Bool :=
  (if write then w.kind.getLsbD 1 else w.kind.getLsbD 0) && loc < w.loc + w.len.toNat && w.loc < loc + n

/-- The lowest slot of a core that matches. -/
def Core.wpMatch (c : Core) (write : Bool) (loc n : Nat) : Option Nat :=
  (List.range 4).find? fun i => (c.wp.toArray.getD i ⟨0, 0, 0, 0, 0⟩).hits write loc n

/-- Every slot of a core that matches. -/
def Core.wpHits (c : Core) (write : Bool) (loc n : Nat) : BitVec 4 :=
  BitVec.ofFnLE fun i => (c.wp.toArray.getD i ⟨0, 0, 0, 0, 0⟩).hits write loc n

/-- One slot of core `h` matches another agent's access at the home: WP_HIT, a record, and with a debug session a halt
request (R364). `va` is the address, in the range as armed, of the first byte that the access touches. -/
def State.wpHome (s : State) (h i agent va : Nat) : State :=
  let s := s.updCore h fun c => { c with wpHit := c.wpHit ||| (1 <<< i) }
  let s := s.traceStage h 0 evWATCH (BitVec.ofNat 64 va) (BitVec.ofNat 64 (i + agent * 2 ^ 16))
  if (s.part (s.partOf h)).debug then
    match (s.core h).task with
    | some t => s.updTask t fun x => { x with haltReq := true }
    | none => s
  else s

/-- The watchpoints of other cores that one access of agent `agent`, given as runs of locations, meets at the home (R364); the
record names the first run that a slot watches, by its address in the range as armed. A slot watches its locations wherever the address
now leads (R363), but none that has gone to another partition (11_isolation.md R322; assumption 67). -/
def State.watchRuns (s : State) (agent : Nat) (write : Bool) (runs : List (Nat × Nat)) : State :=
  s.cores.foldl (init := s) fun s (h, c) =>
    if h = agent then s
    else (List.range 4).foldl (init := s) fun s i =>
      let w := c.wp.toArray.getD i ⟨0, 0, 0, 0, 0⟩
      match runs.find? fun r => w.hits write r.1 r.2 with
      | some r =>
        let loc := max r.1 w.loc
        if inScope (scopeOf w.scope) h agent && s.ownsLoc (s.partOf h) loc then s.wpHome h i agent (w.addr.toNat + (loc - w.loc)) else s
      | none => s

/-- The same for one run of `n` bytes at `loc`. -/
def State.watchHome (s : State) (agent : Nat) (write : Bool) (loc n : Nat) : State := s.watchRuns agent write [(loc, n)]

/-! ## Monitors (08_sync_async.md R219) -/

/-- A write that performs to a byte of the word's granule, by an agent within the WAITA's scope, wakes its monitor. The host wakes it so
too, and by no taking of the line without a write (assumption 80). -/
def Monitor.wake (m : Monitor) (g agent loc n : Nat) : Monitor :=
  let gr := m.loc / 64 * 64
  if loc < gr + 64 && gr < loc + n && inScope m.scope g agent then { m with woken := true } else m

def Core.wakeAll (c : Core) (g agent loc n : Nat) : Core :=
  if c.monitors.toList.all (·.isNone) then c
  else { c with monitors := c.monitors.map fun m => m.map (·.wake g agent loc n) }

def State.wakeMonitors (s : State) (agent loc n : Nat) : State :=
  { s with cores := s.cores.map fun (g, c) => (g, c.wakeAll g agent loc n) }

/-! ## Accesses at the home -/

/-- Whether any of `n` bytes at `loc` holds an uncorrectable error (R354). -/
def State.unc (s : State) (loc n : Nat) : Bool := s.memunc.any fun a => loc ≤ a && a < loc + n

/-- Mark the 4 KiB regions of scratch that a write touches (R360). -/
def dirtyAdd (d : List Nat) (loc n : Nat) : List Nat :=
  if isScratch loc then
    (upFrom (loc / 4096) ((loc + n - 1) / 4096 + 1 - loc / 4096)).foldl (fun d r => if d.contains r then d else d ++ [r]) d
  else d

/-- A write that performs at the home of `loc`, by agent `agent`. -/
def State.homeWrite (s : State) (agent loc : Nat) (bytes : List Byte) : State :=
  if bytes = [] then s
  else
    let n := bytes.length
    { (s.watchHome agent true loc n).wakeMonitors agent loc n with
      mem := memWrite s.mem loc bytes
      memunc := s.memunc.filter fun a => !(loc ≤ a && a < loc + n)
      dirty := dirtyAdd s.dirty loc n }

/-- The bytes at the home of `loc`. -/
def State.homeBytes (s : State) (loc n : Nat) : List Byte := memRead s.mem loc n

/-- A read that performs at the home: only watchpoints of other cores notice it. -/
def State.homeRead (s : State) (agent loc n : Nat) : State := s.watchHome agent false loc n

/-- Reads and writes of a range given as runs of locations. -/
def State.runsBytes (s : State) : List (Nat × Nat) → List Byte
  | [] => []
  | (loc, n) :: rs => s.homeBytes loc n ++ s.runsBytes rs

def State.runsWrite (s : State) (agent : Nat) : List (Nat × Nat) → List Byte → State
  | [], _ => s
  | (loc, n) :: rs, bs => (s.homeWrite agent loc (bs.take n)).runsWrite agent rs (bs.drop n)

def State.runsUnc (s : State) (rs : List (Nat × Nat)) : Bool := rs.any fun r => s.unc r.1 r.2

/-! ## Granules -/

def gByte (x : Granule) (i : Nat) : Byte := x.extractLsb' (8 * i) 8

def gPut (x : Granule) (i : Nat) (b : Byte) : Granule :=
  (x &&& ~~~((0xFF : Granule) <<< (8 * i))) ||| (b.setWidth 512 <<< (8 * i))

def granOf (bs : List Byte) : Granule := BitVec.ofNat 512 (bytesNat bs)

/-! ## Store-merge buffer (R195) -/

/-- Merge one byte into an entry. -/
def SmbEntry.put (e : SmbEntry) (i : Nat) (b : Byte) : SmbEntry :=
  { e with bytes := gPut e.bytes i b, mask := e.mask ||| (1 <<< i) }

/-- Store one byte in the buffer: merge into its granule's entry, or a new youngest entry. -/
def smbPut (now : Nat) : List SmbEntry → Nat → Byte → List SmbEntry
  | [], loc, b => [(⟨loc / 64, 0, 0, false, now⟩ : SmbEntry).put (loc % 64) b]
  | e :: es, loc, b =>
    if e.gran = loc / 64 then e.put (loc % 64) b :: es else e :: smbPut now es loc b

def smbPutAll (now : Nat) (es : List SmbEntry) (loc : Nat) : List Byte → List SmbEntry
  | [] => es
  | b :: bs => smbPutAll now (smbPut now es loc b) (loc + 1) bs

/-- The buffered byte of a location, if any. -/
def smbGet (es : List SmbEntry) (loc : Nat) : Option Byte :=
  match es.find? (fun e => e.gran = loc / 64) with
  | some e => if e.mask.getLsbD (loc % 64) then some (gByte e.bytes (loc % 64)) else none
  | none => none

/-- The granules that `n` bytes at `loc` touch. -/
def gransOf (loc n : Nat) : List Nat := upFrom (loc / 64) ((loc + n - 1) / 64 + 1 - loc / 64)

/-! ## Read staging (R196, R197) -/

/-- The core's own writes update a staged copy. -/
def stagePut (es : List StageEntry) (loc : Nat) (b : Byte) : List StageEntry :=
  listUpd es (fun e => e.gran = loc / 64) fun e => { e with bytes := gPut e.bytes (loc % 64) b }

def stagePutAll (es : List StageEntry) (loc : Nat) : List Byte → List StageEntry
  | [] => es
  | b :: bs => stagePutAll (stagePut es loc b) (loc + 1) bs

/-- The staged granule that may still serve reads: at most 1,024 cycles after it was filled. -/
def stageFind (es : List StageEntry) (gran now : Nat) : Option StageEntry :=
  es.find? fun e => e.gran = gran && now ≤ e.filled + 1024

/-- Fill a granule: the oldest of 128 entries gives way (assumption 7). -/
def stageFill (es : List StageEntry) (e : StageEntry) : List StageEntry :=
  let es := es.filter fun x => x.gran != e.gran
  (if es.length < 128 then es else es.drop 1) ++ [e]

/-- Every acquire discards the staging (R196). -/
def State.discardStaging (s : State) (g : Nat) : State := s.updCore g fun c => { c with staging := [] }

/-! ## What a core reads -/

/-- What core `g` reads at a location past its staging: its buffered byte, else the home's (R195). -/
def State.coreByte (s : State) (c : Core) (loc : Nat) : Byte := (smbGet c.smb loc).getD (memGet s.mem loc)

def State.coreBytes (s : State) (g loc n : Nat) : List Byte :=
  let c := s.core g
  (upFrom loc n).map (s.coreByte c)

/-- The same of runs of locations. -/
def State.coreRuns (s : State) (g : Nat) : List (Nat × Nat) → List Byte
  | [] => []
  | (loc, n) :: rs => s.coreBytes g loc n ++ s.coreRuns g rs

/-- What an agent reads past every staging: a core (`own`) its buffered bytes before the home's, any other agent the home's (R195). -/
def State.ownBytes (s : State) (own : Option Nat) (loc n : Nat) : List Byte :=
  match own with
  | some g => s.coreBytes g loc n
  | none => s.homeBytes loc n

def State.ownRuns (s : State) (own : Option Nat) (rs : List (Nat × Nat)) : List Byte :=
  match own with
  | some g => s.coreRuns g rs
  | none => s.runsBytes rs

/-- The granule of `loc` as the core sees it. -/
def State.coreGran (s : State) (g gran : Nat) : Granule := granOf (s.coreBytes g (64 * gran) 64)

/-- A strong write that performs at the home at once, updating the writer's staged copy to what the writer then reads (R194 to R196). -/
def State.strongWrite (s : State) (g loc : Nat) (bytes : List Byte) : State :=
  let s := s.homeWrite g loc bytes
  s.updCore g fun c => { c with staging := stagePutAll c.staging loc (s.coreBytes g loc bytes.length) }

/-! ## Outstanding scalar accesses (R202, R213) -/

/-- Whether two byte ranges overlap. -/
def overlaps (a n b k : Nat) : Bool := a < b + k && b < a + n

/-- A pending strong store that overlaps `n` bytes at `loc`. -/
def OutAcc.touches (o : OutAcc) (loc n : Nat) : Bool :=
  match o with
  | .store l bs _ => overlaps l bs.length loc n
  | _ => false

def OutAcc.isWrite : OutAcc → Bool
  | .load _ _ _ => false
  | .atomic _ _ _ => true
  | .store _ _ _ => true

/-- The bytes of the youngest pending strong store that overlaps the read, when it covers the whole of it: the writer's own
later reads may see it early (R202 (e)). -/
def forwarded (out : List OutAcc) (loc n : Nat) : Option (List Byte) :=
  match (out.filter (·.touches loc n)).getLast? with
  | some (.store l bs _) => if l ≤ loc && loc + n ≤ l + bs.length then some ((bs.drop (loc - l)).take n) else none
  | _ => none

/-- Forwarded bytes as the core reads them at `loc`: what its store-merge buffer holds there is younger (R195). -/
def buffered (es : List SmbEntry) (loc : Nat) : List Byte → List Byte
  | [] => []
  | b :: bs => (smbGet es loc).getD b :: buffered es (loc + 1) bs

/-- Whether a pending strong store overlaps. -/
def outTouches (out : List OutAcc) (loc n : Nat) : Bool := out.any (·.touches loc n)

/-- A core holds at most 16 outstanding (R213). -/
def Core.outFree (c : Core) : Bool := c.out.length < 16

/-- Whether any write of the core waits for its acknowledgement. -/
def Core.writesOut (c : Core) : Bool := c.out.any (·.isWrite)

/-- Write a register of the bank that an outstanding access named when it issued. -/
def Core.putBank (c : Core) (shadow : Bool) (d : BitVec 6) (v : Word) : Core :=
  if d = 0 then c
  else if shadow && 56 ≤ d.toNat then { c with shadow := c.shadow.setIfInBounds (d.toNat - 56) v }
  else { c with s := c.s.setIfInBounds d.toNat v }

/-- The outstanding access at position `i` ends: a value lands in its register, a strong store performs and is
acknowledged. -/
def State.settleOut (s : State) (g i : Nat) : State :=
  match (s.core g).out[i]? with
  | none => s
  | some o =>
    let s := s.updCore g fun c => { c with out := c.out.eraseIdx i }
    match o with
    | .load d sh v => s.updCore g (·.putBank sh d v)
    | .atomic d sh v => s.updCore g (·.putBank sh d v)
    | .store loc bs _ => s.strongWrite g loc bs

/-! ## Draining the store-merge buffer (R195) -/

/-- Drain one entry to its home as one unit of its masked bytes (R189): only these count as written (R364). -/
def State.drainEntry (s : State) (g : Nat) (e : SmbEntry) : State :=
  let is := (List.range 64).filter fun i => e.mask.getLsbD i
  let s' := (s.watchRuns g true (is.map fun i => (64 * e.gran + i, 1))).wakeMonitors g (64 * e.gran) 64
  { s' with
    mem := is.foldl (fun m i => memPut m (64 * e.gran + i) (gByte e.bytes i)) s.mem
    memunc := s.memunc.filter fun a => !(is.contains (a - 64 * e.gran) && 64 * e.gran ≤ a)
    dirty := dirtyAdd s.dirty (64 * e.gran) 64 }

/-- The strong stores of core `g` that wait to perform at granule `gran` perform, oldest first: bytes that the buffer holds there are
younger, since a strong store drains its granule as it issues (R195, R202; assumption 75). -/
def State.performFor (s : State) (g gran : Nat) : Nat → State
  | 0 => s
  | f + 1 =>
    match (s.core g).out.findIdx? (·.touches (64 * gran) 64) with
    | some i => (s.settleOut g i).performFor g gran f
    | none => s

/-- Drain the entry at position `i` of the buffer. -/
def State.drainAt (s : State) (g i : Nat) : State :=
  match (s.core g).smb[i]? with
  | some e => ((s.performFor g e.gran 16).drainEntry g e).updCore g fun c => { c with smb := c.smb.eraseIdx i }
  | none => s

/-- Drain the entry of a granule, if it is held (R195: strong writes). -/
def State.drainGran (s : State) (g gran : Nat) : State :=
  match (s.core g).smb.findIdx? (fun e => e.gran = gran) with
  | some i => s.drainAt g i
  | none => s

/-- Drain the whole buffer, oldest first (R198). -/
def State.drainAll (s : State) (g : Nat) : State :=
  ((s.core g).smb.foldl (fun s e => (s.performFor g e.gran 16).drainEntry g e) s).updCore g fun c => { c with smb := [] }

/-- The entry that a full buffer drains next: one that drains already, or the oldest (R195). -/
def smbVictim (es : List SmbEntry) : Nat := (es.findIdx? (·.draining)).getD 0

/-- Whether every granule is held or there is room for the new ones. -/
def smbRoom (es : List SmbEntry) (grans : List Nat) : Bool :=
  es.length + (grans.filter fun x => !es.any (fun e => e.gran = x)).length ≤ 256

/-- Drain entries until the granules fit. -/
def State.makeRoom (s : State) (g : Nat) (grans : List Nat) : Nat → State
  | 0 => s
  | f + 1 =>
    if smbRoom (s.core g).smb grans then s
    else (s.drainAt g (smbVictim (s.core g).smb)).makeRoom g grans f

/-! ## A core's reads and writes -/

/-- A weak read of `n` bytes within one granule by the scalar pipe or a VGTH lane: from staging when it holds the granule,
else from the level, filling staging (R196). Own near scratch is read directly (R194). -/
def State.weakRead (s : State) (g loc n : Nat) : List Byte × State :=
  if inNear g loc then (s.coreBytes g loc n, s.homeRead g loc n)
  else
    match stageFind (s.core g).staging (loc / 64) s.cycle with
    | some e => ((List.range n).map fun i => gByte e.bytes (loc % 64 + i), s)
    | none =>
      let x := s.coreGran g (loc / 64)
      ((List.range n).map fun i => gByte x (loc % 64 + i),
        (s.homeRead g loc n).updCore g fun c => { c with staging := stageFill c.staging ⟨loc / 64, x, s.cycle⟩ })

/-- A strong read at the home; it refreshes a staged granule (R196). -/
def State.strongRead (s : State) (g loc n : Nat) : List Byte × State :=
  let s := s.homeRead g loc n
  let x := s.coreGran g (loc / 64)
  (s.coreBytes g loc n, s.updCore g fun c =>
    { c with staging := listUpd c.staging (fun e => e.gran = loc / 64) fun e => { e with bytes := x, filled := s.cycle } })

/-- The scalar pipe has read the runs past its staging: the staged copies of their granules go, so that no later weak read of the pipe
returns an earlier value (R192). -/
def State.dropStaged (s : State) (g : Nat) (rs : List (Nat × Nat)) : State :=
  s.updCore g fun c => { c with staging := c.staging.filter fun e => !rs.any fun r => overlaps (64 * e.gran) 64 r.1 r.2 }

/-- A read by an engine that never uses staging (R196: bypass). -/
def State.directRead (s : State) (g loc n : Nat) : List Byte × State := (s.coreBytes g loc n, s.homeRead g loc n)

/-- A weak write by core `g` (R195); there is room in the buffer. -/
def State.weakWrite (s : State) (g loc : Nat) (bytes : List Byte) : State :=
  if inNear g loc then s.homeWrite g loc bytes
  else s.updCore g fun c =>
    { c with smb := smbPutAll s.cycle c.smb loc bytes, staging := stagePutAll c.staging loc bytes }

/-- A weak write by an engine: a full buffer drains first, part-way through the instruction (R195). -/
def State.engineWrite (s : State) (g loc : Nat) (bytes : List Byte) : State :=
  if inNear g loc then s.homeWrite g loc bytes
  else (s.makeRoom g (gransOf loc bytes.length) 257).weakWrite g loc bytes

/-- Every outstanding access ends, oldest first. -/
def State.settleAll (s : State) (g : Nat) : Nat → State
  | 0 => s
  | f + 1 => if (s.core g).out = [] then s else (s.settleOut g 0).settleAll g f

/-- The drain and discard of R197, before a halt, a stop, a handler entry or the end of a part. -/
def State.flushCore (s : State) (g : Nat) : State := (s.drainAll g).discardStaging g

end Sys2Proof.Machine
end

