-- ==== Sys2Proof/Machine/Csr.lean ====
section
/-!
DEFINITION. The values of the control and status registers as CSRR reads them (12_recovery.md R356, R357 and the rules that
its table names), and the packings of loop state, stream registers and matrix state.
-/

namespace Sys2Proof.Machine

/-- Value with each given field placed at its bit (R9). -/
def packNat : List (Nat × Nat) → Nat
  | [] => 0
  | (lo, x) :: fs => x * 2 ^ lo + packNat fs

def packWord (fs : List (Nat × Nat)) : Word := BitVec.ofNat 64 (packNat fs)

/-- LOOPIv (04_scalar_control.md R119): 0 when inactive; ITER is the low 32 bits of the iteration number. -/
def loopIWord (l : LoopState) (v : Nat) : Word :=
  let x := l.get v
  if x.active then packWord [(32, x.trip.toNat), (0, x.k % 2 ^ 32)] else 0

/-- The pipelined level, if any. -/
def LoopState.pipe (l : LoopState) : Option Nat :=
  (List.range 6).find? fun v => (l.get v).active && (l.get v).pipelined

/-- LOOP_CTL (R119). -/
def loopCtlWord (l : LoopState) : Word :=
  let act := (List.range 6).map fun v => (v, bit (l.get v).active)
  let brk := (List.range 6).map fun v => (6 + v, bit ((l.get v).active && (l.get v).brk))
  let p := match l.pipe with
    | some v => [(12, 1), (13, v), (16, l.nst.toNat)]
    | none => []
  packWord (act ++ brk ++ p ++ [(24, l.sp.toNat)])

/-- TKIND code of a tile (06_streams_matrix.md R167). -/
def TKind.code : TKind → Nat
  | .zero => 0
  | .float => 1
  | .int => 2

def Core.tk (c : Core) (t : Nat) : TKind := c.tkind.toArray.getD t .zero

/-- MX_STATE (R167). -/
def mxStateWord (c : Core) : Word :=
  packWord ((List.range 4).map (fun t => (48 + 2 * t, (c.tk t).code)) ++
    [(40, c.wbuf.kcur), (32, c.wbuf.kld), (24, c.wbuf.rows.length), (12, c.wbuf.ty.code.toNat),
     (1, bit c.wbuf.cmp), (0, bit c.wbuf.valid)])

/-- CMPD_CTRL (03_numbers.md R85); ARM reads 0. -/
def cmpdCtrlWord (c : Core) : Word := packWord [(0, c.cmpdN.toNat), (9, bit c.cmpdValid), (10, bit c.cmpdErr)]

/-- The attached cores of a cluster, lowest first. -/
def State.attached (s : State) (k : Nat) : List Nat := (coresOf k).filter fun g => (s.core g).att

/-- The leader: the lowest-numbered attached core (R114). -/
def State.leader (s : State) (k : Nat) : Option Nat := (s.attached k).head?

/-- One past the newest entry of the drift window, counted from the Quadrille's start. -/
def Quad.head (q : Quad) : Nat := q.base + q.win.length

/-- Whether the slowest attached core is 128 instructions behind the head (R29). -/
def State.quadStalled (s : State) (k : Nat) : Bool :=
  (s.attached k).any fun g => (s.cluster k).quad.head ≥ (s.core g).qpos + 128

/-- DRIFT_WINDOW (09_progress_scheduling.md R274). -/
def driftWord (s : State) (g : Nat) : Word :=
  let k := clusOf g
  let q := (s.cluster k).quad
  let c := s.core g
  packWord [(0, if c.att then q.head - c.qpos else 0), (8, q.win.length), (16, bit (s.quadStalled k))]

/-- The value of control register `n` on core `g` (12_recovery.md R356); an unassigned number has none. -/
def csrValue (s : State) (g n : Nat) : Option Word :=
  let c := s.core g
  let k := clusOf g
  if n = 0x000 then
    some (packWord [(0, g % 16), (4, k % 8), (7, dieOf g), (9, g), (18, k), (23, s.partOf g)])
  else if n = 0x001 then some (packWord [(0, s.devNum.toNat), (6, bit s.inDomain)])
  else if n = 0x002 then some (BitVec.ofNat 64 s.cycle)
  else if n = 0x010 then some (packWord [(0, bit c.ftz), (1, bit c.nten)])
  else if n = 0x011 then some (c.fpstat.setWidth 64)
  else if n = 0x012 then some c.seed
  else if n = 0x020 then some (cmpdCtrlWord c)
  else if 0x030 ≤ n ∧ n ≤ 0x03F then some ((c.cmpdSeg.toArray.getD (n - 0x030) 0).setWidth 64)
  else if 0x040 ≤ n ∧ n ≤ 0x04F then some ((c.cmpdOfs.toArray.getD (n - 0x040) 0).setWidth 64)
  else if n = 0x050 then some (loopCtlWord c.loops)
  else if 0x051 ≤ n ∧ n ≤ 0x056 then some (loopIWord c.loops (n - 0x051))
  else if n = 0x060 then some (c.joinTimeout.setWidth 64)
  else if n = 0x061 then some (driftWord s g)
  else if n = 0x070 then some (mxStateWord c)
  else if n = 0x080 then some (packWord [(0, c.xqWidth.toNat), (16, c.xqStride.toNat)])
  else if n = 0x090 then some (packWord [(0, (s.die (dieOf g)).age.toNat), (32, (s.die (dieOf g)).xchg.toNat)])
  else if n = 0x091 then some (packWord [(0, s.powerReq.toNat), (2, (s.cluster k).mode.toNat)])
  else if n = 0x092 then some (BitVec.ofNat 64 (1048576 - s.sigNext))
  else if n = 0x0A0 then some (c.hndCtl.setWidth 64)
  else if n = 0x0A1 then some (c.hndBase.setWidth 64)
  else if n = 0x0A2 then some (packWord [(0, bit c.skip), (1, bit c.inh), (2, bit (s.part (s.partOf g)).debug)])
  else if 0x0A8 ≤ n ∧ n ≤ 0x0AF then some (c.faultRep.toArray.getD (n - 0x0A8) 0)
  else if 0x0B0 ≤ n ∧ n ≤ 0x0B3 then some ((c.wp.toArray.getD (n - 0x0B0) ⟨0, 0, 0, 0, 0⟩).addr.setWidth 64)
  else if 0x0B4 ≤ n ∧ n ≤ 0x0B7 then
    let w := c.wp.toArray.getD (n - 0x0B4) ⟨0, 0, 0, 0, 0⟩
    some (packWord [(0, w.len.toNat), (21, w.scope.toNat), (24, w.kind.toNat)])
  else if n = 0x0B8 then some (c.wpHit.setWidth 64)
  else if n = 0x0C0 then some (c.traceCtl.setWidth 64)
  else if n = 0x0C1 then some (((s.die (dieOf g)).dropped.get (s.partOf g) 0).setWidth 64)
  else none

/-- The RW registers of R356 that a context holds, and WP_HIT, by number (R358). -/
def contextCsrs : List Nat :=
  [0x010, 0x012, 0x020] ++ upFrom 0x030 32 ++ [0x060, 0x080, 0x0A0, 0x0A1, 0x0A2, 0x0B8, 0x0C0]

/-- Positions packed as in QPOS (06_streams_matrix.md R163). -/
def StreamReg.packed (q : StreamReg) : Nat :=
  packNat [(0, q.p0.toNat), (24, q.p1.toNat), (48, q.p2.toNat), (56, q.p3.toNat)]

end Sys2Proof.Machine
end

