-- ==== Sys2Proof/Machine/Context.lean ====
section
/-!
DEFINITION. The records of a dump or a saved context (12_recovery.md R358, R361, R371) and the coding of a scratch region
(R360).
-/

namespace Sys2Proof.Machine

/-! ## Region records (R360) -/

/-- The tag of a granule given the one before it, with its payload. -/
def granTag (prev g : List Byte) : Nat × List Byte :=
  if g.all (· == 0) then (0, [])
  else if g = prev then (1, [])
  else if (chunks 4 16 g).all (fun w => w == g.take 4) then (2, g.take 4)
  else (3, g)

def granTags : List Byte → List (List Byte) → List (Nat × List Byte)
  | _, [] => []
  | prev, g :: gs => granTag prev g :: granTags g gs

/-- The record of region `r` (its index within its scratch) with the 4,096 bytes given. -/
def regionRecord (r : Nat) (bytes : List Byte) : List Byte :=
  let ts := granTags (List.replicate 64 0) (chunks 64 64 bytes)
  let tags := ts.foldr (fun t x => t.1 + 4 * x) 0
  let payload := (ts.map (·.2)).flatten
  natBytes 4 (r + payload.length / 4 * 2 ^ 16) ++ natBytes 16 tags ++ payload

/-- The dirty regions of the scratch that starts at location `base`, by index. -/
def State.dirtyRegions (s : State) (base size : Nat) : List Nat :=
  (List.range (size / 4096)).filter fun r => s.dirty.contains (base / 4096 + r)

/-- The coded records of the dirty regions of a scratch. -/
def State.regions (s : State) (base size : Nat) : List Byte :=
  ((s.dirtyRegions base size).map fun r => regionRecord r (s.homeBytes (base + 4096 * r) 4096)).flatten

/-! ## Records (R371) -/

/-- A record: the 16-byte header and the body. -/
def dumpRecord (ty g inst node : Nat) (body : List Byte) : List Byte :=
  natBytes 8 (packNat [(0, ty), (16, g), (32, body.length)]) ++ natBytes 8 (packNat [(0, inst), (24, node)]) ++ body

/-- The scalar registers, the shadow bank and the conditions, where c0 reads true (01_machine.md R7). -/
def bodyScalar (c : Core) : List Byte :=
  (c.s.toList.map (wordBytes 8)).flatten ++ (c.shadow.toList.map (wordBytes 8)).flatten ++ natBytes 8 (c.c ||| 1).toNat

def bodyVreg (c : Core) : List Byte := (c.v.toList.map fun x => natBytes 4096 x.toNat).flatten

/-- The mask stack: its depth, then sixteen entries bottom first (the model's list has the top first); then m1 to m7. -/
def stackBytes (c : Core) : List Byte :=
  let st := c.mstack.reverse
  natBytes 8 st.length ++ ((List.range 16).map fun i => natBytes 128 (st.getD i 0).toNat).flatten

def bodyMasks (c : Core) : List Byte :=
  stackBytes c ++
  ((upFrom 1 7).map fun i => natBytes 128 (c.m.toArray.getD i 0).toNat).flatten

def bodyTiles (c : Core) : List Byte :=
  wordBytes 8 (mxStateWord c) ++
  ((List.range 4).map fun t =>
    if c.tk t = .zero then [] else natBytes 65536 (c.t.toArray.getD t 0).toNat).flatten

/-- One stream register in 96 bytes. -/
def streamBytes (q : StreamReg) : List Byte :=
  natBytes 8 (packNat [(0, bit q.bound), (1, q.index.toNat)]) ++ natBytes 64 q.entry.toNat ++ natBytes 8 q.packed ++
  List.replicate 16 0

def bodyStreams (c : Core) : List Byte := (c.q.toList.map streamBytes).flatten

def bodyLoops (c : Core) : List Byte :=
  ((List.range 6).map fun v => wordBytes 8 (loopIWord c.loops v)).flatten ++ wordBytes 8 (loopCtlWord c.loops)

def bodyCsrs (s : State) (g : Nat) : List Byte :=
  (contextCsrs.map fun n => natBytes 8 n ++ wordBytes 8 ((csrValue s g n).getD 0)).flatten

def bodyTokens (c : Core) : List Byte :=
  (c.toks.toList.map fun t => BitVec.ofNat 8 t.vis) ++
  (match c.wbuf.last with
   | some e => streamBytes e.sa
   | none => List.replicate 96 0) ++ natBytes 8 c.wbuf.kcur

/-- Held entries: the word and the captured operands (a scalar, then the two streams' packed positions). -/
def bodyQueue (c : Core) : List Byte :=
  ((c.eng.toList.map (·.queue)).flatten.map fun e =>
    wordBytes 8 e.word ++ wordBytes 8 e.scalar ++ natBytes 8 e.sa.packed ++ natBytes 8 e.sb.packed).flatten

def bodyGen (c : Core) : List Byte := wordBytes 8 c.genS ++ wordBytes 8 c.genV ++ wordBytes 8 c.genM

/-- The value of DETQ (04_scalar_control.md R122). -/
def detqWord (s : State) (g : Nat) : Word :=
  let k := clusOf g
  let c := s.core g
  let am := ((s.attached k).map fun h => 2 ^ (4 + h % 16)).foldl (· + ·) 0
  let six := s.inSixteen g
  BitVec.ofNat 64 (am + packNat
    [(0, bit (c.att && six)), (1, bit (six && c.att && s.leader k = some g)), (2, bit six), (3, bit c.inh)])

/-- The records that a pre-emption saves for one core, and a dump holds (R371). -/
def coreRecords (s : State) (g inst node : Nat) : List (List Byte) :=
  let c := s.core g
  [dumpRecord 0x03 g inst node (bodyScalar c), dumpRecord 0x04 g inst node (bodyVreg c),
   dumpRecord 0x05 g inst node (bodyMasks c), dumpRecord 0x06 g inst node (bodyTiles c),
   dumpRecord 0x07 g inst node (bodyStreams c), dumpRecord 0x08 g inst node (bodyLoops c),
   dumpRecord 0x09 g inst node (bodyCsrs s g), dumpRecord 0x0A g inst node (bodyTokens c),
   dumpRecord 0x0C g inst node (s.regions (nearLoc g) nearSize), dumpRecord 0x0D g inst node (bodyGen c),
   dumpRecord 0x0E g inst node (wordBytes 8 (detqWord s g))]

/-- The records of a dump: the report of core `g`, then every core of the set, each with its held entries. -/
def dumpRecords (s : State) (g : Nat) (rep : Vector Word 8) (t : Task) : List (List Byte) :=
  dumpRecord 0x01 g t.inst t.node (rep.toList.map (wordBytes 8)).flatten ::
  (t.cores.map fun h =>
    coreRecords s h t.inst t.node ++ [dumpRecord 0x0B h t.inst t.node (bodyQueue (s.core h))]).flatten

/-- The locations of a dump's regions that hold an uncorrectable error: it is recorded, and the dump goes on (R354, R371). -/
def dumpUnc (s : State) (t : Task) : List Nat :=
  s.memunc.filter fun a => t.cores.any (fun g => inNear g a) && s.dirty.contains (a / 4096)

/-- The END record: how many records the dump holds, itself included. -/
def dumpEnd (w : DumpWho) (n : Nat) : List Byte := dumpRecord 0x0F w.core w.inst w.node (natBytes 8 (n + 1))

/-- The dump of a fault of core `g` in task `t`, as far as its END. -/
def dumpText (s : State) (g : Nat) (rep : Vector Word 8) (t : Task) : DumpText :=
  let recs := dumpRecords s g rep t
  ⟨recs.flatten, recs.length, ⟨g, t.inst, t.node⟩, dumpUnc s t⟩

/-- The bytes of a pre-emption that R361 counts: VREG records, tiles, coded regions. -/
def savedBytes (s : State) (t : Task) : Nat :=
  (t.cores.map fun g =>
    let c := s.core g
    131072 + 65536 * ((List.range 4).filter fun i => c.tk i != .zero).length + (s.regions (nearLoc g) nearSize).length).foldl (· + ·) 0

end Sys2Proof.Machine
end

