-- ==== Sys2Proof/Machine/Commands.lean ====
section
/-!
DEFINITION. The queues of the copy engines: which commands an engine holds, which start, and how one is dropped (01_machine.md R37, R39;
08_sync_async.md R236; 09_progress_scheduling.md R266).
-/

namespace Sys2Proof.Machine

/-- Whether a cancel token has reached the engines for instance `i`. -/
def State.tokenAt (s : State) (i : Nat) : Bool := (s.insts.find i).elim false fun x => x.cancelled.isSome && x.delivered

/-- A node is terminated: neither complete nor counted (R266). -/
def State.dropNode (s : State) (i n : Nat) : State := s.updNode i n fun x => { x with st := .dropped, task := none }

/-- Commands that an engine has accepted and not completed. -/
def State.cmdsOf (s : State) (die : Bool) (e : Nat) : List Cmd := s.cmds.filter fun c => c.die == die && c.engine = e

/-- Whether a started command occupies one of its engine's four contexts: a contribution held by a round occupies none. -/
def Cmd.busy (c : Cmd) : Bool := c.started && !c.applied

/-- A command is dropped, and a copy node with it. -/
def State.dropCmd (s : State) (c : Cmd) : State :=
  let s := { s with cmds := s.cmds.filter fun x => x.id != c.id }
  c.node.elim s (s.dropNode c.inst)

/-- KVBLK and FINAL move data on the cluster's copy engines (10_retrieval_attention.md R315). -/
def PavOp.copies (o : PavOp) : Bool := o.op = 0x10 || o.op = 0x14

/-- Whether the Pavane of cluster `k` has copy commands of its own (R39). -/
def State.pavCopies (s : State) (k : Nat) : Bool :=
  (s.cluster k).pav.pass.elim false fun p => p.ops.any (·.copies)

/-- Commands at the head start while contexts are free; those of a cancelled instance are dropped (R266). -/
def State.startCmds (s : State) (die : Bool) (e : Nat) : Nat → State
  | 0 => s
  | f + 1 =>
    match (s.cmdsOf die e).find? fun c => !c.started with
    | none => s
    | some c =>
      if s.tokenAt c.inst then (s.dropCmd c).startCmds die e f
      else if 4 ≤ ((s.cmdsOf die e).filter (·.busy)).length || (!die && s.pavCopies (e / 2)) then s
      else { s with cmds := listUpd s.cmds (·.id = c.id) fun c => { c with started := true } }.startCmds die e f

/-- The command that a trap has named is dropped as the trap is delivered, and its engine goes on (03_numbers.md R94). -/
def State.dropTrapped (s : State) (i : Option Nat) : State :=
  match i.bind fun i => s.cmds.find? (·.id = i) with
  | some c => (s.dropCmd c).startCmds c.die c.engine 33
  | none => s

end Sys2Proof.Machine
end

