-- ==== Sys2Proof/Machine/Ops.lean ====
section
/-!
DEFINITION. The named operations of a core: registers and their pending marks, gates and qualifiers, moving to the next
word, attachment, flags, barriers, cancel tokens, the end of a part, and taking an exception and returning from one
(01_machine.md R24 to R34; 04_scalar_control.md R95, R96, R109, R114; 08_sync_async.md R221, R230 to R233, R243;
09_progress_scheduling.md R265; 12_recovery.md R347 to R353, R371).
-/

namespace Sys2Proof.Machine

/-! ## Causes (R347) -/

def cILLOP : Nat := 1
def cPCRANGE : Nat := 2
def cLOOPNEST : Nat := 3
def cKERNEXIT : Nat := 4
def cHEXIT : Nat := 5
def cPHASETIME : Nat := 6
def cTOKDEAD : Nat := 7
def cHNDENG : Nat := 8
def cMEMUNC : Nat := 9
def cNANTRAP : Nat := 10
def cDBRK : Nat := 11
def cWATCH : Nat := 12
def cMSTACK : Nat := 13
def cCMPDTBL : Nat := 14
def cVALIGN : Nat := 15
def cSALIGN : Nat := 16
def cATOMHOST : Nat := 21
def cOBJINV : Nat := 22
def cQUNBOUND : Nat := 23
def cQAFFINE : Nat := 24
def cQFMT : Nat := 25
def cQRIGHTS : Nat := 26
def cQBOUNDS : Nat := 27
def cTKIND : Nat := 28
def cWBUF : Nat := 29
def cMSETSHAPE : Nat := 30
def cMSETMIS : Nat := 31
def cMSETLOST : Nat := 32
def cFLAGNUM : Nat := 33
def cRINGNUM : Nat := 34
def cRINGSEQ : Nat := 35
def cBARINIT : Nat := 36
def cBARTHIRD : Nat := 37
def cBARBUSY : Nat := 38
def cCPYREC : Nat := 39
def cCRIGHTS : Nat := 40
def cCFMT : Nat := 41
def cCBOUNDS : Nat := 42
def cCSHAPE : Nat := 43
def cTASKREC : Nat := 44
def cTFULL : Nat := 45
def cTINST : Nat := 46
def cTNODE : Nat := 47
def cDEPUNDER : Nat := 48
def cXQNUM : Nat := 49
def cXQREC : Nat := 50
def cQSPILL : Nat := 51
def cXQBIND : Nat := 52
def cXQCFG : Nat := 53
def cSRCHREC : Nat := 54
def cSRIGHTS : Nat := 55
def cSRCHCFG : Nat := 56
def cSRCHFULL : Nat := 57
def cIXREC : Nat := 58
def cIXFULL : Nat := 59
def cKVDESC : Nat := 60
def cKVREC : Nat := 61
def cKVRANGE : Nat := 62
def cASTARTSET : Nat := 63
def cPVREC : Nat := 64
def cHRETMODE : Nat := 65
def cREDMIX : Nat := 128
def cREMOTEREJ : Nat := 129
def cUSERCAN : Nat := 130
def cHOSTCAN : Nat := 131
def cPARENTCAN : Nat := 132
def cKVPSG : Nat := 133
def cPVILL : Nat := 134
def cPVSTACK : Nat := 135
def cPVMIS : Nat := 136
def cPVLOST : Nat := 137
def cRINGFAIL : Nat := 138
def cPARTRESET : Nat := 139
def cLINKDOWN : Nat := 140
def cBADCMD : Nat := 141
def cBADSEQ : Nat := 142

/-- Classes of the precise causes (R347). -/
inductive Cls where
  | prog | arith | debug | fatal
  deriving DecidableEq, Repr, Inhabited

def causeClass (c : Nat) : Cls :=
  if 5 ≤ c ∧ c ≤ 9 then .fatal
  else if c = 10 then .arith
  else if c = 11 ∨ c = 12 then .debug
  else .prog

/-! ## Registers (R7, R96) -/

/-- Scalar register `r`: s0 reads 0, and in handler mode s56 to s63 name the shadow bank. -/
def Core.reg (c : Core) (r : BitVec 6) : Word :=
  if r = 0 then 0
  else if c.inh && 56 ≤ r.toNat then c.shadow.toArray.getD (r.toNat - 56) 0
  else c.s.toArray.getD r.toNat 0

/-- Write a scalar register; a write to s0 is discarded. -/
def Core.setReg (c : Core) (r : BitVec 6) (v : Word) : Core := c.putBank c.inh r v

/-- Condition register `k`: c0 reads true. -/
def Core.creg (c : Core) (k : BitVec 3) : Bool := k = 0 || c.c.getLsbD k.toNat

/-- Write a condition register; a write to c0 is discarded. -/
def Core.setCreg (c : Core) (k : BitVec 3) (v : Bool) : Core :=
  if k = 0 then c
  else { c with c := if v then c.c ||| (1#8 <<< k.toNat) else c.c &&& ~~~(1#8 <<< k.toNat) }

def Core.engs (c : Core) : List EngState := c.eng.toList

/-- Number of an engine within a core. -/
def engIdx : Eng → Nat
  | .load => 0 | .store => 1 | .arith => 2 | .matrix => 3 | .permute => 4

def Core.getEng (c : Core) (e : Eng) : EngState := c.eng.toArray.getD (engIdx e) ⟨[], []⟩

def Core.setEng (c : Core) (e : Eng) (x : EngState) : Core := { c with eng := c.eng.setIfInBounds (engIdx e) x }

/-- Whether every engine queue of the core has drained. -/
def Core.drained (c : Core) : Bool := c.engs.all fun e => e.queue = [] && e.inflight = []

/-- Number of a token queue within a core. -/
def tokIdx (t : TokQ) : Nat := t.code.toNat - 1

def Core.tok (c : Core) (t : TokQ) : TokState := c.toks.toArray.getD (tokIdx t) ⟨0, 0⟩

def Core.setTok (c : Core) (t : TokQ) (x : TokState) : Core := { c with toks := c.toks.setIfInBounds (tokIdx t) x }

/-- Whether `r` names the shadow bank now. -/
def Core.inShadow (c : Core) (r : BitVec 6) : Bool := c.inh && 56 ≤ r.toNat

/-- Whether an outstanding access will write `r` of the bank that `r` names. -/
def OutAcc.writes (o : OutAcc) (c : Core) (r : BitVec 6) : Bool :=
  match o with
  | .load d sh _ => d = r && sh == c.inShadow r
  | .atomic d sh _ => d = r && sh == c.inShadow r
  | .store _ _ _ => false

/-- Whether scalar register `r` waits for a write: of an engine (R34), of an outstanding access (R213), or of an armed
WAITA .rlx (R220). -/
def Core.pendS (c : Core) (r : BitVec 6) : Bool :=
  r != 0 &&
  ((!c.inShadow r && c.engs.any fun e =>
      e.queue.any (fun x => x.ms = some r) || e.inflight.any (fun x => (x.sw.map (·.1)) = some r))
   || c.out.any (fun o => o.writes c r)
   || c.monitors.toList.any (fun m => match m with
      | some m => m.d = r && m.shadow == c.inShadow r
      | none => false))

/-- Whether condition register `k` waits for an engine's write (R34). -/
def Core.pendC (c : Core) (k : BitVec 3) : Bool :=
  k != 0 && c.engs.any fun e =>
    e.queue.any (fun x => x.mc = some k) || e.inflight.any (fun x => (x.cw.map (·.1)) = some k)

/-- Every register named is final (R95): none of those read or written waits. -/
def Core.ready (c : Core) (rs : List (BitVec 6)) (cs : List (BitVec 3)) : Bool :=
  rs.all (fun r => !c.pendS r) && cs.all (fun k => !c.pendC k)

/-! ## Gates and qualifiers (R42, R350) -/

/-- Whether LEND on level `x` would continue with the window `sp` and stage count less one `nst` (R117). -/
def lendMore (x : LoopLv) (sp : BitVec 8) (nst : BitVec 3) : Bool :=
  let b := x.k + 1 < x.trip.toNat && !x.brk
  if x.pipelined then ((2 * sp.toNat + bit b) % 2 ^ (nst.toNat + 1)) != 0 else b

/-- Whether a word with qualifier `q` is on (02_encoding.md R42). The last iteration is judged as the counts and the break bit stand when
the word is reached, so a word before an LBRK is off in the iteration that the LBRK ends the loop in (assumption 70). -/
def Core.isOn (c : Core) (q : Qual) : Bool :=
  match q with
  | .always => true
  | .stage n => !c.inh && c.loops.sp.getLsbD n.toNat
  | .first =>
    c.inh || (match c.loops.inner with
      | none => true
      | some v => (c.loops.get v).k = 0)
  | .last =>
    c.inh || (match c.loops.inner with
      | none => true
      | some v => !lendMore (c.loops.get v) c.loops.sp c.loops.nst)

/-! ## Next word -/

/-- Whether an address is in the code window and a multiple of 8 (R109). -/
def codeOk (pc : Word) : Bool := ownClus ≤ pc.toNat && pc.toNat < ownClus + clusSize && pc.toNat % 8 = 0

/-- The word is done: the core continues at `next`, past this entry of the window when it is attached. -/
def Core.goto (c : Core) (next : Word) : Core :=
  { c with pc := next, qpos := if c.att then c.qpos + 1 else c.qpos, noWatch := false }

/-- Sequential flow. -/
def Core.advance (c : Core) : Core := c.goto (c.pc + 8)

def State.advance (s : State) (g : Nat) : State := s.updCore g Core.advance

/-- The issuing core's word is done. -/
def State.done (s : State) : Out := .next (s.advance s.me)

/-! ## Attachment (R29, R114, R120) -/

/-- With no core attached the Quadrille is idle: window and history are empty (R120). -/
def State.quadSettle (s : State) (k : Nat) : State :=
  if s.attached k = [] then
    s.updCluster k fun x => { x with quad := { x.quad with run := .idle, win := [], hist := [], base := 0 } }
  else s

/-- A core leaves the attached set. -/
def State.leave (s : State) (g : Nat) : State :=
  if (s.core g).att then (s.updCore g fun c => { c with att := false }).quadSettle (clusOf g) else s

/-- A core detaches: it writes a DETACH record that names its word and the leader. -/
def State.detach (s : State) (g : Nat) : State :=
  if (s.core g).att then
    let lead := (s.leader (clusOf g)).getD g
    ((s.traceCore g evDETACH (s.core g).pc (BitVec.ofNat 64 lead)).leave g)
  else s

/-! ## The results of engine words (R33, R34; 05_vector.md R128) -/

/-- Row `i` of a vector register, 256 bytes (05_vector.md R128). -/
def vrow (x : VData) (i : Nat) : BitVec 2048 := x.extractLsb' (2048 * i) 2048

def setVrow (x : VData) (i : Nat) (r : BitVec 2048) : VData :=
  x ^^^ ((vrow x i ^^^ r).setWidth 32768 <<< (2048 * i))

/-- The rows that engine `e` has still to write and that satisfy `f` are written (R128). -/
def Core.writeRows (c : Core) (e : Eng) (f : Nat → Bool) : Core :=
  let go (l : LateRow) : Bool := l.eng = e && f l.row
  { c with
    v := (c.late.filter go).foldl (fun v l => v.setIfInBounds l.d (setVrow (v.toArray.getD l.d 0) l.row l.data)) c.v
    late := c.late.filter fun l => !go l }

/-- Core `c` as it was `old` before engine `e` issued a word, but for the rows in `rows` of its result, which it writes later: an
unordered read by another engine sees each row wholly as before or wholly as after (R128). -/
def Core.delayRows (old c : Core) (e : Eng) (rows : List Nat) : Core :=
  let ls : List LateRow := ((List.range 32).map fun d => rows.filterMap fun i =>
    let x := vrow (c.v.toArray.getD d 0) i
    if i < 16 && x != vrow (old.v.toArray.getD d 0) i then some ⟨e, d, i, x⟩ else none).flatten
  { c with
    v := ls.foldl (fun v l => v.setIfInBounds l.d (setVrow (v.toArray.getD l.d 0) l.row (vrow (old.v.toArray.getD l.d 0) l.row))) c.v
    late := c.late ++ ls }

/-- The oldest result in flight is written: the rest of the engine's rows, the token it pushes becomes visible and its register takes its value. -/
def Core.writeResult (c : Core) (e : Eng) : Core :=
  let c := c.writeRows e fun _ => true
  let x := c.getEng e
  match x.inflight with
  | [] => c
  | f :: fs =>
    let c := c.setEng e { x with inflight := fs }
    let c := match f.push with
      | some t => c.setTok t { vis := (c.tok t).vis + 1, res := (c.tok t).res - 1 }
      | none => c
    let c := match f.sw with
      | some (d, v) => c.putBank false d v
      | none => c
    match f.cw with
    | some (k, v) => c.setCreg k v
    | none => c

/-- Every result of engine `e` that is in flight is written, oldest first. -/
def Core.writeAll (c : Core) (e : Eng) : Nat → Core
  | 0 => c
  | f + 1 => if (c.getEng e).inflight = [] then c else (c.writeResult e).writeAll e f

/-- Every result in flight on the core's engines is written. -/
def Core.writeResults (c : Core) : Core :=
  [Eng.load, .store, .arith, .matrix, .permute].foldl (fun c e => c.writeAll e (c.getEng e).inflight.length) c

/-! ## Flags (R221 to R224) -/

/-- Serial-number order: the flag has reached its target (R223). -/
def reached (f t : BitVec 32) : Bool := (f - t).toNat < 2 ^ 31

/-- Note on a waiting FWAIT the agent whose write reached its target (R224). -/
def Core.noteFlag (c : Core) (die : Bool) (home flag : Nat) (old new : BitVec 32) (agent : Nat) : Core :=
  match c.wait with
  | some (.fwait di h f t i dl d _) =>
    if di = die && h = home && f = flag && !reached old t && reached new t then
      { c with wait := some (.fwait di h f t i dl d agent) }
    else c
  | _ => c

/-- Every core whose FWAIT the write satisfies learns the writing agent. -/
def State.noteFlag (s : State) (die : Bool) (home flag : Nat) (old new : BitVec 32) (agent : Nat) : State :=
  { s with cores := s.cores.map fun (g, c) =>
      if die && (s.partOf g * 4096 ≤ flag && flag < s.partOf g * 4096 + 4096) then
        (g, c.noteFlag die home (flag - s.partOf g * 4096) old new agent)
      else if die then (g, c)
      else (g, c.noteFlag die home flag old new agent) }

/-- Write a cluster flag. -/
def State.setFlag (s : State) (agent k f : Nat) (v : BitVec 32) : State :=
  let old := s.clusFlag k f
  (s.updCluster k fun x => { x with flags := x.flags.set f v }).noteFlag false k f old v agent

/-- Write a die flag of partition `p`. -/
def State.setDieFlag (s : State) (agent p d f : Nat) (v : BitVec 32) : State :=
  let old := s.dieFlag p d f
  (s.updDie d fun x => { x with flags := x.flags.set (dieFlagKey p f) v }).noteFlag true d (dieFlagKey p f) old v agent

/-- An engine's completion signal: cluster flag `f` plus 1; flag 0 stands for none (R222). -/
def State.signal (s : State) (agent k f : Nat) : State := if f = 0 then s else s.setFlag agent k f (s.clusFlag k f + 1)

/-- A completion signal on a die flag. -/
def State.signalDie (s : State) (agent p d f : Nat) : State :=
  if f = 0 then s else s.setDieFlag agent p d f (s.dieFlag p d f + 1)

/-! ## Barriers (R230 to R233) -/

/-- TryComplete of R232. -/
def Barrier.complete (b : Barrier) : Nat → Barrier
  | 0 => b
  | f + 1 =>
    if b.cur != 0 && b.cur.cpop.toNat ≥ b.exp.toNat then
      ({ b with phase := b.phase + 1, cur := b.nxt, nxt := 0, exp := b.expl } : Barrier).complete f
    else b

/-- Drop of R233: core `i` of the cluster arrives and leaves the members. -/
def Barrier.drop (b : Barrier) (i : Nat) : Barrier :=
  if b.mem.getLsbD i then
    ({ b with
      cur := b.cur ||| (1#16 <<< i)
      nxt := b.nxt &&& ~~~(1#16 <<< i)
      mem := b.mem &&& ~~~(1#16 <<< i)
      expl := BitVec.ofNat 5 (b.expl.toNat - 1)
      lost := true } : Barrier).complete 3
  else b

/-- Whether core `i` has no arrival open: DONE of R231. -/
def Barrier.doneFor (b : Barrier) (i : Nat) : Bool := !b.cur.getLsbD i && !b.nxt.getLsbD i

/-- The status word of R231. -/
def Barrier.status (b : Barrier) (i : Nat) (early : Bool) : Word :=
  packWord [(0, b.phase.toNat), (32, bit (b.doneFor i)), (33, bit b.lost), (34, bit early)]

/-- A BARW waiter of barrier `b` that is now in neither CUR nor NXT returns: what it returns is fixed by the step that
completed its phase (R232). -/
def Core.noteBar (c : Core) (i b : Nat) (x : Barrier) : Core :=
  match c.wait with
  | some (.barw b' d none) => if b' = b && x.doneFor i then { c with wait := some (.barw b d (some (x.status i false, x.lost))) } else c
  | _ => c

/-- The result of a step on barrier `b` of cluster `k`, with the waiters whose phase it completes. -/
def State.setBar (s : State) (k b : Nat) (x : Barrier) : State :=
  let s := s.updCluster k fun y => { y with bars := y.bars.set b x }
  { s with cores := s.cores.map fun (g, c) => (g, if clusOf g = k then c.noteBar (g % 16) b x else c) }

/-- An ending member is dropped from every barrier of its cluster. -/
def State.barDrop (s : State) (g : Nat) : State :=
  (s.cluster (clusOf g)).bars.foldl (fun s (b, y) => s.setBar (clusOf g) b (y.drop (g % 16))) s

/-! ## Cancel tokens (R265) -/

/-- Raise a token for a live instance: the first cause is kept, and the token sets out. -/
def State.raiseCancel (s : State) (i cause : Nat) : State :=
  match s.insts.find i with
  | none => s
  | some x =>
    if x.cancelled.isSome then s
    else { (s.updInst i fun x => { x with cancelled := some cause }) with tokens := s.tokens ++ [i] }

/-- Whether a cancel token has reached the core's instance. -/
def State.cancelledAt (s : State) (g : Nat) : Bool :=
  match s.taskOf g with
  | none => false
  | some t => (s.insts.find t.inst).elim false fun x => x.cancelled.isSome && x.delivered

/-! ## Waits (R243) -/

/-- Write a register of core `g`. -/
def State.putReg (s : State) (g : Nat) (r : BitVec 6) (v : Word) : State := s.updCore g (·.setReg r v)

/-- A flag as partition `p` reads it. -/
def State.flagAt (s : State) (p : Nat) (die : Bool) (home f : Nat) : BitVec 32 :=
  if die then s.dieFlag p home f else s.clusFlag home f

/-- The record of an FWAIT that did not return at its first test (R224, R369). -/
def State.flagRecord (s : State) (g : Nat) (die : Bool) (home f issued agent : Nat) (timeout inter : Bool) : State :=
  let waited := min (s.cycle - issued) 0xFFFFFFFF
  s.traceCore g evFLAGWAIT (packWord [(0, f), (12, bit die), (13, home), (32, waited)])
    (packWord [(0, if timeout || inter then 0 else agent), (16, bit timeout), (17, bit inter)])

/-- The monitor of a WAITA returns the word's value at the home, and disarms; an acquire discards the staging (R218). -/
def State.monReturn (s : State) (g m : Nat) : State :=
  match (s.core g).monitors.toArray.getD m none with
  | none => s
  | some x =>
    let (bs, s) := s.strongRead g x.loc 8
    let s := s.updCore g fun c =>
      { (c.putBank x.shadow x.d (bytesWord bs)) with monitors := c.monitors.setIfInBounds m none }
    if x.acq then s.discardStaging g else s

/-- A wait that is interrupted returns at once (R243); a JOIN is abandoned instead and runs again, and a system call in
progress goes on (R350). A BARW whose phase has completed returns as it does without the interruption. -/
def State.interruptWait (s : State) (g : Nat) : State :=
  let c := s.core g
  let clear (s : State) : State := s.updCore g fun c => { c with wait := none }
  match c.wait with
  | none => s
  | some (.join _ _) => clear s
  | some (.waita m) => ((clear s).monReturn g m).advance g
  | some (.fwait die home f _ issued _ d _) =>
    let v := s.flagAt (s.partOf g) die home f
    ((((clear s).flagRecord g die home f issued 0 false true).putReg g d (v.setWidth 64)).discardStaging g).advance g
  | some (.rclm _ _ _ d) => ((clear s).putReg g d 0).advance g
  | some (.rwf _ _ _ d) => ((clear s).putReg g d 0).advance g
  | some (.barw b d got) =>
    let x := s.bar (clusOf g) b
    let r := got.getD (x.status (g % 16) true, x.lost)
    ((((clear s).putReg g d r.1).updCore g (·.setCreg 1 r.2)).discardStaging g).advance g
  | some (.sysc _) => s

/-- Every armed WAITA .rlx returns (R243, R350). -/
def State.monReturnAll (s : State) (g : Nat) : State := (List.range 4).foldl (fun s m => s.monReturn g m) s

/-- R197's drain and discard, with every outstanding access and armed monitor settled. -/
def State.settleCore (s : State) (g : Nat) : State := ((s.settleAll g 16).flushCore g).monReturnAll g

/-! ## Fault reports (R348) -/

/-- What a word reports when it faults. -/
structure Trap where
  cause : Nat
  sub : Nat := 0
  eng : Option Eng := none
  engCode : Nat := 0
  addr : Nat := 0
  lane : Option (Nat × Nat) := none
  tile : Option (Nat × Nat) := none
  aux : Nat := 0
  hits : BitVec 4 := 0
  deriving DecidableEq, Repr, Inhabited

def AFault.trap (e : AFault) : Trap := { cause := e.cause, addr := e.addr, aux := e.aux.toNat }

/-- ENG of a report (R348). -/
def engCodeOf : Eng → Nat
  | .load => 1 | .arith => 2 | .store => 3 | .matrix => 4 | .permute => 5

/-- The report of a fault on core `g` at the word `pc`. -/
def State.report (s : State) (g : Nat) (pc spc : Word) (t : Trap) : Vector Word 8 :=
  let c := s.core g
  let code := match t.eng with | some e => engCodeOf e | none => t.engCode
  let ln := t.lane.getD (0, 0)
  let tl := t.tile.getD (0, 0)
  #v[packWord [(0, t.cause), (16, t.sub), (24, code), (28, bit c.inh), (29, bit c.att), (30, bit t.eng.isSome), (32, g)],
     packWord [(0, s.instOf g), (24, s.nodeOf g)],
     pc, spc, BitVec.ofNat 64 t.addr,
     packWord [(0, ln.1), (8, ln.2), (16, bit t.lane.isSome), (17, tl.1), (19, bit t.tile.isSome), (32, tl.2)],
     packWord [(0, c.loops.inner.getD 7), (3, bit (c.phase = .kernel)), (8, c.loops.sp.toNat), (16, c.loops.iter.toNat),
       (48, t.aux)],
     BitVec.ofNat 64 s.cycle]

/-- Fields of a report. -/
def repWord (r : Vector Word 8) (i : Nat) : Word := r.toArray.getD i 0
def repCause (r : Vector Word 8) : Nat := wfld (repWord r 0) 0 16
def repEng (r : Vector Word 8) : Option Eng :=
  if wfld (repWord r 0) 30 1 = 0 then none
  else match wfld (repWord r 0) 24 4 with
    | 1 => some .load | 2 => some .arith | 3 => some .store | 4 => some .matrix | 5 => some .permute | _ => none
def repPc (r : Vector Word 8) : Word := repWord r 2
def repSpc (r : Vector Word 8) : Word := repWord r 3

/-! ## Dumps (R371) -/

/-- Place a dump in its partition's area, or count it as lost when the area holds an unread one. -/
def State.placeDump (s : State) (p : Nat) (d : DumpText) (task : Option Nat) : State :=
  s.updPart p fun x =>
    if x.dump.cur.isSome then { x with dump := { x.dump with lost := x.dump.lost + 1 } }
    else { x with dump := { x.dump with cur := some d.bytes, unc := d.unc, records := d.records, who := d.who, openTask := task } }

/-- The partition whose dump is being written, if any. -/
def State.dumping (s : State) : Option Nat := (List.range 8).find? fun p => (s.part p).dump.openTask.isSome

/-- Close the open dump of partition `p` with END after the bytes given. -/
def State.closeDump (s : State) (p : Nat) (more : List Byte) (n : Nat) : State :=
  s.updPart p fun x => { x with dump := { x.dump with
    cur := x.dump.cur.map fun b => b ++ more ++ dumpEnd x.dump.who (x.dump.records + n)
    records := x.dump.records + n + 1
    openTask := none } }

/-- A queued dump with its END. -/
def DumpText.ended (d : DumpText) : DumpText := { d with bytes := d.bytes ++ dumpEnd d.who d.records, records := d.records + 1 }

/-- The queued dumps of every partition are written, each in its own area, whole. -/
def State.flushDumps (s : State) : State :=
  (List.range 8).foldl (init := s) fun s p =>
    (s.part p).dump.queued.foldl (fun s d => s.placeDump p d.ended none)
      (s.updPart p fun x => { x with dump := { x.dump with queued := [] } })

/-- The dump of a fatal fault on core `g` (R353, R371). -/
def State.dump (s : State) (g : Nat) (rep : Vector Word 8) : State :=
  match (s.core g).task, s.taskOf g with
  | some tn, some t =>
    match s.dumping with
    | some p =>
      if (s.part p).dump.openTask = some tn then
        (s.closeDump p (dumpRecord 0x02 g t.inst t.node (rep.toList.map (wordBytes 8)).flatten) 1).flushDumps
      else s.updPart t.part fun x => { x with dump := { x.dump with queued := x.dump.queued ++ [dumpText s g rep t] } }
    | none => s.placeDump t.part (dumpText s g rep t) (some tn)
  | _, _ => s

/-! ## The end of a core's part (R24, R123, R233, R353) -/

/-- Hold nothing more in the engine queues: the entries younger than a fatal fault are discarded. -/
def Core.discardQueues (c : Core) : Core := { c with eng := c.eng.map fun e => { e with queue := [] } }

/-- The core's part ends: R197's drain and discard, the barrier drop, leaving the attached set. Its engine queues run on. -/
def State.endPart (s : State) (g : Nat) : State :=
  let s := ((s.settleCore g).barDrop g).leave g
  s.updCore g fun c =>
    let c := if c.inh then c.discardQueues else c
    { c with phase := .ended, wait := none, inh := false, pend := none, phaseDue := false, stopped := false,
             halted := false, loops := { c.loops with sp := 0 }, drainSince := some s.cycle }

/-! ## Taking an exception (R349, R350, R353) -/

/-- Entries older than `seq` have completed (R350). -/
def Core.olderDone (c : Core) (seq : Nat) : Bool :=
  c.engs.all fun e => e.queue.all (fun x => seq ≤ x.seq) && e.inflight.all (fun x => seq ≤ x.seq)

/-- Whether the handler takes this class (R352). -/
def Core.handles (c : Core) (k : Cls) : Bool :=
  c.hndCtl.getLsbD 0 &&
  match k with
  | .prog => c.hndCtl.getLsbD 1
  | .arith => c.hndCtl.getLsbD 2
  | .debug => c.hndCtl.getLsbD 3
  | .fatal => false

/-- The faulting entry, at the head of its engine's queue, retires as off or issues again without WATCH. -/
def Core.resumeEntry (c : Core) (e : Eng) (skip : Bool) : Core :=
  let x := c.getEng e
  match x.queue with
  | [] => c
  | h :: t =>
    c.setEng e { x with queue := (if skip then { h with on := false } else { h with noWatch := true }) :: t }

/-- The resumption of R351 after report `r`, with the choice `skip`. -/
def Core.resume (c : Core) (r : Vector Word 8) (skip : Bool) : Core :=
  match repEng r with
  | some e => { c.resumeEntry e skip with pc := repSpc r }
  | none =>
    if skip || repCause r = cDBRK then { c with pc := repPc r + 8, noWatch := false }
    else { c with pc := repPc r, noWatch := true }

/-- Handler entry (R350), once the older entries are complete, for a word in stage `stage`. A core that had stopped runs its handler,
and stops again at the first stop point after HRET (R362). -/
def State.enterHandler (s : State) (g stage : Nat) (rep : Vector Word 8) : State :=
  let s := (s.flushCore g).detach g
  let s := s.updCore g fun c =>
    { c with faultRep := rep, skip := false, inh := true, hndStart := s.cycle, phaseDue := false,
             pc := c.hndBase.setWidth 64, pend := none, noWatch := false, stopped := false }
  s.traceStage g stage evHANDLER (BitVec.ofNat 64 (repCause rep)) (repPc rep)

/-- The core halts at the faulting word for a debug session (R359), wherever it had stopped (R362). What its engines have issued is
written first, so that nothing overwrites a register that the session writes. -/
def State.haltCore (s : State) (g : Nat) (rep : Vector Word 8) : State :=
  let s := (s.settleCore g).detach g
  let s := s.updCore g fun c =>
    { c.writeResults with halted := true, stopped := false, haltRep := rep, haltStart := s.cycle, pc := repSpc rep, pend := none }
  match (s.core g).task with
  | some t => s.updTask t fun x => { x with haltReq := true }
  | none => s

/-- A fault in a fired task cancels every pushing instance of its batch with the same cause (09_progress_scheduling.md R282). -/
def State.failBatch (s : State) (i cause : Nat) : State :=
  match (s.insts.find i).bind (·.batch) with
  | some (_, ds) => ds.foldl (fun s d => s.raiseCancel d.inst cause) s
  | none => s

/-- A fatal fault, in the order of R353: younger entries are discarded, the part ends, the instance is cancelled, a dump is
written. -/
def State.fatal (s : State) (g : Nat) (rep : Vector Word 8) : State :=
  let s := (s.updCore g Core.discardQueues).endPart g
  ((s.raiseCancel (s.instOf g) (repCause rep)).failBatch (s.instOf g) (repCause rep)).dump g rep

/-- Whether a fault of cause `cause` on core `g` is a WATCH that nothing handles, which is no fault (R349). -/
def State.watchOnly (s : State) (g cause : Nat) : Bool :=
  let c := s.core g
  cause = cWATCH && !c.inh && !(s.part (s.partOf g)).debug && !c.handles .debug

/-- A WATCH that nothing handles when its turn comes: its record is written, and the access proceeds as the word issues again (R349). -/
def State.watchPasses (s : State) (g stage : Nat) (rep : Vector Word 8) : State :=
  (s.updCore g fun c => c.resume rep false).traceStage g stage evWATCH (repWord rep 4) (BitVec.ofNat 64 (wfld (repWord rep 6) 48 16 + g * 2 ^ 16))

/-- The fate of a precise fault whose older entries have completed (R349). -/
def State.deliver (s : State) (g stage : Nat) (rep : Vector Word 8) : State :=
  let c := s.core g
  let cause := repCause rep
  let k := causeClass cause
  if s.watchOnly g cause then s.watchPasses g stage rep
  else
    let s := s.traceStage g stage evFAULT (BitVec.ofNat 64 cause) (repPc rep)
    let s := if cause = cNANTRAP then s.updCore g fun c => { c with nten := false } else s
    if c.inh then s.fatal g rep
    else if k = .debug && (s.part (s.partOf g)).debug then s.haltCore g rep
    else if c.handles k then s.enterHandler g stage rep
    else s.fatal g rep

/-- Whether a system call of the core is in progress: it completes before a fault reaches its fate (R350). -/
def Core.inSysc (c : Core) : Bool :=
  match c.wait with
  | some (.sysc _) => true
  | _ => false

/-- Deliver the pending fault of a core once the entries older than it are complete. -/
def State.tryDeliver (s : State) (g : Nat) : State :=
  match (s.core g).pend with
  | none => s
  | some p =>
    if (s.core g).olderDone p.seq && !(s.core g).inSysc then
      ((s.updCore g fun c => { c with pend := none }).dropTrapped p.cmd).deliver g p.stage p.rep
    else s

/-- The stage of a word's gate; 0 for a word that has none (R42, R367). -/
def wordStage (w : Word) : Nat := if (Hd.ofWord w).gate = 1 then (Hd.ofWord w).stg.toNat else 0

/-- The report of a fault at the word at `pc`, of place `seq` and stage `stage`, is made, and the fault waits for the older engine
entries. A fault that arises away from the scalar pipe's own word (`away`) stops the pipe under R350: a wait returns, a system call
in progress completes, and any other unfinished word is abandoned. SPC is PC for a fault of no queue entry (R348). The slots that
matched are noted in WP_HIT (R364). `cmd` is the command that the fault traps (03_numbers.md R94). -/
def State.pendAt (s : State) (g : Nat) (pc : Word) (seq stage : Nat) (away : Bool) (t : Trap) (cmd : Option Nat := none) : State :=
  let s := if away then (s.interruptWait g).monReturnAll g else s
  let c := s.core g
  let rep := s.report g pc (if away && t.eng.isNone then pc else if c.inSysc then c.pc + 8 else c.pc) t
  (s.updCore g fun c => { c with wpHit := c.wpHit ||| t.hits, pend := some ⟨rep, seq, t.eng, stage, s.cycle, cmd⟩ }).tryDeliver g

/-- TAKING AN EXCEPTION. A word of core `g` faults: the report is made, the older engine entries complete while the younger
ones are held, and the fault then reaches its fate. `entry` is the queue entry when the word came from an engine queue. -/
def State.raise (s : State) (g : Nat) (entry : Option QEntry) (t : Trap) : State :=
  let c := s.core g
  match entry with
  | none => if c.pend.isSome then s else s.pendAt g c.pc c.seq c.stage false t
  | some e =>
    if c.pend.any fun p => decide (p.seq ≤ e.seq) then s else s.pendAt g e.pc e.seq (wordStage e.word) true t

/-- A fault of the issuing core's scalar word. -/
def State.trap (s : State) (t : Trap) : Out := .next (s.raise s.me none t)

/-! ## Returning from an exception (R351) -/

/-- A core that ends its stay in handler mode after the end of its part executes nothing more: what the handler left outstanding is done,
and the wait for the engine queues begins anew (R28). -/
def State.settleEnded (s : State) (g : Nat) : State :=
  if (s.core g).phase = .ended then (s.settleCore g).updCore g fun c => { c with drainSince := some s.cycle } else s

/-- RETURNING FROM AN EXCEPTION: HRET in handler mode. -/
def State.leaveHandler (s : State) (g : Nat) : State :=
  let c := s.core g
  let s := s.updCore g fun c => { (c.resume c.faultRep c.skip) with inh := false, phaseDue := false }
  (s.traceCore g evHRET (BitVec.ofNat 64 (bit c.skip)) (s.core g).pc).settleEnded g

/-! ## Own watchpoints (R364) -/

/-- Whether an unhandled WATCH lets the access proceed (R349). -/
def State.watchProceeds (s : State) (g : Nat) : Bool :=
  let c := s.core g
  !c.inh && !(s.part (s.partOf g)).debug && !c.handles .debug

/-- The match of a core's own access, after every other check: the state with its record when the access proceeds, or the
slot to report. `stage` is the accessing word's, `hits` every slot that the word's accesses match. -/
def State.watchOwn (s : State) (g stage : Nat) (again write : Bool) (va loc n : Nat) (hits : BitVec 4) : Except Trap State :=
  if again then .ok s
  else
    match (s.core g).wpMatch write loc n with
    | none => .ok s
    | some i =>
      if s.watchProceeds g then
        .ok ((s.updCore g fun c => { c with wpHit := c.wpHit ||| hits }).traceStage g stage evWATCH
          (BitVec.ofNat 64 va) (BitVec.ofNat 64 (i + g * 2 ^ 16)))
      else .error { cause := cWATCH, addr := va, aux := i, hits := hits }

/-! ## Release and acquire (R198) -/

/-- Whether a word of the matrix queue accesses memory: all but MZERO (0x86). -/
def QEntry.accesses (e : QEntry) : Bool := fld e.word 56 8 != 0x86

/-- Whether a WAITA .rlx of the core is armed: a memory instruction that has not performed. -/
def Core.armed (c : Core) : Bool := c.monitors.toList.any (·.isSome)

/-- Every older memory instruction of the core has performed, and every earlier write is acknowledged. Entries held in the queues during
handler mode count as older (assumption 73). -/
def Core.settled (c : Core) : Bool :=
  !c.armed && (c.getEng .load).queue = [] && (c.getEng .store).queue = [] && !((c.getEng .matrix).queue.any (·.accesses)) && !c.writesOut

/-- The release steps at scope `sc`, once `settled`: the store-merge buffer drains for every scope but .near. -/
def State.releaseSteps (s : State) (g : Nat) (sc : Scope) : State := if sc = .near then s else s.drainAll g

/-- Whether an ordering releases, and whether it acquires (R199). -/
def ordReleases : Ord → Bool
  | .rel | .ar | .sc => true
  | _ => false

def ordAcquires : Ord → Bool
  | .acq | .ar | .sc => true
  | _ => false

/-! ## A word of the scalar pipe -/

/-- The frame of a scalar word: an off word only passes (R26, R42), a word whose registers are not final waits (R95), and
otherwise `f` acts. -/
def scalarWord (q : Qual) (rs : List (BitVec 6)) (cs : List (BitVec 3)) (s : State) (f : State → Out) : Out :=
  let c := s.myCore
  if !c.isOn q then s.done
  else if !c.ready rs cs then .next s
  else f s

/-- A word that only writes scalar register `d`. -/
def scalarTo (q : Qual) (d : BitVec 6) (rs : List (BitVec 6)) (cs : List (BitVec 3)) (f : Core → Word) (s : State) : Out :=
  scalarWord q (d :: rs) cs s fun s => .next (s.updMe fun c => (c.setReg d (f c)).advance)

/-- A release by the scalar pipe waits for its steps, then `f` performs. -/
def releasing (sc : Scope) (s : State) (f : State → Out) : Out :=
  if !s.myCore.settled then .next s else f (s.releaseSteps s.me sc)

end Sys2Proof.Machine
end

