-- ==== Sys2Proof/Machine/Fetch.lean ====
section
/-!
DEFINITION. The turn of a core's scalar pipe: the fetch of its next word from the drift window or its private buffer
(01_machine.md R29; 04_scalar_control.md R109, R113), and the words that never execute (R24, R51, R52).
-/

namespace Sys2Proof.Machine

/-- What a turn comes to: nothing more than a state, or an instruction to execute in a state, perhaps with some rows of engine `e`'s
result written later. -/
inductive Fetched where
  | pass (s : State)
  | run (i : Instr) (s : State)
  | runLate (i : Instr) (s : State) (g : Nat) (e : Eng) (rows : List Nat)
  deriving DecidableEq, Repr

/-! ## The private instruction buffer (R29, R113) -/

/-- Line number of a code address within its cluster scratch. -/
def lineOf (pc : Word) : Nat := (pc.toNat - ownClus) / 64

/-- The word at `pc` of a line. -/
def lineWord (x : BitVec 512) (pc : Word) : Word := x.extractLsb' (8 * (pc.toNat % 64)) 64

/-- Request a line that is neither held nor in flight, with at most four in flight, inside the code window. -/
def Core.request (c : Core) (l : Nat) : Core :=
  if l < clusSize / 64 && c.refills.length < 4 && !c.refills.contains l && !c.lines.any (fun x => x.1 = l) then
    { c with refills := c.refills ++ [l] }
  else c

/-- Fetch from line `l`: it becomes the most recently fetched, and the next four lines are requested. -/
def Core.touchLine (c : Core) (l : Nat) : Core :=
  match c.lines.find? (fun x => x.1 = l) with
  | none => c
  | some x =>
    let c := { c with lines := c.lines.filter (fun y => y.1 != l) ++ [x] }
    (upFrom (l + 1) 4).foldl Core.request c

/-- A refill arrives: the line is placed, the least recently fetched of a full buffer giving way (R113). A line that has arrived and was
not fetched yet stands at the least recent end (assumption 64). -/
def Core.placeLine (c : Core) (l : Nat) (x : BitVec 512) : Core :=
  let ls := c.lines.filter fun y => y.1 != l
  let ls := if ls.length < 256 then ls else ls.drop 1
  { c with lines := (l, x) :: ls, refills := c.refills.filter (· != l) }

/-- Whether a line came with an uncorrectable error, which stands until the line arrives again (12_recovery.md R354). -/
def Core.markLine (c : Core) (l : Nat) (bad : Bool) : Core :=
  { c with badLines := if bad then l :: c.badLines.filter (· != l) else c.badLines.filter (· != l) }

/-! ## The scalar pipe's turn -/

/-- The limit of a prologue, an epilogue or a stay in handler mode has passed (R24, R350). -/
def State.overtime (s : State) (c : Core) : Bool :=
  ((c.phase = .prologue || c.phase = .epilogue) && c.phaseStart + 65536 < s.cycle) ||
  (c.inh && c.hndStart + 65536 < s.cycle) || c.phaseDue

/-- PHASETIME on the word the scalar pipe stands at (R24). -/
def State.phaseTrap (s : State) (g : Nat) : State :=
  let c := s.core g
  match c.wait with
  | some (.sysc _) => s
  | some (.join _ _) => (s.updCore g fun c => { c with wait := none }).raise g none { cause := cPHASETIME }
  | some _ => (s.interruptWait g).updCore g fun c => { c with phaseDue := true }
  | none => s.raise g none { cause := cPHASETIME }

/-- The word a core takes next: from the window when attached, else from its buffer. `none` is a wait, in the state given. -/
def State.takeWord (s : State) (g : Nat) : Option Word × State :=
  let c := s.core g
  if c.att then
    let q := (s.cluster (clusOf g)).quad
    if c.qpos < q.base then (none, s)
    else
      match q.win[c.qpos - q.base]? with
      | some e => (some e.word, s)
      | none => (none, s)
  else
    let l := lineOf c.pc
    match c.lines.find? (fun x => x.1 = l) with
    | some x => (some (lineWord x.2 c.pc), s.updCore g (·.touchLine l))
    | none => (none, s.updCore g (·.request l))

/-- Whether the word that core `g` takes next was read with an uncorrectable error (12_recovery.md R354). -/
def State.wordUnc (s : State) (g : Nat) : Bool :=
  let c := s.core g
  if c.att then
    let q := (s.cluster (clusOf g)).quad
    (q.win[c.qpos - q.base]?).elim false (·.unc)
  else c.badLines.contains (lineOf c.pc)

/-- A decoded word of the scalar pipe: an engine word enters its queue, an illegal one raises ILLOP (R51, R53). -/
def State.decoded (s : State) (g : Nat) (w : Word) : Fetched :=
  let s := s.updCore g fun c => { c with stage := wordStage w }
  match decodeWord w with
  | .error n => .pass (s.raise g none { cause := cILLOP, sub := n })
  | .ok i => if i.engine.isSome then .run (.engineEnqueue w) s else .run i s

/-- A turn of core `g`'s scalar pipe. A system call in progress goes on before anything else: only the next word can meet the
phase limit or a fault (R24, R350). -/
def State.scalarFetch (s : State) (g : Nat) : Fetched :=
  let s := { s with me := g, clus := clusOf g, arg := .none }
  let c := s.core g
  if !c.running || c.stopped || c.halted then .pass s
  else if c.inSysc then
    match c.wait with
    | some (.sysc i) => .run i s
    | _ => .pass s
  else if c.pend.isSome then .pass (s.tryDeliver g)
  else if s.overtime c then .pass (s.phaseTrap g)
  else if c.wait.isSome then
    match c.wait with
    | some (.join tag _) => .run (.join tag) s
    | _ => .pass s
  else if c.inh && s.cancelledAt g then .pass (s.endPart g)
  else if !codeOk c.pc then .pass (s.raise g none { cause := cPCRANGE, addr := c.pc.toNat })
  else
    match s.takeWord g with
    | (none, s) => .pass s
    | (some w, s) => if s.wordUnc g then .pass (s.raise g none { cause := cMEMUNC, addr := c.pc.toNat }) else s.decoded g w

end Sys2Proof.Machine
end

