-- ==== Sys2Proof/Machine/Control.lean ====
section
/-!
DEFINITION. Control transfers, hardware loops, attachment and the Quadrille (01_machine.md R24, R25, R29;
04_scalar_control.md R109 to R124; 09_progress_scheduling.md R269 to R273).
-/

namespace Sys2Proof.Machine

/-! ## Stop requests (R272) -/

/-- Something is about to interrupt the waits of core `g`: a request, a token, the phase limit (08_sync_async.md R243). -/
def State.interrupted (s : State) (g : Nat) : Bool :=
  (match s.taskOf g with
   | some t => t.preReq || t.haltReq
   | none => false) || s.cancelledAt g || s.overtime (s.core g)

/-- The Quadrille goes on after a stop that was withdrawn or resumed. -/
def Quad.unstop (q : Quad) : Quad := if q.run = .stopped then { q with run := .running } else q

/-- A core of the set enters its epilogue or ends: a pre-emption request is withdrawn, a halt waits for each core's next EXIT,
and cores that had stopped go on (R272). -/
def State.withdraw (s : State) (tn : Nat) : State :=
  match s.tasks.find tn with
  | none => s
  | some t =>
    if (t.preReq || t.haltReq) && !t.saving then
      let s := s.updTask tn fun x => { x with preReq := false }
      let s := t.cores.foldl (fun s g => s.updCore g fun c => { c with stopped := false }) s
      if t.size = 16 then s.updCluster t.clus fun x => { x with quad := x.quad.unstop } else s
    else s

/-- The part of core `g` ends other than by a fatal fault, and with it any pre-emption request of its task. -/
def State.endCore (s : State) (g : Nat) : State :=
  let tn := (s.core g).task
  let s := match tn with
    | some t => s.withdraw t
    | none => s
  s.endPart g

/-- A requested halt: the report of R348 with cause 0. -/
def State.haltNow (s : State) (g : Nat) : State :=
  let s := s.settleCore g
  let rep := s.report g (s.core g).pc (s.core g).pc { cause := 0 }
  s.updCore g fun c => { c with halted := true, stopped := false, haltRep := rep, haltStart := s.cycle }

/-- Whether a stop of core `g` may take effect: it stands at its stop point with its engine queues empty, or is halted or has ended. -/
def Core.stopReady (c : Core) : Bool := (c.stopped && c.drained) || c.halted || !c.running

/-- Once every core of the set has stopped, halted or ended, a pending halt takes effect on the stopped ones (R272, R359). -/
def State.settleHalt (s : State) (tn : Nat) : State :=
  match s.tasks.find tn with
  | none => s
  | some t =>
    if t.haltReq && !t.saving && t.cores.all (fun g => (s.core g).stopReady) then
      t.cores.foldl (fun s g => if (s.core g).stopped then s.haltNow g else s) s
    else s

/-- Core `g` stops after the LEND at `pc`: a STOP record, then the halt if it was the last. -/
def State.stopCore (s : State) (g : Nat) (pc : Word) : State :=
  match (s.core g).task, s.taskOf g with
  | some tn, some t =>
    let s := s.updCore g fun c => { c with stopped := true, drainSince := some s.cycle }
    let s := s.traceCore g evSTOP (if t.haltReq then 1 else 0) pc
    s.settleHalt tn
  | _, _ => s

/-- Whether the instance of a task is cancelled. -/
def State.taskLost (s : State) (t : Task) : Bool := (s.insts.find t.inst).elim true (·.cancelled.isSome)

/-- A core of the set has entered its epilogue or ended; one that a fatal fault ended does not count (R362). -/
def State.pastKernel (s : State) (t : Task) : Bool :=
  t.cores.any fun g => (s.core g).phase = .epilogue || ((s.core g).phase = .ended && !s.taskLost t)

/-- Whether a request of the task takes effect at a stop point (R272). -/
def State.stopsAt (s : State) (t : Task) : Bool := (t.preReq || t.haltReq) && t.trip != 0 && !s.pastKernel t

/-- Whether a fatal fault has ended a core of a set whose other cores have still to stop for a request: they stop before the cancel token
ends them (12_recovery.md R362). -/
def State.stopsFirst (s : State) (t : Task) : Bool :=
  s.stopsAt t && (s.insts.find t.inst).elim false (·.cancelled.any (· < 128)) && t.cores.any fun g => (s.core g).phase = .ended

/-- Whether core `g`, executing a kernel-phase LEND of l0, stands at its stop point (R272). -/
def State.atStop (s : State) (g : Nat) : Bool :=
  match s.taskOf g with
  | none => false
  | some t =>
    s.stopsAt t &&
    if (s.core g).att then
      let q := (s.cluster (clusOf g)).quad
      q.run = .stopped && (s.core g).qpos + 1 = q.head
    else true

/-! ## Phases (R24, R123) -/

/-- The loop state at kernel entry: l0 armed with the trip count and stages of the record (R24, R25). -/
def kernelLoops (l : LoopState) (t : Task) : LoopState :=
  { (l.set 0 ⟨true, t.trip, 0, t.kern, false, t.nst != 0, false⟩) with sp := 1, nst := t.nst }

def Core.enterKernel (c : Core) (t : Task) : Core :=
  { c.goto t.kern with phase := .kernel, loops := kernelLoops c.loops t, phaseDue := false }

def Core.enterEpilogue (c : Core) (t : Task) (now : Nat) : Core :=
  { c.goto t.epi with phase := .epilogue, phaseStart := now, phaseDue := false, loops := { c.loops with sp := 0 } }

/-- What follows the kernel phase: the epilogue, or the end of the part. -/
def State.afterKernel (s : State) (g : Nat) : State :=
  match (s.core g).task, s.taskOf g with
  | some tn, some t =>
    if t.epi = 0 then s.endCore g
    else (s.withdraw tn).updCore g (·.enterEpilogue t s.cycle)
  | _, _ => s

/-! ## Transfers (R109, R114) -/

/-- The window entry an attached core stands at. -/
def State.entryOf (s : State) (g : Nat) : Option WinEntry :=
  let q := (s.cluster (clusOf g)).quad
  let p := (s.core g).qpos
  if p < q.base then none else q.win[p - q.base]?

def Quad.setEntry (q : Quad) (p : Nat) (e : WinEntry) : Quad := { q with win := q.win.set (p - q.base) e }

/-- The leader has executed the pausing word at window place `p`: the reference is set and decoding goes on there (R269). -/
def Quad.resolve (q : Quad) (p : Nat) (next : Word) (trip : BitVec 32) (loops : LoopState → LoopState) : Quad :=
  match q.win[p - q.base]? with
  | none => q
  | some e =>
    { (q.setEntry p { e with ref := some next, trip := trip }) with
      dpc := next, run := if q.run = .paused then .running else q.run, loops := loops q.loops }

/-- A pausing word: `target` is where the core goes, none for sequential flow, which ends outside the code window only after the
word (R109); `trip` is its trip count at LOOP and PLOOP, `eff` the word's effect, `copy` what the Quadrille does to its own loop
state (R114, R269). -/
def State.transfer (s : State) (target : Option Word) (trip : BitVec 32) (eff : Core → Core) (copy : LoopState → LoopState) : Out :=
  let g := s.me
  let c := s.myCore
  let next := target.getD (c.pc + 8)
  if target.any (!codeOk ·) then s.trap { cause := cPCRANGE, addr := next.toNat }
  else if !c.att then .next (s.updMe fun c => (eff c).goto next)
  else
    match s.entryOf g with
    | none => .next s
    | some e =>
      match e.ref with
      | none =>
        if s.leader (clusOf g) = some g then
          let s := s.updCluster (clusOf g) fun x => { x with quad := x.quad.resolve c.qpos next trip copy }
          .next (s.updMe fun c => (eff c).goto next)
        else .next s
      | some r =>
        if r = next && e.trip = trip then .next (s.updMe fun c => (eff c).goto next)
        else .next ((s.detach g).updMe fun c => (eff c).goto next)

/-- Target of a direct transfer: pc + 8 × offset (R110). -/
def branchTarget (pc : Word) (off : BitVec 32) : Word := pc + (off.signExtend 64 <<< 3)

/-- A transfer that every attached core takes alike: BR and CALL (R114). -/
def plainJump (rs : List (BitVec 6)) (off : BitVec 32) (eff : Core → Core) (s : State) : Out :=
  let c := s.myCore
  if !c.ready rs [] then .next s
  else
    let t := branchTarget c.pc off
    if !codeOk t then s.trap { cause := cPCRANGE, addr := t.toNat }
    else .next (s.updMe fun c => (eff c).goto t)

/-- A pausing word that goes where `f` says, once its registers are final. -/
def pausing (rs : List (BitVec 6)) (ks : List (BitVec 3)) (f : Core → Option Word) (eff : Core → Core) (s : State) : Out :=
  let c := s.myCore
  if !c.ready rs ks then .next s else s.transfer (f c) 0 eff id

/-- s62 takes the return address. -/
def Core.link (c : Core) : Core := c.setReg 62 (c.pc + 8)

def execBr (off : BitVec 32) (s : State) : Out := plainJump [] off id s

def execBc (k : BitVec 3) (neg : Bool) (off : BitVec 32) (s : State) : Out :=
  pausing [] [k] (fun c => if c.creg k != neg then some (branchTarget c.pc off) else none) id s

def execJmpr (a : BitVec 6) (s : State) : Out := pausing [a] [] (fun c => some (c.reg a)) id s

def execCall (off : BitVec 32) (s : State) : Out := plainJump [62] off Core.link s

def execCallr (a : BitVec 6) (s : State) : Out := pausing [a, 62] [] (fun c => some (c.reg a)) Core.link s

def execRet (s : State) : Out := pausing [62] [] (fun c => some (c.reg 62)) id s

/-- The top of the mask stack, m0 (05_vector.md R138). -/
def Core.m0 (c : Core) : MaskData := c.mstack.headD maskOnes

/-- UBZ and UBNZ (R112): they wait until every older entry of AQ has retired. Entries that stand in AQ at handler entry are older
than the handler's words, so a handler's UBZ or UBNZ waits for them too (assumption 56). -/
def maskBranch (neg : Bool) (off : BitVec 32) (s : State) : Out :=
  let e := s.myCore.getEng .arith
  if e.queue != [] || e.inflight != [] then .next s
  else pausing [] [] (fun c => if (c.m0 = 0) != neg then some (branchTarget c.pc off) else none) id s

def execUbz (off : BitVec 32) (s : State) : Out := maskBranch false off s
def execUbnz (off : BitVec 32) (s : State) : Out := maskBranch true off s

/-! ## Hardware loops (R115 to R118) -/

/-- The nesting of R115 for LOOP and PLOOP on level `v`. -/
def LoopState.nestOk (l : LoopState) (v : Nat) : Bool :=
  (if v = 0 then l.inner.isNone else (l.get (v - 1)).active) &&
  ((upFrom v (6 - v)).all fun u => !(l.get u).active) && l.pipe.isNone

/-- Open level `v` (R116). -/
def LoopState.openLevel (l : LoopState) (v : Nat) (n : BitVec 32) (body : Word) (pipe : Option (BitVec 3)) : LoopState :=
  let x : LoopLv := ⟨true, n, 0, body, false, pipe.isSome, true⟩
  match pipe with
  | some nst => { (l.set v x) with sp := 1, nst := nst }
  | none => l.set v x

/-- LEND on the innermost level `v` (R117): the state after it, and whether the loop goes on. -/
def LoopState.lend (l : LoopState) (v : Nat) : LoopState × Bool :=
  let x := l.get v
  let more := lendMore x l.sp l.nst
  let b := x.k + 1 < x.trip.toNat && !x.brk
  let sp : BitVec 8 := if x.pipelined then BitVec.ofNat 8 ((2 * l.sp.toNat + bit b) % 2 ^ (l.nst.toNat + 1)) else l.sp
  if more then ({ (l.set v { x with k := x.k + 1 }) with sp := sp }, true)
  else
    let l := l.set v .reset
    ((if x.pipelined && x.opened then { l with sp := 1, nst := 0 } else l), false)

/-- LBRK on a level that ends at once: levels `v` and above go inactive (R118). -/
def LoopState.lbrk (l : LoopState) (v : Nat) : LoopState :=
  let pl := (upFrom v (6 - v)).any fun u => (l.get u).active && (l.get u).pipelined
  let l := (upFrom v (6 - v)).foldl (fun l u => l.set u .reset) l
  if pl then { l with sp := 1, nst := 0 } else l

/-- LBRK on a pipelined level or the kernel-phase l0: the break bit. -/
def LoopState.setBrk (l : LoopState) (v : Nat) : LoopState := l.set v { l.get v with brk := true }

def loopFault (s : State) : Out := s.trap { cause := cLOOPNEST }

/-- LOOP and PLOOP (R116). -/
def openLoop (v : Nat) (a : BitVec 6) (pipe : Option (BitVec 3)) (off : BitVec 32) (s : State) : Out :=
  let c := s.myCore
  if !c.ready [a] [] then .next s
  else if c.inh || !c.loops.nestOk v then loopFault s
  else
    let n := (c.reg a).setWidth 32
    if n = 0 then s.transfer (some (branchTarget c.pc off + 8)) n id id
    else
      let f := fun (l : LoopState) => l.openLevel v n (c.pc + 8) pipe
      s.transfer none n (fun c => { c with loops := f c.loops }) f

def execLoop (lv : BitVec 3) (a : BitVec 6) (off : BitVec 32) (s : State) : Out := openLoop lv.toNat a none off s

/-- PLOOP is legal only in the kernel phase of a task with one stage, on l1 to l5 (R115). -/
def execPloop (lv : BitVec 3) (a : BitVec 6) (nst : BitVec 3) (off : BitVec 32) (s : State) : Out :=
  let c := s.myCore
  if c.phase = .kernel && lv != 0 then openLoop lv.toNat a (some nst) off s
  else if !c.ready [a] [] then .next s
  else loopFault s

/-- An attached core compares its next address at LEND or LBRK with the Quadrille's copy, and detaches after the word when
they differ (R114). -/
def State.compare (s : State) (next : Word) : State :=
  match s.myCore.att, s.entryOf s.me with
  | true, some e => if e.ref = some next then s else s.detach s.me
  | _, _ => s

/-- A core that has stopped in a set whose instance is cancelled ends its part, unless a halt is still to take effect on it
(12_recovery.md R362). -/
def State.stoppedEnds (s : State) (g : Nat) : State :=
  match s.taskOf g with
  | some t => if t.haltReq && s.stopsFirst t then s else s.endCore g
  | none => s

/-- The kernel-phase LEND of l0: mode adoption (11_isolation.md R346), the phase's end, cancellation and stop points. -/
def State.kernelLend (s : State) (l : LoopState) (more : Bool) (target : Word) : State :=
  let g := s.me
  let pc := s.myCore.pc
  let s := s.updCluster (clusOf g) fun x => { x with mode := s.powerReq }
  let epi := (s.taskOf g).elim 0 (·.epi)
  let next := if more then target else epi
  let stop := s.atStop g
  let first := more && (s.taskOf g).elim false s.stopsFirst
  let s := s.compare next
  let s := s.updMe fun c => { c with loops := if more then l else { l with sp := 0, nst := 0 } }
  if s.cancelledAt g && !first then s.endCore g
  else if !more then s.afterKernel g
  else
    let s := s.updMe (·.goto target)
    if !stop then s
    else
      let s := s.stopCore g pc
      if s.cancelledAt g && !(s.core g).halted then s.stoppedEnds g else s

def execLend (lv : BitVec 3) (off : BitVec 32) (s : State) : Out :=
  let c := s.myCore
  let v := lv.toNat
  if c.inh || c.loops.inner != some v then loopFault s
  else
    let (l, more) := c.loops.lend v
    let target := branchTarget c.pc off
    if more && !codeOk target then s.trap { cause := cPCRANGE, addr := target.toNat }
    else if c.phase = .kernel && v = 0 then .next (s.kernelLend l more target)
    else
      let next := if more then target else c.pc + 8
      .next ((s.compare next).updMe fun c => ({ c with loops := l } : Core).goto next)

def execLbrk (lv : BitVec 3) (off : BitVec 32) (s : State) : Out :=
  let c := s.myCore
  let v := lv.toNat
  if c.inh || !(c.loops.get v).active then loopFault s
  else if (c.loops.get v).pipelined || (c.phase = .kernel && v = 0) then
    .next ((s.compare (c.pc + 8)).updMe fun c => ({ c with loops := c.loops.setBrk v } : Core).advance)
  else
    let target := branchTarget c.pc off
    if !codeOk target then s.trap { cause := cPCRANGE, addr := target.toNat }
    else .next ((s.compare target).updMe fun c => ({ c with loops := c.loops.lbrk v } : Core).goto target)

/-! ## JOIN, DETQ, EXIT, NOP (R120 to R124) -/

/-- The JOIN word with a tag (R120). -/
def joinWord (tag : BitVec 32) : Word := encode (.join tag)

/-- The JOIN completes with `ok` in c1. -/
def State.joinDone (s : State) (tag : BitVec 32) (ok : Bool) : State :=
  let s := s.traceCore s.me evJOIN (tag.setWidth 64) (if ok then 1 else 0)
  s.updMe fun c => { (c.setCreg 1 ok).advance with wait := none }

/-- Attach after window place `p`. -/
def State.attachAfter (s : State) (g p : Nat) : State := s.updCore g fun c => { c with att := true, qpos := p }

/-- Restart the idle Quadrille at the JOIN word at `pc` (R120); its own copy of the loop state and the phase is the restarting core's
(assumption 71). -/
def restartQuad (pc : Word) (w : Word) (c : Core) : Quad :=
  { run := .running, dpc := pc + 8, base := 0, win := [⟨pc, w, false, none, 0⟩], hist := [], loops := c.loops, phase := c.phase }

def execJoin (tag : BitVec 32) (s : State) : Out :=
  let g := s.me
  let c := s.myCore
  let k := clusOf g
  if !c.ready [] [1] then .next s
  else if c.inh || !s.inSixteen g then .next (s.joinDone tag false)
  else if c.att then .next (s.joinDone tag true)
  else
    let deadline := match c.wait with
      | some (.join _ d) => d
      | _ => s.cycle + c.joinTimeout.toNat
    let q := (s.cluster k).quad
    if q.run = .idle then
      let s := s.updCluster k fun x => { x with quad := restartQuad c.pc (joinWord tag) c }
      .next ((s.attachAfter g 0).joinDone tag true)
    else
      match q.win.findIdx? (fun e => e.pc = c.pc && e.word = joinWord tag) with
      | some i => .next ((s.attachAfter g (q.base + i)).joinDone tag true)
      | none =>
        if q.hist.contains (c.pc, tag) || deadline ≤ s.cycle then .next (s.joinDone tag false)
        else .next (s.updMe fun c => { c with wait := some (.join tag deadline) })

/-- JOIN_TIMEOUT: a core whose JOIN waits past its deadline looks once more for the Quadrille and the window, and returns with c1
false when neither serves it (R120, R121). -/
def execJoinTimeout (s : State) : Out :=
  match s.arg with
  | .unit g =>
    match (s.core g).wait with
    | some (.join tag d) => if d ≤ s.cycle then execJoin tag { s with me := g } else .next s
    | _ => .next s
  | _ => .next s

def execDetq (d : BitVec 6) (s : State) : Out :=
  if !s.myCore.ready [d] [] then .next s else .next (s.updMe fun c => (c.setReg d (detqWord s s.me)).advance)

/-- Whether a debug halt takes effect at the EXIT itself (R272: halts without a stop point). It waits there until the engine queues have
drained, so that no load overwrites what the session writes (12_recovery.md R359; assumption 47). -/
def State.haltAtExit (s : State) (g : Nat) : Bool :=
  match s.taskOf g with
  | none => false
  | some t => t.haltReq && (t.trip = 0 || s.pastKernel t)

def execExit (s : State) : Out :=
  let g := s.me
  let c := s.myCore
  if c.inh then s.trap { cause := cHEXIT }
  else if c.phase = .kernel then s.trap { cause := cKERNEXIT }
  else if c.loops.inner.isSome then loopFault s
  else if s.haltAtExit g then (if c.drained then .next (s.haltNow g) else .next s)
  else if s.cancelledAt g then .next (s.endCore g)
  else
    match s.taskOf g with
    | none => .next s
    | some t =>
      if c.phase = .prologue && t.trip != 0 then .next (s.updMe (·.enterKernel t))
      else if c.phase = .prologue then .next (s.afterKernel g)
      else .next (s.endCore g)

def execNop (s : State) : Out := s.done

/-! ## The Quadrille (R269) -/

/-- Drop the oldest entries beyond 128; the JOIN words among them enter the history of eight (R120). -/
def Quad.push (q : Quad) (e : WinEntry) : Quad :=
  let win := q.win ++ [e]
  if win.length ≤ 128 then { q with win := win }
  else
    match win with
    | [] => q
    | o :: rest =>
      let h := if fld o.word 56 8 = 0x3C then q.hist ++ [(o.pc, o.word.setWidth 32)] else q.hist
      { q with win := rest, base := q.base + 1, hist := h.drop (h.length - 8) }

/-- The Quadrille's own LEND (R117 applied to its copy): the copy after it, the next address, 0 at the end of the part. One of a level
that is not its innermost leaves the copy as it is, and decoding goes on behind it (assumption 78). -/
def quadLend (q : Quad) (t : Task) (v : Nat) (off : BitVec 32) : Quad :=
  if q.loops.inner != some v then { q with dpc := q.dpc + 8 }
  else
    let (l, more) := q.loops.lend v
    if more then { q with loops := l, dpc := branchTarget q.dpc off }
    else if q.phase = .kernel && v = 0 then { q with loops := { l with sp := 0, nst := 0 }, dpc := t.epi, phase := .epilogue }
    else { q with loops := l, dpc := q.dpc + 8 }

/-- The Quadrille's own LBRK (R118). One of a level that its copy does not hold active changes nothing (assumption 78). -/
def quadLbrk (q : Quad) (v : Nat) (off : BitVec 32) : Quad :=
  if !(q.loops.get v).active then { q with dpc := q.dpc + 8 }
  else if (q.loops.get v).pipelined || (q.phase = .kernel && v = 0) then { q with loops := q.loops.setBrk v, dpc := q.dpc + 8 }
  else { q with loops := q.loops.lbrk v, dpc := branchTarget q.dpc off }

/-- What decoding EXIT leads to, from the loop record (R123, R269). -/
def quadExit (q : Quad) (t : Task) : Quad :=
  if q.phase = .prologue && t.trip != 0 then { q with dpc := t.kern, phase := .kernel, loops := kernelLoops q.loops t }
  else if q.phase = .prologue && t.epi != 0 then { q with dpc := t.epi, phase := .epilogue }
  else { q with dpc := 0, run := .stopped }

/-- One word decoded into the window of the task's Quadrille. With a stop pending (`stops`) it stops at a kernel-phase LEND of l0
that continues the kernel; the last one leads to the epilogue, where no request stops a core (R272). -/
def Quad.decodeOne (q : Quad) (t : Task) (stops : Bool) (w : Word) : Quad :=
  let pc := q.dpc
  let entry (q' : Quad) (ref : Option Word) : Quad := q'.push ⟨pc, w, false, ref, 0⟩
  match decodeWord w with
  | .ok (.br off) => entry { q with dpc := branchTarget pc off } none
  | .ok (.call off) => entry { q with dpc := branchTarget pc off } none
  | .ok (.bc ..) | .ok (.ubz ..) | .ok (.ubnz ..) | .ok (.jmpr ..) | .ok (.callr ..) | .ok .ret
  | .ok (.loop ..) | .ok (.ploop ..) => entry { q with run := .paused } none
  | .ok (.lend v off) =>
    let q' := quadLend q t v.toNat off
    let stop := v = 0 && q.phase = .kernel && q'.phase = .kernel && stops
    entry (if stop || q'.dpc = 0 then { q' with run := .stopped } else q') (some q'.dpc)
  | .ok (.lbrk v off) => let q' := quadLbrk q v.toNat off; entry q' (some q'.dpc)
  | .ok .exit => entry (quadExit q t) none
  | _ => entry { q with dpc := pc + 8 } none

/-- The task whose cores the Quadrille of cluster `k` serves. -/
def State.quadTask (s : State) (k : Nat) : Option Task := (s.leader k).bind s.taskOf

/-- The newest entry of the window was read with an uncorrectable error (12_recovery.md R354). -/
def Quad.markUnc (q : Quad) : Quad := { q with win := q.win.modify (q.win.length - 1) fun e => { e with unc := true } }

/-- QUADRILLE_DECODE: the Quadrille of a cluster decodes one word, unless it is idle, paused, stopped or stalled. -/
def execQuadrilleDecode (s : State) : Out :=
  match s.arg with
  | .unit k =>
    let q := (s.cluster k).quad
    match s.quadTask k with
    | none => .next s
    | some t =>
      if q.run = .running && codeOk q.dpc && !s.quadStalled k then
        let loc := clusLoc k + (q.dpc.toNat - ownClus)
        let q' := q.decodeOne t (s.stopsAt t) (bytesWord (s.homeBytes loc 8))
        .next (s.updCluster k fun x => { x with quad := if s.unc loc 8 then q'.markUnc else q' })
      else .next s
  | _ => .next s

/-- LINE_REFILL: a requested line arrives from cluster scratch (R113). The line is the one named, or the oldest requested. -/
def execLineRefill (s : State) : Out :=
  let place (g l : Nat) : State :=
    let loc := clusLoc (clusOf g) + 64 * l
    s.updCore g fun c => (c.placeLine l (granOf (s.homeBytes loc 64))).markLine l (s.unc loc 64)
  match s.arg with
  | .unit g =>
    match (s.core g).refills with
    | [] => .next s
    | l :: _ => .next (place g l)
  | .pair g l => if (s.core g).refills.contains l then .next (place g l) else .next s
  | _ => .next s

end Sys2Proof.Machine
end

