-- ==== Sys2Proof/Machine/Flags.lean ====
section
/-!
DEFINITION. FP_STATUS: the flags an operation raises and where they are recorded (03_numbers.md R82), and the comparison
results of the integer conditions (02_encoding.md R48; 04_scalar_control.md R101).
-/

namespace Sys2Proof.Machine

/-- A set of raised flags, in the bits of FP_STATUS. -/
abbrev FFlags := BitVec 8

def fNV : FFlags := 0x01
def fDZ : FFlags := 0x02
def fOF : FFlags := 0x04
def fUF : FFlags := 0x08
def fNX : FFlags := 0x10
def fRANGE : FFlags := 0x20
def fSAT : FFlags := 0x40
def fFLUSH : FFlags := 0x80

/-- Raise a flag when a condition holds. -/
def raiseIf (b : Bool) (f : FFlags) : FFlags := if b then f else 0

/-- Flags are sticky (R82). -/
def Core.orFlags (c : Core) (f : FFlags) : Core := { c with fpstat := c.fpstat ||| f }

/-- An integer comparison under a condition (R48): lt to ge signed, ltn and gen unsigned. -/
def condHolds (k : Cond) (a b : Word) : Bool :=
  match k with
  | .eq => a = b
  | .ne => a != b
  | .lt => a.toInt < b.toInt
  | .le => a.toInt ≤ b.toInt
  | .gt => b.toInt < a.toInt
  | .ge => b.toInt ≤ a.toInt
  | .ltn => a.toNat < b.toNat
  | .gen => b.toNat ≤ a.toNat

end Sys2Proof.Machine
end

