-- ==== Sys2Proof/Machine/Float.lean ====
section
/-!
DEFINITION. Floating-point numbers: formats, exact values, the one rounding, and the operations of 03_numbers.md R64 to
R78, R84 and of 04_scalar_control.md R103 to R108. Every finite value is an integer times a power of two, and every result is
the exact value rounded once.
-/

namespace Sys2Proof.Machine

/-! ## Formats (R64, R65) -/

/-- What the all-ones exponent encodes: infinities and NaNs; E4M3's two NaNs; nothing special. -/
inductive FKind where
  | ieee | e4m3 | plain
  deriving DecidableEq, Repr, Inhabited

/-- A format: exponent and significand widths, bias, and its special encodings. -/
structure Fmt where
  ew : Nat
  mw : Nat
  bias : Nat
  kind : FKind
  deriving DecidableEq, Repr, Inhabited

def fmtF32 : Fmt := ⟨8, 23, 127, .ieee⟩
def fmtBf16 : Fmt := ⟨8, 7, 127, .ieee⟩
def fmtF16 : Fmt := ⟨5, 10, 15, .ieee⟩
def fmtE4M3 : Fmt := ⟨4, 3, 7, .e4m3⟩
def fmtE5M2 : Fmt := ⟨5, 2, 15, .ieee⟩
def fmtE2M1 : Fmt := ⟨2, 1, 1, .plain⟩
def fmtE3M2 : Fmt := ⟨3, 2, 3, .plain⟩
def fmtE2M3 : Fmt := ⟨2, 3, 1, .plain⟩

/-- The format of a floating type; a type that names none takes FP32's. -/
def fmtOf : Ty → Fmt
  | .f32 => fmtF32 | .bf16 => fmtBf16 | .f16 => fmtF16 | .f8a => fmtE4M3 | .f8b => fmtE5M2
  | .f6a => fmtE3M2 | .f6b => fmtE2M3 | .mx4 => fmtE2M1
  | .i8 | .i16 | .i32 | .i64 | .n8 | .n16 | .n32 | .n64 => fmtF32

def Fmt.width (f : Fmt) : Nat := 1 + f.ew + f.mw

/-- Exponent of the smallest normal number. -/
def Fmt.emin (f : Fmt) : Int := 1 - f.bias

/-- Code of the largest finite magnitude. -/
def Fmt.maxCode (f : Fmt) : Nat :=
  match f.kind with
  | .ieee => (2 ^ f.ew - 1) * 2 ^ f.mw - 1
  | .e4m3 => 2 ^ (f.ew + f.mw) - 2
  | .plain => 2 ^ (f.ew + f.mw) - 1

/-- Code of +∞, where the format has infinities. -/
def Fmt.infCode (f : Fmt) : Nat := (2 ^ f.ew - 1) * 2 ^ f.mw

/-- The canonical NaN (R65); the formats without NaNs give +0 (R72). -/
def Fmt.nan (f : Fmt) : Nat :=
  match f.kind with
  | .ieee => f.infCode + 2 ^ (f.mw - 1)
  | .e4m3 => 2 ^ (f.ew + f.mw) - 1
  | .plain => 0

/-- Bits with a sign. -/
def Fmt.signed (f : Fmt) (neg : Bool) (code : Nat) : Nat := code + bit neg * 2 ^ (f.ew + f.mw)

/-! ## Values -/

/-- A decoded value: a NaN, an infinity, or ± m × 2^e. -/
inductive FV where
  | nan (quiet : Bool)
  | inf (neg : Bool)
  | fin (neg : Bool) (m : Nat) (e : Int)
  deriving DecidableEq, Repr, Inhabited

/-- The value of an encoding (R64, R65). -/
def Fmt.decode (f : Fmt) (b : Nat) : FV :=
  let neg := bitsOf b (f.ew + f.mw) 1 = 1
  let e := bitsOf b f.mw f.ew
  let m := bitsOf b 0 f.mw
  let fin : FV := if e = 0 then .fin neg m (f.emin - f.mw) else .fin neg (m + 2 ^ f.mw) (e - f.bias - f.mw)
  match f.kind with
  | .ieee =>
    if e = 2 ^ f.ew - 1 then
      if m = 0 then .inf neg else .nan (2 ^ (f.mw - 1) ≤ m)
    else fin
  | .e4m3 => if bitsOf b 0 (f.ew + f.mw) = 2 ^ (f.ew + f.mw) - 1 then .nan true else fin
  | .plain => fin

def FV.isNan : FV → Bool
  | .nan _ => true
  | _ => false

def FV.isSnan : FV → Bool
  | .nan q => !q
  | _ => false

def FV.neg : FV → Bool
  | .nan _ => false
  | .inf n => n
  | .fin n _ _ => n

def FV.flip : FV → FV
  | .nan q => .nan q
  | .inf n => .inf (!n)
  | .fin n m e => .fin (!n) m e

def FV.isZero : FV → Bool
  | .fin _ m _ => m = 0
  | _ => false

/-- Whether the bits of a float type are a NaN. -/
def isNanBits (t : Ty) (b : Nat) : Bool := ((fmtOf t).decode b).isNan

/-- Number of bits of a magnitude: 0 for 0. -/
def bitLen (n : Nat) : Nat := if n = 0 then 0 else Nat.log2 n + 1

/-- `m × 2^e < 2^k` for a nonzero m. -/
def belowPow (m : Nat) (e k : Int) : Bool := (bitLen m : Int) + e ≤ k

/-! ## The one rounding (R72 to R74, R77, R78) -/

/-- Result bits and raised flags. -/
abbrev FR := Nat × FFlags

/-- An exact magnitude between `m × 2^e` and the next multiple, above it when `sticky`, rounded to a multiple of 2^q: the
multiple and whether it is inexact. `draw` is the generator's value under rsto. -/
def roundAt (rm : Rm) (draw : Nat) (neg : Bool) (m : Nat) (e : Int) (sticky : Bool) (q : Int) : Nat × Bool :=
  if q ≤ e && !sticky then (m * 2 ^ (e - q).toNat, false)
  else
    -- two further bits below the unit keep the comparison with a half and the sticky bit apart
    let d := (q - e).toNat
    let m2 := if q < e then m * 2 ^ (e - q).toNat else m
    let lo := m2 / 2 ^ d
    let r := m2 % 2 ^ d
    let inexact := r != 0 || sticky
    let up := match rm with
      | .rne => 2 * r > 2 ^ d || (2 * r = 2 ^ d && (sticky || lo % 2 = 1))
      | .rtz => false
      | .rup => inexact && !neg
      | .rdn => inexact && neg
      | .rsto => r * 2 ^ 24 / 2 ^ d > draw
    (lo + bit up, inexact)

/-- What an overflow delivers (R73). -/
def Fmt.overflow (f : Fmt) (rm : Rm) (neg : Bool) : Nat :=
  if f.kind = .ieee then
    match rm with
    | .rne | .rsto => f.signed neg f.infCode
    | .rtz => f.signed neg f.maxCode
    | .rup => if neg then f.signed neg f.maxCode else f.signed neg f.infCode
    | .rdn => if neg then f.signed neg f.infCode else f.signed neg f.maxCode
  else f.signed neg f.maxCode

/-- Largest finite magnitude as m × 2^e. -/
def Fmt.maxMag (f : Fmt) : Nat × Int :=
  match f.decode f.maxCode with
  | .fin _ m e => (m, e)
  | _ => (0, 0)

/-- `a × 2^x > b × 2^y`. -/
def magGt (a : Nat) (x : Int) (b : Nat) (y : Int) : Bool :=
  if x ≤ y then a > b * 2 ^ (y - x).toNat else a * 2 ^ (x - y).toNat > b

/-- Round an exact finite value to a format: bits and flags (R72 to R74, R78), with the result flush of R84 under `ftz`. -/
def Fmt.round (f : Fmt) (rm : Rm) (draw : Nat) (ftz : Bool) (neg : Bool) (m : Nat) (e : Int) (sticky : Bool) : FR :=
  if m = 0 then (f.signed neg 0, 0)
  else
    let top : Int := (bitLen m : Int) + e - 1
    let qn := top - f.mw
    let qs := f.emin - f.mw
    let q := max qn qs
    let r := roundAt rm draw neg m e sticky q
    let rn := roundAt rm draw neg m e sticky qn
    let mx := f.maxMag
    let ovf := if rm = .rsto then magGt m e mx.1 mx.2 || (sticky && !magGt mx.1 mx.2 m e) else magGt rn.1 qn mx.1 mx.2
    if ovf then (f.overflow rm neg, fOF ||| fNX)
    else
      let tiny := rn.1 != 0 && belowPow rn.1 qn f.emin
      let flags := raiseIf r.2 fNX ||| raiseIf (r.2 && tiny) fUF
      let carry := r.1 = 2 ^ (f.mw + 1)
      let mant := if carry then 2 ^ f.mw else r.1
      let q := if carry then q + 1 else q
      if mant < 2 ^ f.mw then
        if ftz && mant != 0 then (f.signed neg 0, flags ||| fUF ||| fNX ||| fFLUSH)
        else (f.signed neg mant, flags)
      else (f.signed neg ((q + f.mw + f.bias).toNat * 2 ^ f.mw + (mant - 2 ^ f.mw)), flags)

/-- The canonical NaN of a format, and NV when the operation is invalid or an operand signalled; the formats without NaNs give
+0 and raise NV (R71, R72). -/
def Fmt.nanRes (f : Fmt) (nv : Bool) : FR := (f.nan, raiseIf (nv || f.kind = .plain) fNV)

/-- ±∞, or ± the maximum with OF and NX where there are no infinities (R72). -/
def Fmt.infRes (f : Fmt) (neg : Bool) : FR :=
  if f.kind = .ieee then (f.signed neg f.infCode, 0) else (f.signed neg f.maxCode, fOF ||| fNX)

/-- Deliver a value in a format under a mode. -/
def Fmt.deliver (f : Fmt) (rm : Rm) (draw : Nat) (ftz : Bool) : FV → FR
  | .nan q => f.nanRes (!q)
  | .inf n => f.infRes n
  | .fin n m e => f.round rm draw ftz n m e false

/-! ## Flushing of inputs (R84) -/

/-- An FP32 subnormal input counts as a zero of its sign, and sets FLUSH. -/
def flushIn (ftz : Bool) (v : FV) : FV × FFlags :=
  match v with
  | .fin n m e => if ftz && m != 0 && belowPow m e (-126) then (.fin n 0 0, fFLUSH) else (v, 0)
  | _ => (v, 0)

/-! ## Exact arithmetic -/

/-- A finite value as a signed integer times 2^e. -/
structure Dy where
  n : Int
  e : Int
  deriving DecidableEq, Repr, Inhabited

def dyOf (neg : Bool) (m : Nat) (e : Int) : Dy := ⟨if neg then -(m : Int) else m, e⟩

def Dy.add (a b : Dy) : Dy :=
  if a.n = 0 then b
  else if b.n = 0 then a
  else if a.e ≤ b.e then ⟨a.n + b.n * 2 ^ (b.e - a.e).toNat, a.e⟩
  else ⟨a.n * 2 ^ (a.e - b.e).toNat + b.n, b.e⟩

def Dy.mul (a b : Dy) : Dy := ⟨a.n * b.n, a.e + b.e⟩

def Dy.opp (a : Dy) : Dy := ⟨-a.n, a.e⟩

/-- Three-way comparison by the sign of the difference. -/
def Dy.lt (a b : Dy) : Bool := (a.add b.opp).n < 0

def Dy.le (a b : Dy) : Bool := (a.add b.opp).n ≤ 0

/-- The exact value of a finite FV. -/
def FV.dy : FV → Dy
  | .fin n m e => dyOf n m e
  | _ => ⟨0, 0⟩

/-- Sum of two values: the sign of an exact zero as R104 gives it for the mode. -/
def FV.add (rm : Rm) (a b : FV) : FV :=
  match a, b with
  | .nan _, _ => a
  | _, .nan _ => b
  | .inf x, .inf y => if x = y then a else .nan false
  | .inf _, .fin _ _ _ => a
  | .fin _ _ _, .inf _ => b
  | .fin na ma ea, .fin nb mb eb =>
    let s := (dyOf na ma ea).add (dyOf nb mb eb)
    if s.n = 0 then .fin (if na = nb then na else rm = .rdn) 0 0
    else .fin (s.n < 0) s.n.natAbs s.e

/-- Product of two values: an invalid product is a signalling NaN here, so that it raises NV. -/
def FV.mul (a b : FV) : FV :=
  match a, b with
  | .nan q, .nan q' => .nan (q && q')
  | .nan _, _ => a
  | _, .nan _ => b
  | .inf x, .inf y => .inf (x != y)
  | .inf x, .fin y m _ => if m = 0 then .nan false else .inf (x != y)
  | .fin x m _, .inf y => if m = 0 then .nan false else .inf (x != y)
  | .fin x m e, .fin y m' e' => .fin (x != y) (m * m') (e + e')

/-! ## Operations on bits -/

/-- Decode and flush the inputs: values and FLUSH. -/
def Fmt.input (f : Fmt) (ftz : Bool) (b : Nat) : FV × FFlags := flushIn ftz (f.decode b)

/-- a + b (R104, R131). -/
def fAdd (f : Fmt) (rm : Rm) (ftz : Bool) (a b : Nat) : FR :=
  let x := f.input ftz a
  let y := f.input ftz b
  if x.1.isNan || y.1.isNan then ((f.nanRes (x.1.isSnan || y.1.isSnan)).1, x.2 ||| y.2 ||| raiseIf (x.1.isSnan || y.1.isSnan) fNV)
  else
    let r := f.deliver rm 0 ftz (x.1.add rm y.1)
    (r.1, r.2 ||| x.2 ||| y.2)

/-- The bits with the sign turned over. -/
def Fmt.flipBits (f : Fmt) (b : Nat) : Nat := bitsOf b 0 (f.ew + f.mw) + (1 - bitsOf b (f.ew + f.mw) 1) * 2 ^ (f.ew + f.mw)

/-- a − b. -/
def fSub (f : Fmt) (rm : Rm) (ftz : Bool) (a b : Nat) : FR := fAdd f rm ftz a (f.flipBits b)

/-- a × b. -/
def fMul (f : Fmt) (rm : Rm) (ftz : Bool) (a b : Nat) : FR :=
  let x := f.input ftz a
  let y := f.input ftz b
  if x.1.isNan || y.1.isNan then (f.nan, x.2 ||| y.2 ||| raiseIf (x.1.isSnan || y.1.isSnan) fNV)
  else
    let r := f.deliver rm 0 ftz (x.1.mul y.1)
    (r.1, r.2 ||| x.2 ||| y.2)

/-- a × b + c, or −(a × b) + c with `minus`, rounded once (R77, R104). -/
def fFma (f : Fmt) (rm : Rm) (ftz minus : Bool) (a b c : Nat) : FR :=
  let x := f.input ftz a
  let y := f.input ftz b
  let z := f.input ftz c
  let p := x.1.mul y.1
  let fl := x.2 ||| y.2 ||| z.2
  if x.1.isSnan || y.1.isSnan || z.1.isSnan || p.isSnan then (f.nan, fl ||| fNV)
  else if x.1.isNan || y.1.isNan || z.1.isNan then (f.nan, fl)
  else
    let r := f.deliver rm 0 ftz ((if minus then p.flip else p).add rm z.1)
    (r.1, r.2 ||| fl)

/-- a ÷ b (R104). The quotient is taken to more bits than any format holds, with a sticky remainder. -/
def fDiv (f : Fmt) (rm : Rm) (ftz : Bool) (a b : Nat) : FR :=
  let x := f.input ftz a
  let y := f.input ftz b
  let fl := x.2 ||| y.2
  match x.1, y.1 with
  | .nan q, .nan q' => (f.nan, fl ||| raiseIf (!q || !q') fNV)
  | .nan q, _ => (f.nan, fl ||| raiseIf (!q) fNV)
  | _, .nan q => (f.nan, fl ||| raiseIf (!q) fNV)
  | .inf _, .inf _ => (f.nan, fl ||| fNV)
  | .inf s, .fin t _ _ => (f.signed (s != t) f.infCode, fl)
  | .fin s _ _, .inf t => (f.signed (s != t) 0, fl)
  | .fin s m e, .fin t n d =>
    if n = 0 then (if m = 0 then (f.nan, fl ||| fNV) else (f.signed (s != t) f.infCode, fl ||| fDZ))
    else
      let k := bitLen n + 32
      let num := m * 2 ^ k
      let r := f.round rm 0 ftz (s != t) (num / n) (e - d - k) (num % n != 0)
      (r.1, r.2 ||| fl)

/-- Integer square root by halving: the largest x with x² ≤ n, bit by bit from bit `k`. -/
def isqrtFrom (n : Nat) : Nat → Nat → Nat
  | 0, x => x
  | k + 1, x => let y := x + 2 ^ k; isqrtFrom n k (if y * y ≤ n then y else x)

def isqrt (n : Nat) : Nat := isqrtFrom n (bitLen n / 2 + 1) 0

/-- √a (R104, R146). -/
def fSqrt (f : Fmt) (rm : Rm) (ftz : Bool) (a : Nat) : FR :=
  let x := f.input ftz a
  match x.1 with
  | .nan q => (f.nan, x.2 ||| raiseIf (!q) fNV)
  | .inf s => if s then (f.nan, x.2 ||| fNV) else (f.infCode, x.2)
  | .fin s m e =>
    if m = 0 then (f.signed s 0, x.2)
    else if s then (f.nan, x.2 ||| fNV)
    else
      -- an even exponent with at least 64 bits below the leading one
      let k : Nat := if (e - 64) % 2 = 0 then 64 else 65
      let n := m * 2 ^ k
      let r := isqrt n
      let y := f.round rm 0 ftz false r ((e - k) / 2) (r * r != n)
      (y.1, y.2 ||| x.2)

/-- Key of R76: unsigned order of keys is the total order of values. -/
def keyOf (t : Ty) (b : Nat) : Nat :=
  let w := t.bits
  if t.isFloat then
    if isNanBits t b then 2 ^ w - 1
    else if b < 2 ^ (w - 1) then b + 2 ^ (w - 1)
    else 2 ^ w - 1 - b
  else if t.isSigned then (if b < 2 ^ (w - 1) then b + 2 ^ (w - 1) else b - 2 ^ (w - 1))
  else b

/-- minimumNumber and maximumNumber (R75). -/
def fMinMax (t : Ty) (mx : Bool) (a b : Nat) : FR :=
  let f := fmtOf t
  let x := f.decode a
  let y := f.decode b
  if x.isSnan || y.isSnan then (f.nan, fNV)
  else if x.isNan && y.isNan then (f.nan, 0)
  else if x.isNan then (b, 0)
  else if y.isNan then (a, 0)
  else if (keyOf t a ≤ keyOf t b) = mx then (b, 0) else (a, 0)

/-- Order of two numbers by exact value: −0 equals +0 (R106). -/
def FV.lt (a b : FV) : Bool :=
  match a, b with
  | .inf x, .inf y => x && !y
  | .inf x, .fin _ _ _ => x
  | .fin _ _ _, .inf y => !y
  | .fin _ _ _, .fin _ _ _ => a.dy.lt b.dy
  | _, _ => false

def FV.eqv (a b : FV) : Bool := !a.isNan && !b.isNan && !a.lt b && !b.lt a

/-- A floating comparison (R106): its result and NV. -/
def fCmp (f : Fmt) (k : Cond) (a b : Nat) : Bool × FFlags :=
  let x := f.decode a
  let y := f.decode b
  let un := x.isNan || y.isNan
  let sg := x.isSnan || y.isSnan
  match k with
  | .eq => (x.eqv y, raiseIf sg fNV)
  | .ne => (!x.eqv y, raiseIf sg fNV)
  | .lt => (!un && x.lt y, raiseIf un fNV)
  | .le => (!un && !y.lt x, raiseIf un fNV)
  | .gt => (!un && y.lt x, raiseIf un fNV)
  | .ge => (!un && !x.lt y, raiseIf un fNV)
  | .ltn | .gen => (false, 0)

/-- FCLASS (R107). -/
def fClass (f : Fmt) (b : Nat) : Nat :=
  match f.decode b with
  | .inf true => 1
  | .inf false => 2 ^ 7
  | .nan false => 2 ^ 8
  | .nan true => 2 ^ 9
  | .fin n m e =>
    if m = 0 then (if n then 2 ^ 3 else 2 ^ 4)
    else if belowPow m e f.emin then (if n then 2 ^ 2 else 2 ^ 5)
    else (if n then 2 ^ 1 else 2 ^ 6)

/-! ## Conversions (R70, R72, R108, R141) -/

/-- Least and greatest value of an integer type. -/
def intMin (t : Ty) : Int := if t.isSigned then -(2 ^ (t.bits - 1) : Int) else 0
def intMax (t : Ty) : Int := if t.isSigned then 2 ^ (t.bits - 1) - 1 else 2 ^ t.bits - 1

/-- An integer as an element of type `t`, saturating (R70). -/
def satInt (t : Ty) (x : Int) : FR :=
  if x < intMin t then (wrapInt t.bits (intMin t), fSAT)
  else if intMax t < x then (wrapInt t.bits (intMax t), fSAT)
  else (wrapInt t.bits x, 0)

/-- The integer an element denotes (R70). -/
def intOf (t : Ty) (b : Nat) : Int := if t.isSigned then signedOf t.bits b else (b % 2 ^ t.bits : Nat)

/-- A float value to an integer type. R70 names NV for an infinity, and the maximum or minimum it becomes raises no SAT here
(assumption 62). -/
def toInt (t : Ty) (rm : Rm) (draw : Nat) : FV → FR
  | .nan _ => (0, fNV)
  | .inf n => (wrapInt t.bits (if n then intMin t else intMax t), fNV)
  | .fin n m e =>
    let r := roundAt rm draw n m e false 0
    let s := satInt t (if n then -(r.1 : Int) else r.1)
    (s.1, s.2 ||| raiseIf (s.2 = 0 && r.2) fNX)

/-- Conversion of one element from `src` to `dst`; `wide` conversions never flush (R84). -/
def convert (src dst : Ty) (rm : Rm) (draw : Nat) (ftz wide : Bool) (b : Nat) : FR :=
  let ftz := ftz && !wide
  if src.isFloat then
    let x := (fmtOf src).input ftz b
    let r := if dst.isFloat then (fmtOf dst).deliver rm draw ftz x.1 else toInt dst rm draw x.1
    (r.1, r.2 ||| x.2)
  else
    let x := intOf src b
    if dst.isFloat then (fmtOf dst).round rm draw ftz (x < 0) x.natAbs 0 false
    else satInt dst x

/-! ## Stochastic generators (R79) -/

/-- One step of a generator: the new state; the draw is its bits [63:40]. -/
def nextGen (x : Word) : Word :=
  let x := x ^^^ (x <<< 13)
  let x := x ^^^ (x >>> 7)
  x ^^^ (x <<< 17)

def drawOf (x : Word) : Nat := wfld x 40 24

/-- `n` draws from a generator: the values in order and the state left. -/
def draws : Nat → Word → List Nat × Word
  | 0, x => ([], x)
  | n + 1, x =>
    let y := nextGen x
    let r := draws n y
    (drawOf y :: r.1, r.2)

/-! ## Exact sums (R89) -/

/-- What an exact sum has seen: finite part, whether every term so far is −0, infinities, NaN and NV. -/
structure ESum where
  sum : Dy
  allNegZero : Bool
  any : Bool
  pinf : Bool
  ninf : Bool
  qnan : Bool
  snan : Bool
  deriving DecidableEq, Repr, Inhabited

def ESum.empty : ESum := ⟨⟨0, 0⟩, true, false, false, false, false, false⟩

/-- Add a term; an invalid product comes as a signalling NaN. -/
def ESum.add (s : ESum) (v : FV) : ESum :=
  match v with
  | .nan true => { s with any := true, qnan := true }
  | .nan false => { s with any := true, snan := true }
  | .inf true => { s with any := true, ninf := true }
  | .inf false => { s with any := true, pinf := true }
  | .fin n m e =>
    { s with any := true, sum := s.sum.add (dyOf n m e), allNegZero := s.allNegZero && n && m = 0 }

/-- The sum as a value, with the sign of an exact zero as R89 fixes it. -/
def ESum.value (s : ESum) : FV :=
  if s.snan || (s.pinf && s.ninf) then .nan false
  else if s.qnan then .nan true
  else if s.pinf then .inf false
  else if s.ninf then .inf true
  else if s.sum.n = 0 then .fin (s.any && s.allNegZero) 0 0
  else .fin (s.sum.n < 0) s.sum.n.natAbs s.sum.e

def exactSum (vs : List FV) : FV := (vs.foldl ESum.add .empty).value

/-! ## MXFP4 blocks (R66 to R68) -/

/-- E8M0's exponent: the scale is 2^(e − 127). -/
def scaleExp (s : Nat) : Int := (s : Int) - 127

/-- Element `c` of a block with scale `s`, exactly. -/
def mxValue (s c : Nat) : FV :=
  if s = 255 then .nan true
  else match fmtE2M1.decode c with
    | .fin n m e => .fin n m (e + scaleExp s)
    | v => v

/-- The 17 bytes of a block: element values (R66). -/
def mxBlock (bs : List Byte) : List FV :=
  (List.range 32).map fun i => mxValue (byteAt bs 16).toNat (bitsOf (byteAt bs (i / 2)).toNat (4 * (i % 2)) 4)

/-- The larger of two magnitudes m × 2^e. -/
def magMax (a b : Nat × Int) : Nat × Int := if magGt b.1 b.2 a.1 a.2 then b else a

/-- A block made from 32 values under a mode with 32 draws (R68): the scale, the element codes, and the flags. -/
def mxQuantize (rm : Rm) (drs : List Nat) (ftz : Bool) (xs : List FV) : Nat × List Nat × FFlags :=
  let bad := xs.any fun x => match x with
    | .fin _ _ _ => false
    | _ => true
  if bad then (255, xs.map fun _ => 0, fNV)
  else
    let amax := xs.foldl (fun a x => match x with
      | .fin _ m e => if m = 0 then a else magMax a (m, e)
      | _ => a) (0, 0)
    if amax.1 = 0 then (0, xs.map fun x => if x.neg then 8 else 0, 0)
    else
      let ex : Int := (bitLen amax.1 : Int) + amax.2 - 1 - 2
      let sc := (min (max (ex + 127) 0) 254).toNat
      let rs := (xs.zip drs).map fun (x, d) =>
        match x with
        | .fin n m e =>
          let r := fmtE2M1.round rm d ftz n m (e - scaleExp sc) false
          (r.1, if r.2 &&& fOF != 0 then fNX else r.2)
        | _ => (0, 0)
      (sc, rs.map (·.1), rs.foldl (fun f r => f ||| r.2) 0)

/-- The 17 bytes of a block. -/
def mxBytes (sc : Nat) (es : List Nat) : List Byte :=
  (List.range 16).map (fun j => BitVec.ofNat 8 (es.getD (2 * j) 0 + 16 * es.getD (2 * j + 1) 0)) ++ [BitVec.ofNat 8 sc]

/-! ## Companding (R85 to R88) -/

/-- A companding table: the segments in use, each breakpoint, slope exponent and offset. -/
structure Cmpd where
  segs : List (FV × Int × FV)
  deriving DecidableEq, Repr, Inhabited

def Core.cmpd (c : Core) : Cmpd :=
  ⟨(List.range (c.cmpdN.toNat + 1)).map fun i =>
    let sg := c.cmpdSeg.toArray.getD i 0
    (fmtF32.decode (fld sg 0 32).toNat, (fld sg 32 8).toInt, fmtF32.decode (c.cmpdOfs.toArray.getD i 0).toNat)⟩

/-- v × 2^k. -/
def FV.scale (v : FV) (k : Int) : FV :=
  match v with
  | .fin n m e => .fin n m (e + k)
  | _ => v

/-- a ≤ b for finite values and infinities. -/
def FV.le (a b : FV) : Bool := !b.lt a

/-- The segment of the forward map: the last one whose breakpoint is at most x. -/
def Cmpd.segOf (t : Cmpd) (x : FV) : FV × Int × FV :=
  (t.segs.drop 1).foldl (fun r s => if s.1.le x then s else r) (t.segs.headD (.fin false 0 0, 0, .fin false 0 0))

/-- The forward map, exact (R87). -/
def Cmpd.forward (t : Cmpd) (x : FV) : FV :=
  match x with
  | .fin _ _ _ => let s := t.segOf x; (x.scale s.2.1).add .rne s.2.2
  | _ => x

/-- Start of a segment's image: b × 2^k + c. -/
def segStart (s : FV × Int × FV) : FV := (s.1.scale s.2.1).add .rne s.2.2

/-- The inverse, rounded once to FP32 (R88). The value is then judged as an input: an FP32 subnormal becomes zero with FLUSH alone
(R84). -/
def Cmpd.inverse (t : Cmpd) (ftz : Bool) (y : FV) : FV × FFlags :=
  match y with
  | .fin _ _ _ =>
    let s := (t.segs.drop 1).foldl (fun r s => if (segStart s).le y then s else r) (t.segs.headD (.fin false 0 0, 0, .fin false 0 0))
    let z := (y.add .rne s.2.2.flip).scale (-s.2.1)
    let r := fmtF32.deliver .rne 0 false z
    let x := flushIn ftz (fmtF32.decode r.1)
    (x.1, if x.2 = 0 then r.2 else x.2)
  | _ => (y, 0)

/-- Whether a value is finite. -/
def FV.isFin : FV → Bool
  | .fin _ _ _ => true
  | _ => false

/-- Validation of the table (R86). -/
def Cmpd.valid (t : Cmpd) : Bool :=
  t.segs.all (fun s => -64 ≤ s.2.1 && s.2.1 ≤ 63 && s.2.2.isFin) &&
  (t.segs.drop 1).all (fun s => s.1.isFin) &&
  ((t.segs.drop 1).zip (t.segs.drop 2)).all (fun p => p.1.1.lt p.2.1) &&
  (t.segs.zip (t.segs.drop 1)).all fun p =>
    ((p.2.1.scale p.1.2.1).add .rne p.1.2.2).le (segStart p.2)

end Sys2Proof.Machine
end

