-- ==== Sys2Proof/Machine/MemInstr.lean ====
section
/-!
DEFINITION. Scalar loads and stores, atomics, FENCE and WAITA, with the events that complete them (07_ordering.md R194 to
R202; 08_sync_async.md R211 to R220).
-/

namespace Sys2Proof.Machine

/-! ## The checks (R212, R215) -/

/-- The first checks of an access of `n` bytes at `addr`: its high bits, then its alignment. -/
def addrTrap (addr : Word) (n : Nat) : Option Trap :=
  if addr.toNat ≥ vaLimit then some { cause := cWINBOUND, addr := addr.toNat }
  else if addr.toNat % n ≠ 0 then some { cause := cSALIGN, addr := addr.toNat }
  else none

/-- MEMUNC when the access reads a byte with an uncorrectable error (R354). -/
def State.uncTrap (s : State) (va loc n : Nat) : Option Trap :=
  if s.unc loc n then some { cause := cMEMUNC, addr := va } else none

/-- The location of a plain scalar access, every check passed; control space is not reached here. -/
def State.locate (s : State) (need : Need) (addr : Word) (n : Nat) : Except Trap Nat :=
  match addrTrap addr n with
  | some t => .error t
  | none =>
    match resolve s (s.whoCore s.me) need addr.toNat n with
    | .error e => .error e.trap
    | .ok loc => .ok loc

/-- The issuing core's own watchpoints, of which `hits` match, then `f`. -/
def withWatchOf (hits : BitVec 4) (write : Bool) (va loc n : Nat) (s : State) (f : State → Out) : Out :=
  match s.watchOwn s.me s.myCore.stage s.myCore.noWatch write va loc n hits with
  | .error t => s.trap t
  | .ok s => f s

/-- The same for an access of one kind. -/
def withWatch (write : Bool) (va loc n : Nat) (s : State) (f : State → Out) : Out :=
  withWatchOf (s.myCore.wpHits write loc n) write va loc n s f

/-- The watchpoints of an atomic, which both reads and writes: the lowest slot that matches either is reported. -/
def withWatchRw (va loc n : Nat) (s : State) (f : State → Out) : Out :=
  let c := s.myCore
  withWatchOf (c.wpHits false loc n ||| c.wpHits true loc n)
    (decide ((c.wpMatch true loc n).getD 4 < (c.wpMatch false loc n).getD 4)) va loc n s f

/-- A release, or a .sc access of any kind, waits until every older access and store of the core is done (R198, R200). -/
def Core.mustSettle (c : Core) (wait : Bool) : Bool := wait && !c.settled

/-- The release steps, when the access releases or is .sc; the waits are over. -/
def State.releaseIf (s : State) (b : Bool) (sc : Scope) : State := if b then s.releaseSteps s.me sc else s

/-- A word whose reads are strong waits while a strong write of its core has not performed (07_ordering.md R192). -/
def ownWritesDone (s : State) (f : State → Out) : Out := if s.myCore.writesOut then .next s else f s

/-! ## Loads (R211 to R213) -/

/-- The value a load delivers: `n` bytes, sign-extended unless `zero` (R211). -/
def loadValue (n : Nat) (zero : Bool) (bs : List Byte) : Word :=
  if zero || n = 8 then bytesWord bs else BitVec.ofInt 64 (signedOf (8 * n) (bytesNat bs))

/-- The load has performed with these bytes: its value waits for LOAD_RESPONSE; an acquire discards the staging. -/
def State.loadDone (s : State) (d : BitVec 6) (o : Ord) (v : Word) : State :=
  let s := s.updMe fun c => { c with out := c.out ++ [.load d c.inh v] }
  (if ordAcquires o then s.discardStaging s.me else s).advance s.me

/-- A load whose location is known (R194 to R196, R202); no pending store covers part of it only. -/
def State.loadAt (s : State) (n : Nat) (zero strong : Bool) (o : Ord) (d : BitVec 6) (loc : Nat) : State :=
  let g := s.me
  match forwarded s.myCore.out loc n with
  | some bs => (s.homeRead g loc n).loadDone d o (loadValue n zero (buffered s.myCore.smb loc bs))
  | none =>
    let r := if strong then s.strongRead g loc n else s.weakRead g loc n
    r.2.loadDone d o (loadValue n zero r.1)

/-- A load of control space performs at the homes of the objects it covers; one of a single byte is refused (R185). -/
def State.loadCtl (s : State) (n : Nat) (zero : Bool) (sc : Scope) (o : Ord) (d : BitVec 6) (va : Nat) : Out :=
  let p := s.partOf s.me
  match window s (s.whoCore s.me) va n with
  | .error e => s.trap e.trap
  | .ok loc =>
    if n = 1 then s.trap { cause := cCTLACCESS, addr := va }
    else
      withWatch false va (loc.getD va) n s fun s =>
        let s := (s.releaseIf (o = .sc) sc).homeRead s.me (loc.getD va) n
        .next (s.loadDone d o (loadValue n zero ((upFrom (va - ctlBase) n).map (ctlByte s p))))

/-- The scalar loads. -/
def scalarLoad (n : Nat) (zero : Bool) (q : Qual) (d a : BitVec 6) (sc : Scope) (o : Ord) (off : BitVec 24) (s : State) : Out :=
  scalarWord q [d, a] [] s fun s =>
    let c := s.myCore
    let addr := c.reg a + off.signExtend 64
    let va := addr.toNat
    match addrTrap addr n with
    | some t => s.trap t
    | none =>
      if !c.outFree || c.mustSettle (o = .sc) then .next s
      else if isCtl va then s.loadCtl n zero sc o d va
      else
        match resolve s (s.whoCore s.me) .rd va n with
        | .error e => s.trap e.trap
        | .ok loc =>
          match s.uncTrap va loc n with
          | some t => s.trap t
          | none =>
            if (forwarded c.out loc n).isNone && outTouches c.out loc n then .next s
            else
              withWatch false va loc n s fun s =>
                .next ((s.releaseIf (o = .sc) sc).loadAt n zero (o != .rlx || sc = .dev || sc = .sys) o d loc)

def execLdb (q : Qual) (d a : BitVec 6) (sc : Scope) (o : Ord) (off : BitVec 24) (s : State) : Out := scalarLoad 1 false q d a sc o off s
def execLdh (q : Qual) (d a : BitVec 6) (sc : Scope) (o : Ord) (off : BitVec 24) (s : State) : Out := scalarLoad 2 false q d a sc o off s
def execLdw (q : Qual) (d a : BitVec 6) (sc : Scope) (o : Ord) (off : BitVec 24) (s : State) : Out := scalarLoad 4 false q d a sc o off s
def execLdd (q : Qual) (d a : BitVec 6) (sc : Scope) (o : Ord) (off : BitVec 24) (s : State) : Out := scalarLoad 8 true q d a sc o off s
def execLdbn (q : Qual) (d a : BitVec 6) (sc : Scope) (o : Ord) (off : BitVec 24) (s : State) : Out := scalarLoad 1 true q d a sc o off s
def execLdhn (q : Qual) (d a : BitVec 6) (sc : Scope) (o : Ord) (off : BitVec 24) (s : State) : Out := scalarLoad 2 true q d a sc o off s
def execLdwn (q : Qual) (d a : BitVec 6) (sc : Scope) (o : Ord) (off : BitVec 24) (s : State) : Out := scalarLoad 4 true q d a sc o off s

/-! ## Stores (R211, R212) -/

/-- A write finds the buffer full: an entry starts to drain, and the word waits (R195). -/
def State.startDrain (s : State) (g : Nat) : State :=
  s.updCore g fun c =>
    if c.smb.any (·.draining) then c
    else match c.smb with
      | [] => c
      | e :: es => { c with smb := { e with draining := true } :: es }

/-- A weak store: into the store-merge buffer, or directly to own near scratch (R194, R195). -/
def State.storeWeak (s : State) (va loc : Nat) (bytes : List Byte) : Out :=
  let g := s.me
  let n := bytes.length
  if outTouches s.myCore.out loc n then .next s
  else if !inNear g loc && !smbRoom s.myCore.smb (gransOf loc n) then .next (s.startDrain g)
  else withWatch true va loc n s fun s => .next ((s.weakWrite g loc bytes).advance g)

/-- A strong store: it performs and is acknowledged at its home later, except .sc, which performs before any younger access
(R200, R202). -/
def State.storeStrong (s : State) (sc : Scope) (o : Ord) (va loc : Nat) (bytes : List Byte) : Out :=
  let g := s.me
  let n := bytes.length
  let now := inNear g loc || o = .sc
  if !s.myCore.outFree || s.myCore.mustSettle (ordReleases o) || (now && outTouches s.myCore.out loc n) then .next s
  else
    withWatch true va loc n s fun s =>
      let s := (s.releaseIf (ordReleases o) sc).drainGran g (loc / 64)
      if now then .next ((s.strongWrite g loc bytes).advance g)
      else .next ((s.updMe fun c => { c with out := c.out ++ [.store loc bytes va] }).advance g)

/-- Whether a Pavane's control store accepts a store now: idle, and no request waits (10_retrieval_attention.md R312). -/
def State.pavStoreOk (s : State) (k : Nat) : Bool :=
  let p := (s.cluster k).pav
  p.pass.isNone && p.reqs = []

/-- STH to a control-store word; every other store to control space is CTLACCESS (R185, R312). -/
def State.storeCtl (s : State) (n va : Nat) (v : Word) : Out :=
  match window s (s.whoCore s.me) va n with
  | .error e => s.trap e.trap
  | .ok loc =>
    match ctlAt (va - ctlBase) with
    | some (.pav k w, _) =>
      if n = 2 && s.pavStoreOk k then
        withWatch true va (loc.getD va) n s fun s =>
          let s := s.watchHome s.me true (loc.getD va) n
          .next ((s.updCluster k fun x => { x with pav := { x.pav with store := x.pav.store.set w (v.setWidth 16) } }).advance s.me)
      else s.trap { cause := cCTLACCESS, addr := va }
    | _ => s.trap { cause := cCTLACCESS, addr := va }

/-- The scalar stores. -/
def scalarStore (n : Nat) (q : Qual) (src a : BitVec 6) (sc : Scope) (o : Ord) (off : BitVec 24) (s : State) : Out :=
  scalarWord q [src, a] [] s fun s =>
    let c := s.myCore
    let addr := c.reg a + off.signExtend 64
    let va := addr.toNat
    match addrTrap addr n with
    | some t => s.trap t
    | none =>
      if isCtl va then
        if c.mustSettle (ordReleases o) then .next s else (s.releaseIf (ordReleases o) sc).storeCtl n va (c.reg src)
      else
        match resolve s (s.whoCore s.me) .wr va n with
        | .error e => s.trap e.trap
        | .ok loc =>
          let bytes := wordBytes n (c.reg src)
          if o != .rlx || sc = .dev || sc = .sys then s.storeStrong sc o va loc bytes
          else s.storeWeak va loc bytes

def execStb (q : Qual) (src a : BitVec 6) (sc : Scope) (o : Ord) (off : BitVec 24) (s : State) : Out := scalarStore 1 q src a sc o off s
def execSth (q : Qual) (src a : BitVec 6) (sc : Scope) (o : Ord) (off : BitVec 24) (s : State) : Out := scalarStore 2 q src a sc o off s
def execStw (q : Qual) (src a : BitVec 6) (sc : Scope) (o : Ord) (off : BitVec 24) (s : State) : Out := scalarStore 4 q src a sc o off s
def execStd (q : Qual) (src a : BitVec 6) (sc : Scope) (o : Ord) (off : BitVec 24) (s : State) : Out := scalarStore 8 q src a sc o off s

/-! ## Atomics (R214 to R217) -/

/-- The operators of R214; a compare-and-swap carries its new value. -/
inductive AOp where
  | add | and | or | xor | min | max | minn | maxn | xchg
  | cas (c : Word)
  | fadd
  deriving DecidableEq, Repr, Inhabited

/-- The new value of `bits` bits, or none when nothing is written (R214, R216). -/
def AOp.apply (op : AOp) (bits a b : Nat) : Option Nat :=
  match op with
  | .add => some ((a + b) % 2 ^ bits)
  | .and => some (a &&& b)
  | .or => some (a ||| b)
  | .xor => some (a ^^^ b)
  | .min => some (if signedOf bits a ≤ signedOf bits b then a else b)
  | .max => some (if signedOf bits b ≤ signedOf bits a then a else b)
  | .minn => some (Nat.min a b)
  | .maxn => some (Nat.max a b)
  | .xchg => some b
  | .cas c => if a = b then some (c.toNat % 2 ^ bits) else none
  | .fadd => some (fAdd fmtF32 .rne false a b).1

/-- The forms accepted on host memory (R217). -/
def AOp.hostOk (op : AOp) (w64 : Bool) : Bool :=
  w64 && match op with
    | .add | .xchg | .cas _ => true
    | _ => false

/-- The read and the write at the home, one indivisible step (R215). -/
def State.atomicAt (s : State) (n : Nat) (op : AOp) (o : Ord) (d : BitVec 6) (b : Word) (loc : Nat) : State :=
  let g := s.me
  let s := s.drainGran g (loc / 64)
  let r := s.strongRead g loc n
  let a := bytesNat r.1
  let s := match op.apply (8 * n) a (b.toNat % 2 ^ (8 * n)) with
    | some x => r.2.strongWrite g loc (natBytes n x)
    | none => r.2
  let s := s.updMe fun c => { c with out := c.out ++ [.atomic d c.inh (BitVec.ofNat 64 a)] }
  (if ordAcquires o then s.discardStaging g else s).advance g

/-- An atomic word. -/
def atomicOp (w64 : Bool) (op : Core → AOp) (rs : List (BitVec 6)) (q : Qual) (sc : Scope) (o : Ord) (d a b : BitVec 6)
    (s : State) : Out :=
  scalarWord q (d :: a :: b :: rs) [] s fun s =>
    let c := s.myCore
    let n := if w64 then 8 else 4
    let va := (c.reg a).toNat
    match s.locate .both (c.reg a) n with
    | .error t => s.trap t
    | .ok loc =>
      if isHostLoc loc && !(op c).hostOk w64 then s.trap { cause := cATOMHOST, addr := va }
      else
        match s.uncTrap va loc n with
        | some t => s.trap t
        | none =>
          if !c.outFree || c.mustSettle (ordReleases o) || outTouches c.out loc n then .next s
          else
            withWatchRw va loc n s fun s =>
              .next ((s.releaseIf (ordReleases o) sc).atomicAt n (op c) o d (c.reg b) loc)

def execAadd (q : Qual) (w64 : Bool) (sc : Scope) (o : Ord) (d a b : BitVec 6) (s : State) : Out := atomicOp w64 (fun _ => .add) [] q sc o d a b s
def execAand (q : Qual) (w64 : Bool) (sc : Scope) (o : Ord) (d a b : BitVec 6) (s : State) : Out := atomicOp w64 (fun _ => .and) [] q sc o d a b s
def execAor (q : Qual) (w64 : Bool) (sc : Scope) (o : Ord) (d a b : BitVec 6) (s : State) : Out := atomicOp w64 (fun _ => .or) [] q sc o d a b s
def execAxor (q : Qual) (w64 : Bool) (sc : Scope) (o : Ord) (d a b : BitVec 6) (s : State) : Out := atomicOp w64 (fun _ => .xor) [] q sc o d a b s
def execAmin (q : Qual) (w64 : Bool) (sc : Scope) (o : Ord) (d a b : BitVec 6) (s : State) : Out := atomicOp w64 (fun _ => .min) [] q sc o d a b s
def execAmax (q : Qual) (w64 : Bool) (sc : Scope) (o : Ord) (d a b : BitVec 6) (s : State) : Out := atomicOp w64 (fun _ => .max) [] q sc o d a b s
def execAminn (q : Qual) (w64 : Bool) (sc : Scope) (o : Ord) (d a b : BitVec 6) (s : State) : Out := atomicOp w64 (fun _ => .minn) [] q sc o d a b s
def execAmaxn (q : Qual) (w64 : Bool) (sc : Scope) (o : Ord) (d a b : BitVec 6) (s : State) : Out := atomicOp w64 (fun _ => .maxn) [] q sc o d a b s
def execAxchg (q : Qual) (w64 : Bool) (sc : Scope) (o : Ord) (d a b : BitVec 6) (s : State) : Out := atomicOp w64 (fun _ => .xchg) [] q sc o d a b s
def execAcas (q : Qual) (w64 : Bool) (sc : Scope) (o : Ord) (d a b c : BitVec 6) (s : State) : Out := atomicOp w64 (fun k => .cas (k.reg c)) [c] q sc o d a b s
def execAfadd (q : Qual) (sc : Scope) (o : Ord) (d a b : BitVec 6) (s : State) : Out := atomicOp false (fun _ => .fadd) [] q sc o d a b s

/-! ## FENCE (R201) -/

/-- Every older load of the core has performed, an armed WAITA .rlx among them. -/
def Core.loadsDone (c : Core) : Bool := !c.armed && (c.getEng .load).queue = [] && !((c.getEng .matrix).queue.any (·.accesses))

def execFence (q : Qual) (sc : Scope) (o : Ord) (s : State) : Out :=
  scalarWord q [] [] s fun s =>
    let acq (s : State) : Out :=
      if ordAcquires o then (if s.myCore.loadsDone then (s.discardStaging s.me).done else .next s) else s.done
    if ordReleases o then releasing sc s acq else acq s

/-! ## WAITA (R218 to R220) -/

/-- The deadline of a timeout in cycles; all ones is none (R218, R401). -/
def waitaDeadline (now : Nat) (t : Word) : Option Nat := if t = BitVec.allOnes 64 then none else some (now + t.toNat)

def passed (now : Nat) (d : Option Nat) : Bool :=
  match d with
  | some d => d ≤ now
  | none => false

/-- The WAITA issues with monitor `m` (R218). -/
def State.waitaAt (s : State) (m : Nat) (sc : Scope) (o : Ord) (d : BitVec 6) (expect t : Word) (loc : Nat) : Out :=
  let g := s.me
  let deadline := waitaDeadline s.cycle t
  let r := s.strongRead g loc 8
  let x := bytesWord r.1
  let s := r.2
  if x != expect || passed s.cycle deadline || s.interrupted g then
    let s := s.putReg g d x
    (if o = .acq then s.discardStaging g else s).done
  else
    let s := s.updMe fun c =>
      { c with monitors := c.monitors.setIfInBounds m (some ⟨loc, expect, d, c.inh, o = .acq, sc, deadline, false⟩) }
    if o = .acq then .next (s.updMe fun c => { c with wait := some (.waita m) })
    else s.done

def execWaita (q : Qual) (sc : Scope) (o : Ord) (d a b t : BitVec 6) (s : State) : Out :=
  scalarWord q [d, a, b, t] [] s fun s =>
    let c := s.myCore
    let va := (c.reg a).toNat
    match s.locate .both (c.reg a) 8 with
    | .error e => s.trap e
    | .ok loc =>
      match s.uncTrap va loc 8 with
      | some e => s.trap e
      | none =>
        match (List.range 4).find? (fun m => (c.monitors.toArray.getD m none).isNone) with
        | none => .next s
        | some m =>
          if !c.outFree || outTouches c.out loc 8 then .next s
          else withWatch false va loc 8 s fun s => s.waitaAt m sc o d (c.reg b) (c.reg t) loc

/-- A monitor's WAITA returns; the scalar pipe that waits on it goes on. -/
def State.waitaReturn (s : State) (g m : Nat) : State :=
  let waits := (s.core g).wait = some (.waita m)
  let s := s.monReturn g m
  if waits then (s.updCore g fun c => { c with wait := none }).advance g else s

/-- MONITOR_WAKE: a monitor re-reads its word; it returns when the value differs, spuriously after any wake (R219), or when the
wait is interrupted (R218). -/
def State.monitorTry (s : State) (g m : Nat) (spurious : Bool) : State :=
  match (s.core g).monitors.toArray.getD m none with
  | none => s
  | some x =>
    let v := bytesWord (s.coreBytes g x.loc 8)
    if v != x.expect || (spurious && x.woken) || s.interrupted g then s.waitaReturn g m
    else s.updCore g fun c => { c with monitors := c.monitors.setIfInBounds m (some { x with woken := false }) }

def execMonitorWake (s : State) : Out :=
  match s.arg with
  | .wake g m sp => .next (s.monitorTry g m sp)
  | .unit g => .next ((List.range 4).foldl (fun s m => s.monitorTry g m false) s)
  | _ => .next s

/-- WAITA_TIMEOUT: the deadline of a core's monitor has passed (R218, R401). -/
def execWaitaTimeout (s : State) : Out :=
  match s.arg with
  | .pair g m =>
    match (s.core g).monitors.toArray.getD m none with
    | some x => if passed s.cycle x.deadline then .next (s.waitaReturn g m) else .next s
    | none => .next s
  | _ => .next s

/-! ## Completion of outstanding accesses and of the buffers (R195 to R197, R213) -/

/-- LOAD_RESPONSE: the value of an outstanding load arrives. -/
def execLoadResponse (s : State) : Out :=
  match s.arg with
  | .unit g =>
    match (s.core g).out.findIdx? (fun o => !o.isWrite) with
    | some i => .next (s.settleOut g i)
    | none => .next s
  | .pair g i =>
    match (s.core g).out[i]? with
    | some (.load _ _ _) => .next (s.settleOut g i)
    | _ => .next s
  | _ => .next s

/-- Whether the write at place `i` may be acknowledged: a strong store performs after every older one to its unit (R202). -/
def ackOk (out : List OutAcc) (i : Nat) : Bool :=
  match out[i]? with
  | some (.store loc bs _) => !outTouches (out.take i) loc bs.length
  | some (.atomic _ _ _) => true
  | _ => false

/-- HOME_ACKNOWLEDGEMENT: an outstanding atomic's old value or strong store's acknowledgement arrives. -/
def execHomeAcknowledgement (s : State) : Out :=
  match s.arg with
  | .unit g =>
    match (s.core g).out.findIdx? (·.isWrite) with
    | some i => .next (s.settleOut g i)
    | none => .next s
  | .pair g i => if ackOk (s.core g).out i then .next (s.settleOut g i) else .next s
  | _ => .next s

/-- SMB_DRAIN_START: an entry begins to drain. -/
def execSmbDrainStart (s : State) : Out :=
  match s.arg with
  | .unit g => .next (s.startDrain g)
  | .pair g gran =>
    .next (s.updCore g fun c => { c with smb := listUpd c.smb (·.gran = gran) fun e => { e with draining := true } })
  | _ => .next s

/-- SMB_DRAIN_COMPLETE: an entry reaches its home. -/
def execSmbDrainComplete (s : State) : Out :=
  match s.arg with
  | .unit g => .next (s.drainAt g (smbVictim (s.core g).smb))
  | .pair g gran =>
    match (s.core g).smb.find? (fun e => e.gran = gran) with
    | some e => if e.draining then .next (s.drainGran g gran) else .next s
    | none => .next s
  | _ => .next s

/-- STAGING_EXPIRE: a staged granule serves no more reads. -/
def execStagingExpire (s : State) : Out :=
  match s.arg with
  | .unit g => .next (s.updCore g fun c => { c with staging := c.staging.drop 1 })
  | .pair g gran => .next (s.updCore g fun c => { c with staging := c.staging.filter (·.gran != gran) })
  | _ => .next s

end Sys2Proof.Machine
end

