-- ==== Sys2Proof/Machine/Operands.lean ====
section
/-!
DEFINITION. Operand forms of the engine words: lanes and masks, object entries and stream positions, the two address modes
of vector memory, and the frame in which a word at the head of an engine queue issues (01_machine.md R26, R31 to R34, R39;
05_vector.md R126, R127, R154; 06_streams_matrix.md R159 to R166; 12_recovery.md R402).
-/

namespace Sys2Proof.Machine

/-! ## Lanes (R126) -/

/-- Lane `j` of a register whose elements have `w` bits: rows follow one another, so lanes lie in a line. -/
def laneOf (w : Nat) (x : VData) (j : Nat) : Nat := bitsOf x.toNat (w * j) w

/-- The first `n` lanes. -/
def lanesOf (w n : Nat) (x : VData) : List Nat := (List.range n).map (laneOf w x)

/-- Elements of `w` bits as one number, the first lowest. -/
def packLanes (w : Nat) (es : List Nat) : Nat := es.foldr (fun e x => e % 2 ^ w + 2 ^ w * x) 0

/-- A register with lanes replaced: `none` keeps the lane's old value. -/
def putLanes (w : Nat) (old : VData) (es : List (Option Nat)) : VData :=
  BitVec.ofNat 32768 (packLanes w ((enum es).map fun (j, e) => e.getD (laneOf w old j)))

/-- Row and column of lane `j` for `cols` columns (R126). -/
def laneRc (cols j : Nat) : Nat × Nat := (j / cols, j % cols)

def Core.vreg (c : Core) (r : BitVec 5) : VData := c.v.toArray.getD r.toNat 0

def Core.setVreg (c : Core) (r : BitVec 5) (x : VData) : Core := { c with v := c.v.setIfInBounds r.toNat x }

/-! ## Masks (R127, R138) -/

/-- Mask operand `k`: m0 is the top of the stack. -/
def Core.mask (c : Core) (k : BitVec 3) : MaskData := if k = 0 then c.m0 else c.m.toArray.getD k.toNat 0

/-- Write mask `k`: naming m0 replaces the top entry (R135, R138). -/
def Core.setMask (c : Core) (k : BitVec 3) (x : MaskData) : Core :=
  if k = 0 then { c with mstack := x :: c.mstack.drop 1 } else { c with m := c.m.setIfInBounds k.toNat x }

/-- Whether lane `j` of `w` bits is masked on: a bit governs one 32-bit container. -/
def laneOn (m : MaskData) (w j : Nat) : Bool := m.getLsbD (w * j / 32)

/-! ## Object entries (R159 to R161) -/

def entBase (e : BitVec 512) : Nat := (fld e 0 52).toNat
def entFmt (e : BitVec 512) : Ty := Ty.ofCode (fld e 64 4)
def entCmpd (e : BitVec 512) : Bool := e.getLsbD 68
def entValid (e : BitVec 512) : Bool := e.getLsbD 69
def entPart (e : BitVec 512) : Nat := (fld e 70 3).toNat

/-- Rights: 0 load, 1 store, 2 matrix, 3 copy, 4 search. -/
def entRight (e : BitVec 512) (r : Nat) : Bool := e.getLsbD (73 + r)

def entDims (e : BitVec 512) : Nat := (fld e 78 2).toNat + 1
def entBstr (e : BitVec 512) : Nat := (fld e 80 12).toNat

def entExtField (e : BitVec 512) (d : Nat) : Nat :=
  match d with
  | 0 => (fld e 128 24).toNat
  | 1 => (fld e 152 24).toNat
  | 2 => (fld e 176 8).toNat
  | _ => (fld e 184 8).toNat

/-- Extent of dimension `d`: 1 above NDIM (R160). -/
def entExt (e : BitVec 512) (d : Nat) : Nat := if d < entDims e then entExtField e d else 1

/-- Stride in bytes of dimension `d`, 1 to 3. -/
def entStride (e : BitVec 512) (d : Nat) : Int := if d < entDims e then (fld e (128 + 64 * d) 48).toInt else 0

def entLv (e : BitVec 512) (d : Nat) : Nat := (fld e (384 + 16 * d + 13) 3).toNat
def entStep (e : BitVec 512) (d : Nat) : Int := (fld e (384 + 16 * d) 13).toInt

/-- Element width in bytes as an entry counts it: 1 for .mx4 and the six-bit types (R160). -/
def fmtBytes (t : Ty) : Nat :=
  match t with
  | .f6a | .f6b | .mx4 => 1
  | t => t.bits / 8

/-- Bytes from position 0 of dimension 0: for .mx4, to the block of the element. -/
def entOff0 (e : BitVec 512) (p0 : Int) : Int :=
  if entFmt e = .mx4 then p0 / 32 * entBstr e else p0 * fmtBytes (entFmt e)

/-- Addr(p) of R161. -/
def entAddr (e : BitVec 512) (p : Pos) : Int :=
  entBase e + entOff0 e p.p0 + p.p1 * entStride e 1 + p.p2 * entStride e 2 + p.p3 * entStride e 3

/-- Whether a position is in extent (R161). -/
def entIn (e : BitVec 512) (p : Pos) : Bool :=
  0 ≤ p.p0 && p.p0 < entExt e 0 && 0 ≤ p.p1 && p.p1 < entExt e 1 &&
  0 ≤ p.p2 && p.p2 < entExt e 2 && 0 ≤ p.p3 && p.p3 < entExt e 3

/-- An address as 64 bits. -/
def addr64 (a : Int) : Nat := wrapInt 64 a

/-! ## Stream positions (R164) -/

/-- The iteration that drives dimension `d` of a stream for a word with a stage gate, or without one. -/
def streamIdx (l : LoopState) (q : Qual) (v : Nat) : Int :=
  if v = 7 || !(l.get v).active then 0
  else
    match q with
    | .stage n => if (l.get v).pipelined then ((l.get v).k : Int) - n.toNat else (l.get v).k
    | _ => (l.get v).k

/-- The effective position of a stream for a word that enters its queue now. -/
def effPos (l : LoopState) (q : Qual) (x : StreamReg) : Pos :=
  let go (d base : Nat) : Int := base + entStep x.entry d * streamIdx l q (entLv x.entry d)
  ⟨go 0 x.p0.toNat, go 1 x.p1.toNat, go 2 x.p2.toNat, go 3 x.p3.toNat⟩

def Core.stream (c : Core) (q : BitVec 4) : StreamReg := c.q.toArray.getD q.toNat .reset

def Core.setStream (c : Core) (q : BitVec 4) (x : StreamReg) : Core := { c with q := c.q.setIfInBounds q.toNat x }

/-! ## The frame of an engine word (R26, R33, R39, R402) -/

/-- What an engine word comes to at issue: the state after it, and the scalar or condition register it will write. -/
structure EngRes where
  st : State
  sw : Option (BitVec 6 × Word) := none
  cw : Option (BitVec 3 × Bool) := none

/-- The effect of an engine word, from its queue entry. -/
abbrev EngBody := QEntry → State → Except Trap EngRes

/-- Whether the head entry of a queue is held: in handler mode, behind a precise fault, or at a halted core (R350, R359). -/
def Core.holds (c : Core) (h : QEntry) : Bool :=
  c.inh || c.halted || (match c.pend with
    | some p => decide (p.seq ≤ h.seq)
    | none => false)

/-- Remove the head of an engine's queue. -/
def Core.retireHead (c : Core) (e : Eng) : Core :=
  let x := c.getEng e
  c.setEng e { x with queue := x.queue.drop 1 }

/-- Whether the tokens let a word issue (R33). -/
def Core.tokensReady (c : Core) (p : Engw) : Bool :=
  (p.pop.all fun t => (c.tok t).vis ≥ 1) && (p.push.all fun t => (c.tok t).vis + (c.tok t).res < 15)

/-- Take the popped token and reserve the pushed slot. -/
def Core.takeTokens (c : Core) (p : Engw) : Core :=
  let c := match p.pop with
    | some t => c.setTok t { c.tok t with vis := (c.tok t).vis - 1 }
    | none => c
  match p.push with
  | some t => c.setTok t { c.tok t with res := (c.tok t).res + 1 }
  | none => c

/-- The marks of a faulting entry clear, and its registers keep their values (R34). -/
def Core.unmarkHead (c : Core) (e : Eng) : Core :=
  let x := c.getEng e
  match x.queue with
  | [] => c
  | h :: t => c.setEng e { x with queue := { h with ms := none, mc := none } :: t }

/-- The word has issued: it leaves its queue, and its results are in flight. -/
def Core.issued (c : Core) (e : Eng) (p : Engw) (h : QEntry) (r : EngRes) : Core :=
  let c := (c.retireHead e).takeTokens p
  let x := c.getEng e
  c.setEng e { x with inflight := x.inflight ++ [⟨h.seq, p.push, r.sw, r.cw⟩] }

/-- The newest issue of the core, in cycle `now` (R402). -/
def Core.noteIssue (c : Core) (h : QEntry) (now : Nat) : Core := { c with issueCycle := now, issueSeq := h.seq }

/-- A turn of engine `e` with the word at its queue's head: `wait` names what else holds it there. -/
def engineWordIf (e : Eng) (p : Engw) (wait : State → Bool) (body : EngBody) (s : State) : Out :=
  let g := s.me
  let c := s.myCore
  match (c.getEng e).queue with
  | [] => .next s
  | h :: _ =>
    if c.holds h then .next s
    else if !h.on then .next ((s.updMe (·.retireHead e)).tryDeliver g)
    else if !c.tokensReady p || wait s then .next s
    else
      match body h s with
      | .error t => .next ((s.raise g (some h) { t with eng := some e }).updCore g (·.unmarkHead e))
      | .ok r => .next (r.st.updCore g fun c => (c.issued e p h r).noteIssue h s.cycle)

/-- The frame of an engine word that only its tokens hold. -/
def engineWord (e : Eng) (p : Engw) (body : EngBody) (s : State) : Out := engineWordIf e p (fun _ => false) body s

/-- Whether the cluster's Pavane runs (R39). -/
def State.pavRuns (s : State) : Bool := (s.cluster (clusOf s.me)).pav.pass.isSome

/-- A NaN trap on lane `j` of a type (R94). -/
def nanLane (cols j : Nat) : Trap := { cause := cNANTRAP, lane := some (laneRc cols j) }

/-! ## Vector results -/

/-- The lanes an instruction writes: for each, new bits and flags; `none` keeps the old lane and raises nothing. -/
abbrev LaneRes := List (Option FR)

def laneFlags (rs : LaneRes) : FFlags := rs.foldl (fun f r => f ||| (r.elim 0 (·.2))) 0

/-- The lowest lane that receives a NaN. -/
def nanAt (t : Ty) (rs : LaneRes) : Option Nat := rs.findIdx? fun r => r.elim false fun x => isNanBits t x.1

/-- Write lanes of type `t` to a register with their flags. -/
def Core.putRes (c : Core) (t : Ty) (d : BitVec 5) (rs : LaneRes) : Core :=
  (c.setVreg d (putLanes t.bits (c.vreg d) (rs.map fun r => r.map (·.1)))).orFlags (laneFlags rs)

/-- An arithmetic result in a register: the NaN trap first when it is enabled (R94). -/
def vResult (t : Ty) (d : BitVec 5) (rs : LaneRes) (s : State) : Except Trap EngRes :=
  let c := s.myCore
  match (if t.isFloat && c.nten then nanAt t rs else none) with
  | some j => .error (nanLane t.cols j)
  | none => .ok { st := s.updMe fun c => c.putRes t d rs }

/-- A result of moves: no flag, no trap (R71). -/
def vMoved (w : Nat) (d : BitVec 5) (es : List (Option Nat)) (s : State) : Except Trap EngRes :=
  .ok { st := s.updMe fun c => c.setVreg d (putLanes w (c.vreg d) es) }

/-- For each lane of `w` bits, `f` where the mask is on. -/
def onLanes {α : Type} (m : MaskData) (w n : Nat) (f : Nat → α) : List (Option α) :=
  (List.range n).map fun j => if laneOn m w j then some (f j) else none

end Sys2Proof.Machine
end

