-- ==== Sys2Proof/Machine/Engine.lean ====
section
/-!
DEFINITION. Engine words entering their queues and their results being written, and the stream words (01_machine.md R31 to
R34; 05_vector.md R154; 06_streams_matrix.md R162 to R164, R177; 12_recovery.md R347).
-/

namespace Sys2Proof.Machine

/-! ## What an engine word captures (R31, R34) -/

/-- The base register of a memory operand, and whether it is advanced. -/
def VAddr.baseReg : VAddr → Option (BitVec 6)
  | .stream _ => none
  | .base b _ => some (b.setWidth 6)

def VAddr.incReg : VAddr → Option (BitVec 6)
  | .base b (some _) => some (b.setWidth 6)
  | _ => none

def VAddr.streamReg : VAddr → Option (BitVec 4)
  | .stream q => some q
  | .base _ _ => none

/-- The memory operand of a vector memory word. -/
def memOperand : Instr → Option VAddr
  | .vld _ _ _ a _ | .vst _ _ _ a _ | .vlda _ _ _ a _ | .vsta _ _ _ a _ => some a
  | .vgth _ _ _ a _ _ | .vsct _ _ _ a _ _ => some a
  | _ => none

/-- The scalar register captured. -/
def scalarSrc (i : Instr) : Option (BitVec 6) :=
  match i with
  | .vins _ _ _ a .. => some (a.setWidth 6)
  | i => (memOperand i).bind VAddr.baseReg

/-- The first stream register captured. -/
def streamA (i : Instr) : Option (BitVec 4) :=
  match i with
  | .mma _ _ _ _ q .. | .mmas _ _ _ _ q .. => some q
  | .mrd _ _ _ q _ => some q
  | .mwr _ _ q => some q
  | .mldw _ _ _ q => some q
  | i => (memOperand i).bind VAddr.streamReg

/-- The second stream register captured. -/
def streamB (i : Instr) : Option (BitVec 4) :=
  match i with
  | .mma _ _ _ _ _ (.stream q) _ => some q
  | .mmas _ _ _ _ _ (.stream q) .. => some q
  | _ => none

/-- The scalar register marked pending. -/
def marksS (i : Instr) : Option (BitVec 6) :=
  match i with
  | .vext _ _ d .. => some (d.setWidth 6)
  | .mcnt _ d _ => some (d.setWidth 6)
  | i => (memOperand i).bind VAddr.incReg

/-- The condition register marked pending. -/
def marksC : Instr → Option (BitVec 3)
  | .many _ t _ | .mnone _ t _ => some t
  | _ => none

/-- Grid position (y, x) of a core in its set (06_streams_matrix.md R176). -/
def gridPos (size g : Nat) : Nat × Nat :=
  if size = 16 then (g % 16 / 4, g % 4) else if size = 4 then (0, g % 4) else (0, 0)

/-- Whether an MMAS word counts on core `g`: the core stands inside the grid (R177). -/
def State.mmasCounts (s : State) (g : Nat) : Instr → Bool
  | .mmas _ _ _ _ _ _ _ rm1 cm1 =>
    let p := gridPos ((s.taskOf g).elim 1 (·.size)) g
    p.1 ≤ rm1.toNat && p.2 ≤ cm1.toNat
  | _ => false

/-- The queue entry of word `w`. -/
def makeEntry (c : Core) (w : Word) (i : Instr) (p : Engw) (on : Bool) (nth : Nat) : QEntry :=
  let sa := (streamA i).elim StreamReg.reset c.stream
  let sb := (streamB i).elim StreamReg.reset c.stream
  { seq := c.seq, word := w, pc := c.pc, on := on, scalar := (scalarSrc i).elim 0 c.reg,
    sa := sa, sb := sb, pa := effPos c.loops p.q sa, pb := effPos c.loops p.q sb,
    ms := marksS i, mc := marksC i, noWatch := false, nth := nth }

/-- The entry takes its place, and the scalar pipe moves on. -/
def Core.enqueue (c : Core) (e : Eng) (h : QEntry) (counts : Bool) : Core :=
  let x := c.getEng e
  let c := c.setEng e { x with queue := x.queue ++ [h] }
  { c with seq := c.seq + 1, mmasSeen := if counts then c.mmasSeen + 1 else c.mmasSeen }

/-- The word of the scalar pipe enters its engine queue. -/
def execEngineEnqueue (w : Word) (s : State) : Out :=
  match decodeWord w with
  | .error _ => .next s
  | .ok i =>
    match i.engine with
    | none => .next s
    | some (e, p) =>
      let c := s.myCore
      let on := c.isOn p.q
      let full := 32 ≤ (c.getEng e).queue.length
      if c.inh then s.trap { cause := cHNDENG }
      else if full || (on && !c.ready ((scalarSrc i).toList ++ (marksS i).toList) (marksC i).toList) then .next s
      else
        let counts := on && s.mmasCounts s.me i
        let nth := if counts then c.mmasSeen + 1 else 0
        .next (s.updMe fun c => (c.enqueue e (makeEntry c w i p on nth) counts).advance)

/-! ## Results (R33, R34) -/

/-- ENGINE_RESULT_WRITE: engine `e` of core `g` writes the results of its oldest issued word. -/
def execEngineResultWrite (s : State) : Out :=
  let act (g : Nat) (e : Eng) : State := (s.updCore g (·.writeResult e)).tryDeliver g
  match s.arg with
  | .engine g e => .next (act g e)
  | .unit g =>
    match [Eng.load, .store, .arith, .matrix, .permute].find? fun e => ((s.core g).getEng e).inflight != [] with
    | some e => .next (act g e)
    | none => .next s
  | _ => .next s

/-! ## Stream words (R162, R163) -/

/-- Entry `i` of a partition's object table, if the partition may bind it. -/
def State.objEntry (s : State) (p i : Nat) : Option ObjEntry :=
  match (s.part p).objs.find i with
  | some e => if entValid e.bits && entPart e.bits = p then some e else none
  | none => none

/-- The loop levels that an entry binds. -/
def entLevels (e : BitVec 512) : List Nat := ((List.range 4).map (entLv e)).filter (· != 7)

/-- Whether four other bound stream registers already bind a dimension to a level that the entry binds. -/
def Core.affineFull (c : Core) (q : BitVec 4) (e : BitVec 512) : Bool :=
  (entLevels e).any fun v =>
    4 ≤ ((List.range 16).filter fun r =>
      let x := c.q.toArray.getD r .reset
      r != q.toNat && x.bound && (entLevels x.entry).contains v).length

def execQbind (q : Qual) (qa : BitVec 4) (obj : BitVec 16) (s : State) : Out :=
  scalarWord q [] [] s fun s =>
    match s.objEntry (s.partOf s.me) obj.toNat with
    | none => s.trap { cause := cOBJINV, aux := obj.toNat }
    | some e =>
      if s.myCore.affineFull qa e.bits then s.trap { cause := cQAFFINE, aux := qa.toNat }
      else (s.updMe fun c => c.setStream qa ⟨true, obj, e.bits, 0, 0, 0, 0⟩).done

def execQpos (q : Qual) (qa : BitVec 4) (n : BitVec 6) (s : State) : Out :=
  scalarWord q [n] [] s fun s =>
    let c := s.myCore
    let x := c.stream qa
    let v := c.reg n
    if !x.bound then s.trap { cause := cQUNBOUND, aux := qa.toNat }
    else
      (s.updMe fun c => c.setStream qa { x with p0 := fld v 0 24, p1 := fld v 24 24, p2 := fld v 48 8, p3 := fld v 56 8 }).done

def execQadv (q : Qual) (qa : BitVec 4) (n : BitVec 16) (s : State) : Out :=
  scalarWord q [] [] s fun s =>
    let x := s.myCore.stream qa
    if !x.bound then s.trap { cause := cQUNBOUND, aux := qa.toNat }
    else if 2 ^ 24 ≤ x.p1.toNat + n.toNat then s.trap { cause := cQBOUNDS, addr := x.p1.toNat + n.toNat, aux := qa.toNat }
    else (s.updMe fun c => c.setStream qa { x with p1 := x.p1 + n.setWidth 24 }).done

end Sys2Proof.Machine
end

