-- ==== Sys2Proof/Machine/Vector.lean ====
section
/-!
DEFINITION. Vector arithmetic, logic, shifts, comparison, moves, conversions, the Hadamard transform, rotation, reduction,
scan, selection and lookup (05_vector.md R131 to R137, R140 to R144, R147 to R153; 03_numbers.md R68, R69, R76, R92).
-/

namespace Sys2Proof.Machine

/-! ## Elementwise arithmetic (R131, R132) -/

/-- A lane-by-lane result of type `t` computed from the lane's number. -/
def vLanes (p : Engw) (t : Ty) (d : BitVec 5) (m : BitVec 3) (f : Core → Nat → FR) (s : State) : Out :=
  engineWord .arith p (fun _ s =>
    let c := s.myCore
    vResult t d (onLanes (c.mask m) t.bits t.lanes (f c)) s) s

/-- Lane `j` of register `r`. -/
def Core.lane (c : Core) (t : Ty) (r : BitVec 5) (j : Nat) : Nat := laneOf t.bits (c.vreg r) j

/-- An integer result modulo the element width raises nothing. -/
def wrapRes (t : Ty) (x : Int) : FR := (wrapInt t.bits x, 0)

/-- A two-operand arithmetic word: the float form, and the integer form on the element's bits. -/
def vArith2 (p : Engw) (t : Ty) (d a b : BitVec 5) (m : BitVec 3) (ff : Fmt → Rm → Bool → Nat → Nat → FR)
    (fi : Nat → Nat → FR) (s : State) : Out :=
  vLanes p t d m (fun c j =>
    if t.isFloat then ff (fmtOf t) .rne c.ftz (c.lane t a j) (c.lane t b j) else fi (c.lane t a j) (c.lane t b j)) s

def execVadd (p : Engw) (ty : Ty) (d a b : BitVec 5) (m : BitVec 3) (s : State) : Out :=
  vArith2 p ty d a b m fAdd (fun x y => wrapRes ty (x + y)) s

def execVsub (p : Engw) (ty : Ty) (d a b : BitVec 5) (m : BitVec 3) (s : State) : Out :=
  vArith2 p ty d a b m fSub (fun x y => wrapRes ty ((x : Int) - y)) s

def execVmul (p : Engw) (ty : Ty) (d a b : BitVec 5) (m : BitVec 3) (s : State) : Out :=
  vArith2 p ty d a b m fMul (fun x y => wrapRes ty (x * y)) s

/-- VFMA and VFMS: one rounding. -/
def vFused (minus : Bool) (p : Engw) (t : Ty) (d a b c : BitVec 5) (m : BitVec 3) (s : State) : Out :=
  vLanes p t d m (fun k j =>
    let x := k.lane t a j
    let y := k.lane t b j
    let z := k.lane t c j
    if t.isFloat then fFma (fmtOf t) .rne k.ftz minus x y z
    else wrapRes t ((if minus then -((x : Int) * y) else (x : Int) * y) + z)) s

def execVfma (p : Engw) (ty : Ty) (d a b c : BitVec 5) (m : BitVec 3) (s : State) : Out := vFused false p ty d a b c m s
def execVfms (p : Engw) (ty : Ty) (d a b c : BitVec 5) (m : BitVec 3) (s : State) : Out := vFused true p ty d a b c m s

/-- The lesser or the greater of two elements: R75 for floats, the type's signedness for integers. -/
def pickMinMax (t : Ty) (mx : Bool) (x y : Nat) : FR :=
  if t.isFloat then fMinMax t mx x y
  else if mx then (if intOf t x ≤ intOf t y then y else x, 0)
  else (if intOf t x ≤ intOf t y then x else y, 0)

def execVmin (p : Engw) (ty : Ty) (d a b : BitVec 5) (m : BitVec 3) (s : State) : Out :=
  vLanes p ty d m (fun c j => pickMinMax ty false (c.lane ty a j) (c.lane ty b j)) s

def execVmax (p : Engw) (ty : Ty) (d a b : BitVec 5) (m : BitVec 3) (s : State) : Out :=
  vLanes p ty d m (fun c j => pickMinMax ty true (c.lane ty a j) (c.lane ty b j)) s

/-- A lane-by-lane move of elements: no flag and no trap. -/
def vMoves (p : Engw) (w : Nat) (d : BitVec 5) (m : BitVec 3) (f : Core → Nat → Nat) (s : State) : Out :=
  engineWord .arith p (fun _ s =>
    let c := s.myCore
    vMoved w d (onLanes (c.mask m) w (32768 / w) (f c)) s) s

/-- |a|: the sign bit of a float clears; an integer wraps. -/
def absLane (t : Ty) (x : Nat) : Nat :=
  if t.isFloat then x % 2 ^ (t.bits - 1)
  else if t.isSigned && 2 ^ (t.bits - 1) ≤ x then wrapInt t.bits (-(x : Int))
  else x

/-- −a: the sign bit of a float turns over; an integer wraps. -/
def negLane (t : Ty) (x : Nat) : Nat :=
  if t.isFloat then (if x < 2 ^ (t.bits - 1) then x + 2 ^ (t.bits - 1) else x - 2 ^ (t.bits - 1))
  else wrapInt t.bits (-(x : Int))

def execVabs (p : Engw) (ty : Ty) (d a : BitVec 5) (m : BitVec 3) (s : State) : Out :=
  vMoves p ty.bits d m (fun c j => absLane ty (c.lane ty a j)) s

def execVneg (p : Engw) (ty : Ty) (d a : BitVec 5) (m : BitVec 3) (s : State) : Out :=
  vMoves p ty.bits d m (fun c j => negLane ty (c.lane ty a j)) s

/-! ## Logic, shifts and bit fields (R133, R134) -/

/-- A logical word on 32-bit containers. -/
def vLogic (p : Engw) (d a b : BitVec 5) (m : BitVec 3) (f : Nat → Nat → Nat) (s : State) : Out :=
  vMoves p 32 d m (fun c j => f (c.lane .n32 a j) (c.lane .n32 b j)) s

def execVand (p : Engw) (d a b : BitVec 5) (m : BitVec 3) (s : State) : Out := vLogic p d a b m Nat.land s
def execVor (p : Engw) (d a b : BitVec 5) (m : BitVec 3) (s : State) : Out := vLogic p d a b m Nat.lor s
def execVxor (p : Engw) (d a b : BitVec 5) (m : BitVec 3) (s : State) : Out := vLogic p d a b m Nat.xor s
def execVnot (p : Engw) (d a : BitVec 5) (m : BitVec 3) (s : State) : Out := vLogic p d a a m (fun x _ => 2 ^ 32 - 1 - x) s

/-- The count of a shift: the low bits of the element that reach below the width. -/
def laneCount (t : Ty) (x : Nat) : Nat := x % t.bits

def execVshl (p : Engw) (ty : Ty) (d a b : BitVec 5) (m : BitVec 3) (s : State) : Out :=
  vMoves p ty.bits d m (fun c j => c.lane ty a j * 2 ^ laneCount ty (c.lane ty b j) % 2 ^ ty.bits) s

def execVshr (p : Engw) (ty : Ty) (d a b : BitVec 5) (m : BitVec 3) (s : State) : Out :=
  vMoves p ty.bits d m (fun c j => c.lane ty a j / 2 ^ laneCount ty (c.lane ty b j)) s

def execVsar (p : Engw) (ty : Ty) (d a b : BitVec 5) (m : BitVec 3) (s : State) : Out :=
  vMoves p ty.bits d m (fun c j =>
    wrapInt ty.bits (signedOf ty.bits (c.lane ty a j) / (2 : Int) ^ laneCount ty (c.lane ty b j))) s

def execVbfx (p : Engw) (ty : Ty) (d a : BitVec 5) (lenm1 : BitVec 5) (pos : BitVec 6) (m : BitVec 3) (s : State) : Out :=
  vMoves p ty.bits d m (fun c j =>
    let n := lenm1.toNat + 1
    let x := bitsOf (c.lane ty a j) pos.toNat n
    if ty.isSigned then wrapInt ty.bits (signedOf n x) else x) s

def execVfsh (p : Engw) (ty : Ty) (d a b c : BitVec 5) (m : BitVec 3) (s : State) : Out :=
  vMoves p ty.bits d m (fun k j =>
    let n := laneCount ty (k.lane ty c j)
    bitsOf ((k.lane ty a j * 2 ^ ty.bits + k.lane ty b j) * 2 ^ n) ty.bits ty.bits) s

def execVclz (p : Engw) (ty : Ty) (d a : BitVec 5) (m : BitVec 3) (s : State) : Out :=
  vMoves p ty.bits d m (fun c j => ty.bits - bitLen (c.lane ty a j)) s

/-- Number of 1 bits of an element below bit `n`. -/
def onesBelow (x : Nat) : Nat → Nat
  | 0 => 0
  | n + 1 => onesBelow x n + bitsOf x n 1

def execVpopc (p : Engw) (ty : Ty) (d a : BitVec 5) (m : BitVec 3) (s : State) : Out :=
  vMoves p ty.bits d m (fun c j => onesBelow (c.lane ty a j) ty.bits) s

/-! ## Comparison, selection and moves (R135 to R137) -/

/-- The relation of two elements: FCMP's for floats; signed or unsigned for integers (R135). -/
def laneCmp (t : Ty) (k : Cond) (x y : Nat) : Bool × FFlags :=
  if t.isFloat then fCmp (fmtOf t) k x y
  else
    let a := intOf t x
    let b := intOf t y
    (match k with
     | .eq => x = y
     | .ne => x != y
     | .lt => a < b
     | .le => a ≤ b
     | .gt => b < a
     | .ge => b ≤ a
     | .ltn => x < y
     | .gen => y ≤ x, 0)

/-- Bits as a mask, bit 0 first. -/
def maskOf (bs : List Bool) : MaskData := BitVec.ofNat 1024 (bs.foldr (fun b x => bit b + 2 * x) 0)

def execVcmp (p : Engw) (ty : Ty) (cond : Cond) (t : BitVec 3) (a b : BitVec 5) (m : BitVec 3) (s : State) : Out :=
  engineWord .arith p (fun _ s =>
    let c := s.myCore
    let rs := onLanes (c.mask m) 32 1024 fun j => laneCmp ty cond (c.lane ty a j) (c.lane ty b j)
    let bits := rs.map fun r => r.elim false (·.1)
    let fl := rs.foldl (fun f r => f ||| (r.elim 0 (·.2))) 0
    .ok { st := s.updMe fun c => (c.setMask t (maskOf bits)).orFlags fl }) s

def execVsel (p : Engw) (d a b : BitVec 5) (k : BitVec 3) (s : State) : Out :=
  engineWord .arith p (fun _ s =>
    let c := s.myCore
    let m := c.mask k
    vMoved 32 d ((List.range 1024).map fun j => some (if laneOn m 32 j then c.lane .n32 a j else c.lane .n32 b j)) s) s

def execVmov (p : Engw) (d a : BitVec 5) (m : BitVec 3) (s : State) : Out :=
  vMoves p 32 d m (fun c j => c.lane .n32 a j) s

/-- The element that VLI writes (R136). -/
def vliValue (t : Ty) (imm : BitVec 16) : Nat :=
  match t with
  | .f32 => imm.toNat * 2 ^ 16
  | .i32 => wrapInt 32 imm.toInt
  | t => imm.toNat % 2 ^ t.bits

def execVli (p : Engw) (ty : Ty) (d : BitVec 5) (imm : BitVec 16) (m : BitVec 3) (s : State) : Out :=
  vMoves p ty.bits d m (fun _ _ => vliValue ty imm) s

/-- Lane of (row, col). -/
def lanePos (t : Ty) (row : BitVec 4) (col : BitVec 8) : Nat := row.toNat * t.cols + col.toNat

/-- The scalar that an element becomes: sign-extended for .iN, else zero-extended. -/
def laneScalar (t : Ty) (x : Nat) : Word := if t.isSigned then BitVec.ofInt 64 (signedOf t.bits x) else BitVec.ofNat 64 x

def execVext (p : Engw) (ty : Ty) (d : BitVec 5) (a : BitVec 5) (row : BitVec 4) (col : BitVec 8) (s : State) : Out :=
  engineWord .arith p (fun _ s =>
    .ok { st := s, sw := some (d.setWidth 6, laneScalar ty (s.myCore.lane ty a (lanePos ty row col))) }) s

def execVins (p : Engw) (ty : Ty) (d : BitVec 5) (_a : BitVec 5) (row : BitVec 4) (col : BitVec 8) (m : BitVec 3) (s : State) :
    Out :=
  engineWord .arith p (fun h s =>
    let k := lanePos ty row col
    let mk := s.myCore.mask m
    vMoved ty.bits d ((List.range ty.lanes).map fun j =>
      if j = k && laneOn mk ty.bits j then some (h.scalar.toNat % 2 ^ ty.bits) else none) s) s

/-! ## Conversions (R140 to R143) -/

/-- Pairs of a conversion: how many, and the source and destination lane of pair `j` (R140). -/
structure Pairs where
  n : Nat
  src : Nat → Nat
  dst : Nat → Nat

def pairsOf (ns nd p : Nat) : Pairs :=
  ⟨min ns nd, fun j => if nd < ns then p * nd + j else j, fun j => if ns < nd then p * ns + j else j⟩

/-- Whether pair `j` of `n` is masked on. -/
def pairOn (m : MaskData) (n j : Nat) : Bool := m.getLsbD (j / (n / 1024))

/-- The draws of a word that rounds stochastically: `n` values and the generator's state; none otherwise. -/
def takeDraws (rm : Rm) (n : Nat) (x : Word) : List Nat × Word := if rm = .rsto then draws n x else ([], x)

/-- The destination lanes of a conversion: for each, its pair's result. -/
def pairLanes (n lanes p ns : Nat) (rs : List (Option FR)) : LaneRes :=
  if ns < lanes then (List.replicate (p * ns) none) ++ rs ++ List.replicate (lanes - p * ns - n) none
  else rs ++ List.replicate (lanes - n) none

/-- A conversion word: `f` gives a pair's result from its source element and its draw. -/
def vConvert (pw : Engw) (ns nd p ws : Nat) (dst : Ty) (d a : BitVec 5) (rm : Rm) (m : BitVec 3) (check : Core → Option Trap)
    (f : Core → Nat → Nat → FR) (s : State) : Out :=
  engineWord .arith pw (fun _ s =>
    let c := s.myCore
    match check c with
    | some t => .error t
    | none =>
      let pr := pairsOf ns nd p
      let ds := takeDraws rm pr.n c.genV
      let mk := c.mask m
      let rs := (List.range pr.n).map fun j =>
        if pairOn mk pr.n j then some (f c (laneOf ws (c.vreg a) (pr.src j)) (ds.1.getD j 0)) else none
      match vResult dst d (pairLanes pr.n nd p ns rs) s with
      | .error t => .error t
      | .ok r => .ok { r with st := r.st.updMe fun c => { c with genV := ds.2 } }) s

def execVcvt (p : Engw) (dst src : Ty) (d a : BitVec 5) (part : BitVec 2) (rm : Rm) (m : BitVec 3) (s : State) : Out :=
  vConvert p src.lanes dst.lanes part.toNat src.bits dst d a rm m (fun _ => none)
    (fun c x dr => convert src dst rm dr c.ftz (vcvtWidens src dst) x) s

/-- CMPDTBL when a companded form finds the table not armed (R86). -/
def cmpdTrap (cmpd : Bool) (c : Core) : Option Trap := if cmpd && !c.cmpdValid then some { cause := cCMPDTBL } else none

/-- One FP32 value quantised to a format, companded first when asked (R87, R142). -/
def quantLane (c : Core) (cmpd : Bool) (dst : Ty) (rm : Rm) (x dr : Nat) : FR :=
  let v := fmtF32.input c.ftz x
  let y := if cmpd then c.cmpd.forward v.1 else v.1
  let r := (fmtOf dst).deliver rm dr c.ftz y
  (r.1, r.2 ||| v.2)

/-- Whether all mask bits from `32b` on are 1. -/
def blockOn (m : MaskData) (b k : Nat) : Bool := (upFrom (k * b) k).all fun i => m.getLsbD i

/-- Replace bytes `[at, at + n)` of a register. -/
def putBytes (x : VData) (pos : Nat) (bs : List Byte) : VData :=
  (enum bs).foldl (fun x (i, b) =>
    (x &&& ~~~((0xFF : VData) <<< (8 * (pos + i)))) ||| (b.setWidth 32768 <<< (8 * (pos + i)))) x

/-- Bytes of a register. -/
def getBytes (x : VData) (pos n : Nat) : List Byte := natBytes n (x.toNat >>> (8 * pos))

/-- VQNT to .mx4: block `b` of 32 source lanes (R68, R142). -/
def quantBlock (c : Core) (cmpd : Bool) (rm : Rm) (a : BitVec 5) (drs : List Nat) (b : Nat) : List Byte × FFlags × Bool :=
  let xs := (upFrom (32 * b) 32).map fun j => fmtF32.input c.ftz (c.lane .f32 a j)
  let ys := xs.map fun x => if cmpd then c.cmpd.forward x.1 else x.1
  let r := mxQuantize rm ((drs.drop (32 * b)).take 32 ++ List.replicate 32 0) c.ftz ys
  (mxBytes r.1 r.2.1, r.2.2 ||| xs.foldl (fun f x => f ||| x.2) 0, r.1 = 255)

/-- The lowest source lane of block `b` that holds a NaN or an infinity. -/
def badLane (c : Core) (a : BitVec 5) (b : Nat) : Nat :=
  ((upFrom (32 * b) 32).find? fun j => !(fmtF32.decode (c.lane .f32 a j)).isFin).getD (32 * b)

/-- VQNT to .mx4: a block that is not written draws but raises no flags (R142; assumption 65). -/
def vqntMx (p : Engw) (cmpd : Bool) (d a : BitVec 5) (part : BitVec 2) (rm : Rm) (m : BitVec 3) (s : State) : Out :=
  engineWord .arith p (fun _ s =>
    let c := s.myCore
    match cmpdTrap cmpd c with
    | some t => .error t
    | none =>
      let ds := takeDraws rm 1024 c.genV
      let bs := (List.range 32).filter fun b => blockOn (c.mask m) b 32
      let rs := bs.map fun b => (b, quantBlock c cmpd rm a ds.1 b)
      match (if c.nten then rs.find? (fun r => r.2.2.2) else none) with
      | some r => .error (nanLane 64 (badLane c a r.1))
      | none =>
        let x := rs.foldl (fun x r => putBytes x (544 * part.toNat + 17 * r.1) r.2.1) (c.vreg d)
        let fl := rs.foldl (fun f r => f ||| r.2.2.1) 0
        .ok { st := s.updMe fun c => { ((c.setVreg d x).orFlags fl) with genV := ds.2 } }) s

def execVqnt (p : Engw) (ty : Ty) (cmpd : Bool) (d a : BitVec 5) (part : BitVec 2) (rm : Rm) (m : BitVec 3) (s : State) : Out :=
  if ty = .mx4 then vqntMx p cmpd d a part rm m s
  else
    vConvert p 1024 ty.lanes part.toNat 32 ty d a rm m (cmpdTrap cmpd) (fun c x dr => quantLane c cmpd ty rm x dr) s

/-- A decoded value delivered as FP32: ±∞ with OF and NX beyond its range, and then through the inverse when companded. A block scale
and the inverse alone flush, each with FLUSH and nothing else (R67, R84, R88, R142). -/
def deliverDecoded (c : Core) (cmpd scaled : Bool) (v : FV) : FR :=
  if cmpd then
    let y := fmtF32.deliver .rne 0 false v
    let z := c.cmpd.inverse c.ftz (fmtF32.decode y.1)
    let w := fmtF32.deliver .rne 0 false z.1
    (w.1, y.2 ||| z.2 ||| w.2)
  else
    let z := flushIn (c.ftz && scaled) v
    let w := fmtF32.deliver .rne 0 false z.1
    (w.1, z.2 ||| w.2)

/-- FP32 lane `j` of VDQNT from .mx4. -/
def mxLane (c : Core) (cmpd : Bool) (a : BitVec 5) (part j : Nat) : FR :=
  let bs := getBytes (c.vreg a) (544 * part + 17 * (j / 32)) 17
  deliverDecoded c cmpd true (mxValue (byteAt bs 16).toNat (bitsOf (byteAt bs (j % 32 / 2)).toNat (4 * (j % 2)) 4))

def execVdqnt (p : Engw) (ty : Ty) (cmpd : Bool) (d a : BitVec 5) (part : BitVec 2) (m : BitVec 3) (s : State) : Out :=
  if ty = .mx4 then
    engineWord .arith p (fun _ s =>
      let c := s.myCore
      match cmpdTrap cmpd c with
      | some t => .error t
      | none => vResult .f32 d (onLanes (c.mask m) 32 1024 (mxLane c cmpd a part.toNat)) s) s
  else
    vConvert p ty.lanes 1024 part.toNat ty.bits .f32 d a .rne m (cmpdTrap cmpd)
      (fun c x _ => deliverDecoded c cmpd false ((fmtOf ty).decode x)) s

/-- VPACK6: group `g` of four lanes, packed in three bytes. -/
def packGroup (c : Core) (t : Ty) (a : BitVec 5) (g : Nat) : List Byte × FFlags :=
  let rs := (upFrom (4 * g) 4).map fun j =>
    let v := fmtF32.input c.ftz (c.lane .f32 a j)
    let r := (fmtOf t).deliver .rne 0 c.ftz v.1
    (r.1, r.2 ||| v.2)
  (natBytes 3 (packLanes 6 (rs.map (·.1))), rs.foldl (fun f r => f ||| r.2) 0)

/-- VPACK6: a group that is not written raises no flags (R143; assumption 65). -/
def execVpack6 (p : Engw) (ty : Ty) (d a : BitVec 5) (part : BitVec 2) (m : BitVec 3) (s : State) : Out :=
  engineWord .arith p (fun _ s =>
    let c := s.myCore
    let gs := (List.range 256).filter fun g => blockOn (c.mask m) g 4
    let rs := gs.map fun g => (g, packGroup c ty a g)
    let x := rs.foldl (fun x r => putBytes x (768 * part.toNat + 3 * r.1) r.2.1) (c.vreg d)
    .ok { st := s.updMe fun c => (c.setVreg d x).orFlags (rs.foldl (fun f r => f ||| r.2.2) 0) }) s

/-- The six-bit element `j` of part `p`. -/
def sixBit (c : Core) (a : BitVec 5) (part j : Nat) : Nat :=
  bitsOf (bytesNat (getBytes (c.vreg a) (768 * part + 3 * (j / 4)) 3)) (6 * (j % 4)) 6

/-- Whether a six-bit type converts to an FP8 type exactly (R143). -/
def sixExact (dst src : Ty) : Bool := !(src = .f6b && dst = .f8b)

def execVunpk6 (p : Engw) (dst src : Ty) (d a : BitVec 5) (part : BitVec 2) (rm : Rm) (m : BitVec 3) (s : State) : Out :=
  engineWord .arith p (fun _ s =>
    let c := s.myCore
    let ds := takeDraws rm 1024 c.genV
    let rs : List (Option FR) := (List.range 1024).map fun j =>
      if (c.mask m).getLsbD j then
        some ((fmtOf dst).deliver rm (ds.1.getD j 0) (c.ftz && !sixExact dst src) ((fmtOf src).decode (sixBit c a part.toNat j)))
      else none
    match vResult dst d (List.replicate (1024 * part.toNat) none ++ rs ++ List.replicate (3072 - 1024 * part.toNat) none) s with
    | .error t => .error t
    | .ok r => .ok { r with st := r.st.updMe fun c => { c with genV := ds.2 } }) s

/-! ## Hadamard (R144) -/

/-- One level of the transform on FP32 bits: pairs at distance `h`. -/
def hadLevel (ftz : Bool) (h : Nat) (xs : List FR) : List FR :=
  (enum xs).map fun (i, x) =>
    let even := bitsOf (i / h) 0 1 = 0
    let u := if even then x else xs.getD (i - h) (0, 0)
    let w := if even then xs.getD (i + h) (0, 0) else x
    let r := if even then fAdd fmtF32 .rne ftz u.1 w.1 else fSub fmtF32 .rne ftz u.1 w.1
    (r.1, r.2 ||| u.2 ||| w.2)

/-- The levels 1, 2, 4, … below `n`. -/
def hadLevels (ftz : Bool) (n : Nat) : Nat → Nat → List FR → List FR
  | 0, _, xs => xs
  | f + 1, h, xs => if h < n then hadLevels ftz n f (2 * h) (hadLevel ftz h xs) else xs

/-- Widen an element exactly to FP32, flushing it as an input (R84). -/
def widenIn (t : Ty) (ftz : Bool) (x : Nat) : FR :=
  let v := (fmtOf t).input ftz x
  let r := fmtF32.deliver .rne 0 false v.1
  (r.1, r.2 ||| v.2)

/-- Round an FP32 value to the element type. -/
def narrowTo (t : Ty) (ftz : Bool) (x : FR) : FR :=
  let r := (fmtOf t).deliver .rne 0 ftz (fmtF32.decode x.1)
  (r.1, r.2 ||| x.2)

/-- The lanes of the register after the transform of every group of `n`. -/
def hadLanes (c : Core) (t : Ty) (a : BitVec 5) (n : Nat) : List FR :=
  ((List.range (t.lanes / n)).map fun g =>
    (hadLevels c.ftz n 6 1 ((upFrom (n * g) n).map fun j => widenIn t c.ftz (c.lane t a j))).map (narrowTo t c.ftz)).flatten

/-- VHAD: the additions that feed a masked-on element record their flags; those that feed only masked-off ones do not (R144;
assumption 65). -/
def execVhad (p : Engw) (ty : Ty) (d a : BitVec 5) (n : BitVec 6) (m : BitVec 3) (s : State) : Out :=
  engineWord .arith p (fun _ s =>
    let c := s.myCore
    let mk := c.mask m
    let rs : LaneRes := (enum (hadLanes c ty a n.toNat)).map fun (j, r) => if laneOn mk ty.bits j then some r else none
    vResult ty d rs s) s

/-! ## Rotation and broadcast (R147) -/

/-- A move within a register: destination (r, c) takes the source lane that `f` names. -/
def vShuffle (p : Engw) (t : Ty) (d a : BitVec 5) (m : BitVec 3) (f : Nat → Nat → Nat × Nat) (s : State) : Out :=
  vMoves p t.bits d m (fun c j =>
    let x := f (j / t.cols) (j % t.cols)
    c.lane t a (x.1 * t.cols + x.2)) s

def execVrotr (p : Engw) (ty : Ty) (d a : BitVec 5) (k : BitVec 8) (m : BitVec 3) (s : State) : Out :=
  vShuffle p ty d a m (fun r c => (r, (c + ty.cols - k.toNat) % ty.cols)) s

def execVrotc (p : Engw) (ty : Ty) (d a : BitVec 5) (k : BitVec 8) (m : BitVec 3) (s : State) : Out :=
  vShuffle p ty d a m (fun r c => ((r + 16 - k.toNat) % 16, c)) s

def execVbcr (p : Engw) (ty : Ty) (d a : BitVec 5) (k : BitVec 8) (m : BitVec 3) (s : State) : Out :=
  vShuffle p ty d a m (fun r _ => (r, k.toNat)) s

def execVbcc (p : Engw) (ty : Ty) (d a : BitVec 5) (k : BitVec 8) (m : BitVec 3) (s : State) : Out :=
  vShuffle p ty d a m (fun _ c => (k.toNat, c)) s

/-! ## Reductions and scans (R92, R148) -/

/-- The identity that a masked-off lane contributes; floats are held as FP32 bits. -/
def redIdentity (t : Ty) (op : RedOp) : Nat :=
  if t.isFloat then
    match op with
    | .min => fmtF32.infCode
    | .max => fmtF32.signed true fmtF32.infCode
    | _ => fmtF32.signed true 0
  else
    match op with
    | .add | .or | .xor => 0
    | .and => 2 ^ t.bits - 1
    | .min => wrapInt t.bits (intMax t)
    | .max => wrapInt t.bits (intMin t)

/-- Combine two partial results; their own flags are carried apart. -/
def redStep (t : Ty) (op : RedOp) (ftz : Bool) (x y : Nat) : FR :=
  if t.isFloat then
    match op with
    | .min => fMinMax .f32 false x y
    | .max => fMinMax .f32 true x y
    | _ => fAdd fmtF32 .rne ftz x y
  else
    match op with
    | .add => wrapRes t (x + y)
    | .min => pickMinMax t false x y
    | .max => pickMinMax t true x y
    | .and => (x &&& y, 0)
    | .or => (x ||| y, 0)
    | .xor => (x ^^^ y, 0)

/-- The element as the reduction takes it: a float widened exactly to FP32, flushed as an input only where it is added. A
signalling NaN stays one, so that the combination or the final rounding raises NV. -/
def redInput (t : Ty) (op : RedOp) (ftz : Bool) (x : Nat) : FR :=
  if t.isFloat then
    let v := (fmtOf t).input (ftz && op = .add) x
    match v.1 with
    | .nan q => (fmtF32.infCode + (if q then 2 ^ 22 else 1), v.2)
    | y => ((fmtF32.deliver .rne 0 false y).1, v.2)
  else (x, 0)

/-- A final value as an element: floats round to the type, min and max never flushing (R84). Where masked-off lanes leave a min or max
at its infinite identity, a type without infinities takes it as the final rounding does, with OF and NX (R72, R92; assumption 63). -/
def redOut (t : Ty) (op : RedOp) (ftz : Bool) (x : FR) : FR :=
  if t.isFloat then
    let r := (fmtOf t).deliver .rne 0 (ftz && op = .add) (fmtF32.decode x.1)
    (r.1, r.2 ||| x.2)
  else x

/-- One level of the pairwise tree; flags accumulate. -/
def treeLevel (f : Nat → Nat → FR) : List FR → List FR
  | x :: y :: rest => (let r := f x.1 y.1; (r.1, r.2 ||| x.2 ||| y.2)) :: treeLevel f rest
  | l => l

def tree (f : Nat → Nat → FR) : Nat → List FR → FR
  | 0, l => l.headD (0, 0)
  | n + 1, l => tree f n (treeLevel f l)

/-- The inputs of row `r` or of a column: masked-off lanes give the identity. -/
def redIn (c : Core) (t : Ty) (op : RedOp) (a : BitVec 5) (m : MaskData) (j : Nat) : FR :=
  if laneOn m t.bits j then redInput t op c.ftz (c.lane t a j) else (redIdentity t op, 0)

def rowLanes (t : Ty) (r : Nat) : List Nat := upFrom (r * t.cols) t.cols

def colLanes (t : Ty) (k : Nat) : List Nat := (List.range 16).map fun r => r * t.cols + k

/-- Inclusive prefixes, left to right. -/
def scan (f : Nat → Nat → FR) : Option FR → List FR → List FR
  | _, [] => []
  | none, x :: xs => x :: scan f (some x) xs
  | some y, x :: xs => let r := f y.1 x.1; let z := (r.1, r.2 ||| x.2); z :: scan f (some z) xs

def execVredr (p : Engw) (op : RedOp) (ty : Ty) (d a : BitVec 5) (m : BitVec 3) (s : State) : Out :=
  engineWord .arith p (fun _ s =>
    let c := s.myCore
    let mk := c.mask m
    let rs := (List.range 16).map fun r =>
      redOut ty op c.ftz (tree (redStep ty op c.ftz) 8 ((rowLanes ty r).map (redIn c ty op a mk)))
    vResult ty d (onLanes mk ty.bits ty.lanes fun j => rs.getD (j / ty.cols) (0, 0)) s) s

def execVredc (p : Engw) (op : RedOp) (ty : Ty) (d a : BitVec 5) (m : BitVec 3) (s : State) : Out :=
  engineWord .arith p (fun _ s =>
    let c := s.myCore
    let mk := c.mask m
    let rs := (List.range ty.cols).map fun k =>
      redOut ty op c.ftz (tree (redStep ty op c.ftz) 4 ((colLanes ty k).map (redIn c ty op a mk)))
    vResult ty d (onLanes mk ty.bits ty.lanes fun j => rs.getD (j % ty.cols) (0, 0)) s) s

def execVscanr (p : Engw) (op : RedOp) (ty : Ty) (d a : BitVec 5) (m : BitVec 3) (s : State) : Out :=
  engineWord .arith p (fun _ s =>
    let c := s.myCore
    let mk := c.mask m
    let rs := ((List.range 16).map fun r =>
      (scan (redStep ty op c.ftz) none ((rowLanes ty r).map (redIn c ty op a mk))).map (redOut ty op c.ftz)).flatten
    let out : LaneRes := (enum rs).map fun (j, r) => if laneOn mk ty.bits j then some r else none
    vResult ty d out s) s

/-! ## Selection and lookup (R149 to R153) -/

def execVrkey (p : Engw) (ty : Ty) (d a : BitVec 5) (m : BitVec 3) (s : State) : Out :=
  vMoves p ty.bits d m (fun c j => keyOf ty (c.lane ty a j)) s

/-- Add one to counter `b` of a list. -/
def countUp (cs : List Nat) (b : Nat) : List Nat := cs.modify b fun x => (x + 1) % 2 ^ 32

def execVhist (p : Engw) (ty : Ty) (d a : BitVec 5) (pos : BitVec 6) (m : BitVec 3) (s : State) : Out :=
  engineWord .arith p (fun _ s =>
    let c := s.myCore
    let mk := c.mask m
    let js := (List.range ty.lanes).filter fun j => laneOn mk ty.bits j
    let cs := js.foldl (fun cs j => countUp cs (bitsOf (c.lane ty a j) pos.toNat 8)) (lanesOf 32 256 (c.vreg d))
    vMoved 32 d (cs.map some ++ List.replicate 768 none) s) s

/-- Insert lane `j` with key `k` into lanes held by falling key, then rising lane. -/
def insertKey (j k : Nat) : List (Nat × Nat) → List (Nat × Nat)
  | [] => [(j, k)]
  | (i, x) :: t => if x < k then (j, k) :: (i, x) :: t else (i, x) :: insertKey j k t

def execVselk (p : Engw) (d a b : BitVec 5) (km1 : BitVec 6) (m : BitVec 3) (s : State) : Out :=
  engineWord .arith p (fun _ s =>
    let c := s.myCore
    let js := (List.range 1024).filter fun j => laneOn (c.mask m) 32 j
    let best := js.foldl (fun l j => insertKey j (c.lane .n32 a j) l) []
    let n := min (km1.toNat + 1) js.length
    let top := (best.take n).map (·.1)
    let row0 := (List.range 64).map fun i => some (top.getD i 0xFFFFFFFF)
    let row1 := (List.range 64).map fun i => some ((top[i]?).elim 0x7FC00000 fun j => c.lane .n32 b j)
    let row2 := (List.range 64).map fun i => some (if i = 0 then n else 0)
    vMoved 32 d (row0 ++ row1 ++ row2 ++ List.replicate 832 none) s) s

def execVcomp (p : Engw) (ty : Ty) (d a : BitVec 5) (m : BitVec 3) (s : State) : Out :=
  engineWord .arith p (fun _ s =>
    let c := s.myCore
    let es := ((List.range 1024).filter fun j => laneOn (c.mask m) 32 j).map fun j => some (c.lane ty a j)
    vMoved 32 d (es ++ List.replicate (1024 - es.length) none) s) s

def execVlut (p : Engw) (ty : Ty) (d a b : BitVec 5) (m : BitVec 3) (s : State) : Out :=
  vMoves p 32 d m (fun c j =>
    let i := c.lane ty a j
    if i < 1024 then c.lane ty b i else 0) s

end Sys2Proof.Machine
end

