-- ==== Sys2Proof/Machine/Matrix.lean ====
section
/-!
DEFINITION. The matrix engine: tiles, products, the weight buffer, and the rendezvous of a cluster set (03_numbers.md R89 to R91,
R94; 06_streams_matrix.md R167 to R178).
-/

namespace Sys2Proof.Machine

/-! ## Tiles (R167) -/

def Core.tile (c : Core) (t : BitVec 2) : TileData := c.t.toArray.getD t.toNat 0

/-- Element (i, j) of a tile. -/
def tileEl (x : TileData) (i j : Nat) : Nat := bitsOf x.toNat (32 * (128 * i + j)) 32

/-- A tile with elements replaced, row by row; `none` keeps the old value. -/
def putTile (old : TileData) (es : List (Option Nat)) : TileData :=
  BitVec.ofNat 524288 (packLanes 32 ((enum es).map fun (k, e) => e.getD (tileEl old (k / 128) (k % 128))))

def Core.setTile (c : Core) (t : BitVec 2) (x : TileData) (k : TKind) : Core :=
  { c with t := c.t.setIfInBounds t.toNat x, tkind := c.tkind.setIfInBounds t.toNat k }

/-! ## Operand rows (R161, R168, R172) -/

/-- Products in a k-step (R168). -/
def kStep (t : Ty) : Nat :=
  match t with
  | .mx4 => 128
  | .bf16 | .f16 => 32
  | _ => 64

/-- The element type of B: the other FP8 format in the two-format forms (R168). -/
def bType (t : Ty) (alt : Bool) : Ty := if alt then (if t = .f8a then .f8b else .f8a) else t

/-- Stored bytes of `n` elements (R173). -/
def storedBytes (t : Ty) (n : Nat) : Nat := if t = .mx4 then n / 32 * 17 else n * fmtBytes t

/-- The pieces of memory that hold `n` elements from position `p`: address and length of each. -/
def rowPieces (e : BitVec 512) (p : Pos) (n : Nat) : List (Nat × Nat) :=
  if entFmt e = .mx4 then (List.range (n / 32)).map fun (b : Nat) => (addr64 (entAddr e { p with p0 := p.p0 + 32 * b }), 17)
  else [(addr64 (entAddr e p), n * fmtBytes (entFmt e))]

/-- A located piece: address, location, length. -/
abbrev Piece := Nat × Nat × Nat

/-- Runs of locations with the addresses that reach them. -/
def withVa : Nat → List (Nat × Nat) → List Piece
  | _, [] => []
  | va, (loc, n) :: rs => (va, loc, n) :: withVa (va + n) rs

/-- The locations of pieces, or the first that fails. -/
def locatePieces (s : State) (w : Who) (need : Need) : List (Nat × Nat) → Except AFault (List Piece)
  | [] => .ok []
  | (va, n) :: ps =>
    match resolveRange s w need va n with
    | .error e => .error e
    | .ok rs =>
      match locatePieces s w need ps with
      | .error e => .error e
      | .ok ls => .ok (withVa va rs ++ ls)

/-- The bytes of pieces as the core sees them: also of a row block that an MMAS fetches for several cores, each with its own buffered
bytes over it (R177; assumption 72). -/
def State.pieceBytes (s : State) (g : Nat) (ps : List Piece) : List Byte :=
  (ps.map fun p => s.coreBytes g p.2.1 p.2.2).flatten

/-- Watchpoints of other cores meet each piece. -/
def State.piecesRead (s : State) (g : Nat) (ps : List Piece) : State := ps.foldl (fun s p => s.homeRead g p.2.1 p.2.2) s

/-- The first byte of pieces that holds an uncorrectable error. -/
def State.piecesUnc (s : State) (ps : List Piece) : Option Trap :=
  (ps.find? fun p => s.unc p.2.1 p.2.2).map fun p => { cause := cMEMUNC, addr := p.1 }

/-- Every slot of a core that matches a piece. -/
def Core.pieceHits (c : Core) (write : Bool) (ps : List Piece) : BitVec 4 := ps.foldl (fun b p => b ||| c.wpHits write p.2.1 p.2.2) 0

/-- The core's own watchpoints on pieces: the first that matches, named by its first watched byte; `hits` holds every slot that the word's
accesses match. -/
def watchPieces (s : State) (stage : Nat) (again write : Bool) (ps : List Piece) (hits : BitVec 4) : Except Trap State :=
  match ps.find? fun p => (s.myCore.wpMatch write p.2.1 p.2.2).isSome with
  | none => .ok s
  | some p =>
    let w := ((s.myCore.wpMatch write p.2.1 p.2.2).bind fun i => s.myCore.wp[i]?).elim 0 (·.loc)
    s.watchOwn s.me stage again write (p.1 + (w - p.2.1)) p.2.1 p.2.2 hits

/-- The elements that stored bytes hold. -/
def rowElems (t : Ty) (n : Nat) (bs : List Byte) : List FV :=
  if t = .mx4 then ((List.range (n / 32)).map fun b => mxBlock (bytesAt bs (17 * b) 17)).flatten
  else
    let w := fmtBytes t
    (List.range n).map fun i => (fmtOf t).decode (natAt bs (w * i) w)

/-- Operand elements as the engine takes them: companding undone, subnormals flushed (R84, R88). -/
def operand (c : Core) (cmpd : Bool) (v : FV) : FV × FFlags :=
  if cmpd then c.cmpd.inverse c.ftz v else flushIn c.ftz v

def operandRow (c : Core) (cmpd : Bool) (t : Ty) (n : Nat) (bs : List Byte) : List FV × FFlags :=
  let xs := (rowElems t n bs).map (operand c cmpd)
  (xs.map (·.1), xs.foldl (fun f x => f ||| x.2) 0)

def intRow (n : Nat) (bs : List Byte) : List Int := (List.range n).map fun i => signedOf 8 (byteAt bs i).toNat

/-! ## The product (R89, R90) -/

/-- One k-step into an accumulator: bits, flags, and the first k-step whose result was a NaN. -/
structure Acc where
  x : Nat
  fl : FFlags
  nan : Option Nat
  deriving DecidableEq, Repr, Inhabited

def accStep (ftz : Bool) (a : Acc) (k : Nat) (ps : List FV) : Acc :=
  let kr := fmtF32.deliver .rne 0 ftz (exactSum ps)
  let r := fAdd fmtF32 .rne ftz a.x kr.1
  { x := r.1, fl := a.fl ||| kr.2 ||| r.2
    nan := if a.nan.isSome then a.nan else if isNanBits .f32 r.1 then some k else none }

/-- A float element: k-steps of `ka` products in increasing order. -/
def accElem (ftz : Bool) (n ka : Nat) (acc : Nat) (ra rb : List FV) : Acc :=
  ((chunks ka n (List.zipWith FV.mul ra rb)).zip (List.range n)).foldl (fun a x => accStep ftz a x.2 x.1) ⟨acc, 0, none⟩

/-- An integer element modulo 2^32. -/
def accInt (acc : Nat) (ra rb : List Int) : Acc :=
  ⟨wrapInt 32 (acc + (List.zipWith (· * ·) ra rb).foldl (· + ·) 0), 0, none⟩

/-- Elements of a 128 × 128 tile, row by row: `f` where both rows exist. -/
def tileMap {α β : Type} (ra rb : List (Option α)) (f : Nat → Nat → α → α → β) : List (Option β) :=
  ((enum ra).map fun (i, a) => (enum rb).map fun (j, b) =>
    match a, b with
    | some a, some b => some (f i j a b)
    | _, _ => none).flatten

/-- The NaN that a matrix trap names: lowest k-step, then row, then column (R94). -/
def firstNan (es : List (Option Acc)) : Option (Nat × Nat) :=
  (enum es).foldl (fun r (p, a) =>
    match a.bind (·.nan) with
    | none => r
    | some k => match r with
      | some (k', _) => if k < k' then some (k, p) else r
      | none => some (k, p)) none

/-- The trap of element `p` (row by row) of tile `t` at k-step `k`. -/
def nanTile (t : BitVec 2) (k p : Nat) : Trap :=
  { cause := cNANTRAP, lane := some (p / 128, p % 128), tile := some (t.toNat, k) }

/-! ## Issue checks of MMA and MMAS (R170) -/

/-- One stream operand of a matrix word: its register, entry, position and type. -/
structure MxStream where
  q : Nat
  reg : StreamReg
  pos : Pos
  ty : Ty
  deriving DecidableEq, Repr, Inhabited

def mxUnbound (xs : List MxStream) : Option Trap :=
  (xs.find? fun x => !x.reg.bound).map fun x => { cause := cQUNBOUND, aux := x.q }

def mxFormat (xs : List MxStream) : Option Trap :=
  (xs.find? fun x => entFmt x.reg.entry != x.ty || !x.ty.isMatrix).map fun x => { cause := cQFMT, aux := x.q }

def mxRight (xs : List MxStream) : Option Trap :=
  (xs.find? fun x => !entRight x.reg.entry 2).map fun x => { cause := cQRIGHTS, aux := x.q, addr := addr64 (entAddr x.reg.entry x.pos) }

def mxCmpd (c : Core) (xs : List MxStream) : Option Trap :=
  (xs.find? fun x => entCmpd x.reg.entry && !c.cmpdValid).map fun x => { cause := cCMPDTBL, aux := x.q }

/-- The first position of a stream that does not fit: `n` elements along dimension 0 when given. -/
def mxBadPos (x : MxStream) (n : Option Nat) : Option Pos :=
  let e := x.reg.entry
  let p := x.pos
  if p.p0 < 0 || (x.ty = .mx4 && p.p0 % 32 != 0) || p.p1 < 0 || (entExt e 1 : Int) ≤ p.p1 ||
     p.p2 < 0 || (entExt e 2 : Int) ≤ p.p2 || p.p3 < 0 || (entExt e 3 : Int) ≤ p.p3 then some p
  else
    match n with
    | some n => if (entExt e 0 : Int) < p.p0 + n then some { p with p0 := max p.p0 (entExt e 0) } else none
    | none => none

def mxBounds (xs : List MxStream) (n : Option Nat) : Option Trap :=
  xs.findSome? fun x => (mxBadPos x n).map fun p => { cause := cQBOUNDS, aux := x.q, addr := addr64 (entAddr x.reg.entry p) }

/-- The tile's kind does not fit: AUX names the tile (assumption 21). -/
def mxKind (c : Core) (ty : Ty) (td : BitVec 2) : Option Trap :=
  let bad : Bool := match c.tk td.toNat with
    | .zero => false
    | .float => ty == .i8
    | .int => ty != .i8
  if bad then some { cause := cTKIND, aux := td.toNat } else none

/-- Whether the weight buffer serves `n` k-steps of a type. A type that differs is WBUF, as R170 step 7 has it, not R168's QFMT
(assumption 59). -/
def mxWbuf (c : Core) (ty : Ty) (n : Nat) : Option Trap :=
  if c.wbuf.valid && c.wbuf.ty = ty && n ≤ c.wbuf.kld then none else some { cause := cWBUF }

/-- The rows of a stream that exist below `128 × off`: for each, its pieces. -/
def mxRows (x : MxStream) (off n : Nat) : List (Option (List (Nat × Nat))) :=
  (List.range 128).map fun (i : Nat) =>
    let p1 := x.pos.p1 + 128 * off + i
    if p1 < entExt x.reg.entry 1 then some (rowPieces x.reg.entry { x.pos with p1 := p1 } n) else none

/-- Locate every row. -/
def locateRows (s : State) (w : Who) : List (Option (List (Nat × Nat))) → Except AFault (List (Option (List Piece)))
  | [] => .ok []
  | none :: rs => (locateRows s w rs).map fun xs => none :: xs
  | some ps :: rs =>
    match locatePieces s w .rd ps with
    | .error e => .error e
    | .ok x => (locateRows s w rs).map fun xs => some x :: xs

/-- What the checks leave: the located rows of A, and of B unless it comes from the weight buffer. -/
structure MxReady where
  a : List (Option (List Piece))
  b : List (Option (List Piece))

/-- The operands of a product word. -/
structure MxWord where
  ty : Ty
  alt : Bool
  td : BitVec 2
  qa : BitVec 4
  b : BSrc
  n : Nat
  y : Nat
  x : Nat
  deriving DecidableEq, Repr, Inhabited

def MxWord.streams (w : MxWord) (h : QEntry) : List MxStream :=
  ⟨w.qa.toNat, h.sa, h.pa, w.ty⟩ ::
  (match w.b with
   | .stream q => [⟨q.toNat, h.sb, h.pb, bType w.ty w.alt⟩]
   | .wb => [])

/-- The companded weight buffer needs an armed table too: its bytes are decoded as they are used. -/
def Core.wbCmpd (c : Core) : Bool := c.wbuf.last.elim false fun e => entCmpd e.sa.entry

/-- The report of a failed address, as in step 8 of R170: AUX names the stream (or the object of a copy's record, R238), unless the
translation's own word stands there. -/
def mxAddr (q : Nat) (e : AFault) : Trap :=
  if e.cause = cWINBOUND || e.cause = cCTLACCESS then { e.trap with aux := q } else e.trap

/-- The checks of R170 for core `g`. -/
def mxCheck (s : State) (g : Nat) (w : MxWord) (h : QEntry) : Except Trap MxReady :=
  let c := s.core g
  let xs := w.streams h
  let count := w.n * kStep w.ty
  let wbC := if w.b = .wb && c.wbuf.valid && c.wbCmpd && !c.cmpdValid then some ({ cause := cCMPDTBL } : Trap) else none
  match mxUnbound xs <|> mxFormat xs <|> mxRight xs <|> mxCmpd c xs <|> wbC <|> mxKind c w.ty w.td <|> mxBounds xs (some count) <|>
      (if w.b = .wb then mxWbuf c (bType w.ty w.alt) w.n else none) with
  | some t => .error t
  | none =>
    match locateRows s (s.whoCore g) (mxRows ⟨w.qa.toNat, h.sa, h.pa, w.ty⟩ w.y count) with
    | .error e => .error (mxAddr w.qa.toNat e)
    | .ok ra =>
      match w.b with
      | .wb => .ok ⟨ra, []⟩
      | .stream q =>
        match locateRows s (s.whoCore g) (mxRows ⟨q.toNat, h.sb, h.pb, bType w.ty w.alt⟩ w.x count) with
        | .error e => .error (mxAddr q.toNat e)
        | .ok rb => .ok ⟨ra, rb⟩

/-- Every piece of located rows. -/
def allPieces (rs : List (Option (List Piece))) : List Piece := (rs.map fun r => r.getD []).flatten

/-- The stored bytes of `n` k-steps of weight-buffer row `j`, from KCUR on, modulo KLD (R175). -/
def wbRow (b : WBuf) (n ka : Nat) (row : List Byte) : List Byte :=
  ((List.range n).map fun k => bytesAt row (storedBytes b.ty (((b.kcur + k) % b.kld) * ka)) (storedBytes b.ty ka)).flatten

/-- Rows of stored bytes, as the word reads them. -/
def mxBytes2 (s : State) (g : Nat) (w : MxWord) (r : MxReady) : List (Option (List Byte)) × List (Option (List Byte)) :=
  let c := s.core g
  let get (rs : List (Option (List Piece))) := rs.map fun x => x.map (s.pieceBytes g)
  (get r.a, match w.b with
    | .stream _ => get r.b
    | .wb => (List.range 128).map fun j => (c.wbuf.rows[j]?).map (wbRow c.wbuf w.n (kStep w.ty)))

/-- The elements of the product. -/
def mxProduct (c : Core) (w : MxWord) (h : QEntry) (ab bb : List (Option (List Byte))) : List (Option Acc) × FFlags :=
  let ka := kStep w.ty
  let count := w.n * ka
  let t := c.tile w.td
  if w.ty = .i8 then
    (tileMap (ab.map fun x => x.map (intRow count)) (bb.map fun x => x.map (intRow count)) fun i j a b => accInt (tileEl t i j) a b, 0)
  else
    let cb := match w.b with | .stream _ => entCmpd h.sb.entry | .wb => c.wbCmpd
    let ra := ab.map fun x => x.map (operandRow c (entCmpd h.sa.entry) w.ty count)
    let rb := bb.map fun x => x.map (operandRow c cb (bType w.ty w.alt) count)
    let fl := (ra ++ rb).foldl (fun f r => f ||| (r.elim 0 (·.2))) 0
    (tileMap ra rb fun i j a b => accElem c.ftz w.n ka (tileEl t i j) a.1 b.1, fl)

/-- The pieces of both operands. -/
def MxReady.pieces (r : MxReady) : List Piece := allPieces r.a ++ allPieces r.b

/-- A product word whose checks have passed. `fetch` is what the core itself reads at home: all pieces, but for an MMAS, whose blocks are
fetched once for all (R177). A watchpoint is the last check of all (12_recovery.md R364). -/
def mxIssue (w : MxWord) (h : QEntry) (r : MxReady) (fetch : List Piece) (s : State) : Except Trap EngRes :=
  let g := s.me
  match s.piecesUnc r.pieces with
  | some t => .error t
  | none =>
    let c := s.myCore
    let bs := mxBytes2 s g w r
    let pr := mxProduct c w h bs.1 bs.2
    match (if c.nten then firstNan pr.1 else none) with
    | some (k, p) => .error (nanTile w.td k p)
    | none =>
      match watchPieces s (wordStage h.word) h.noWatch false r.pieces (c.pieceHits false r.pieces) with
      | .error t => .error t
      | .ok s =>
        let fl := pr.1.foldl (fun f a => f ||| (a.elim 0 (·.fl))) pr.2
        let x := putTile (c.tile w.td) (pr.1.map fun a => a.map (·.x))
        let k := if w.ty = .i8 then TKind.int else .float
        let b := if w.b = .wb then { c.wbuf with kcur := (c.wbuf.kcur + w.n) % c.wbuf.kld } else c.wbuf
        .ok { st := (s.piecesRead g fetch).updMe fun c => { ((c.setTile w.td x k).orFlags fl) with wbuf := b } }

def execMma (p : Engw) (ty : Ty) (alt : Bool) (td : BitVec 2) (qa : BitVec 4) (b : BSrc) (n : BitVec 16) (s : State) : Out :=
  let w : MxWord := ⟨ty, alt, td, qa, b, n.toNat, 0, 0⟩
  engineWordIf .matrix p State.pavRuns (fun h s =>
    match mxCheck s s.me w h with
    | .error t => .error t
    | .ok r => mxIssue w h r r.pieces s) s

/-! ## MMAS (R176, R177) -/

/-- The participants of a grid of `rows × cols` in a task's set. -/
def participants (t : Task) (rows cols : Nat) : List Nat :=
  t.cores.filter fun g => let p := gridPos t.size g; p.1 < rows && p.2 < cols

/-- The head of a core's MQ. -/
def Core.mqHead (c : Core) : Option QEntry := (c.getEng .matrix).queue.head?

/-- The product word that an MMAS entry is on core `g` of a set of `size`. -/
def mmasWord (size g : Nat) (h : QEntry) : Option (Engw × MxWord) :=
  match decodeWord h.word with
  | .ok (.mmas p ty alt td qa b n _ _) =>
    let pos := gridPos size g
    some (p, ⟨ty, alt, td, qa, b, n.toNat, pos.1, if b = .wb then 0 else pos.2⟩)
  | _ => none

/-- Whether core `g` stands at its `nth` MMAS with its own checks passed. -/
def State.atMmas (s : State) (size nth g : Nat) : Bool :=
  let c := s.core g
  match c.mqHead with
  | none => false
  | some h =>
    h.on && h.nth = nth && !c.holds h && !(c.issueCycle = s.cycle && h.seq < c.issueSeq) &&
    match mmasWord size g h with
    | some (p, w) => c.tokensReady p && (mxCheck s g w h).isOk
    | none => false

/-- Whether two entries hold one word and one captured state of the streams it names (the second stream of a `wb` form is the
unbound one in each). -/
def sameMmas (a b : QEntry) : Bool := a.word = b.word && a.sa = b.sa && a.pa = b.pa && a.sb = b.sb && a.pb = b.pb

/-- Every participant still at the matched MMAS faults MSETMIS. -/
def State.mismatch (s : State) (nth : Nat) (gs : List Nat) : State :=
  gs.foldl (fun s g =>
    match (s.core g).mqHead with
    | some h =>
      if h.nth = nth then (s.raise g (some h) { cause := cMSETMIS, eng := some .matrix }).updCore g (·.unmarkHead .matrix) else s
    | none => s) s

/-- The product of core `k`'s MMAS at the head of its MQ: the word's tokens, the entry, and what its issue comes to. -/
def State.mmasOne (s : State) (size k : Nat) : Option (Engw × QEntry × Except Trap EngRes) :=
  match (s.core k).mqHead with
  | none => none
  | some h =>
    (mmasWord size k h).map fun (p, w) =>
      (p, h, match mxCheck s k w h with
        | .error t => .error t
        | .ok r => mxIssue w h r [] { s with me := k })

/-- What participant `k` reads at home for all: the A block of its grid row from column 0, the B block of its grid column from row 0. -/
def State.mmasFetch (s : State) (size k : Nat) : State :=
  match (s.core k).mqHead.bind fun h => (mmasWord size k h).map fun x => mxCheck s k x.2 h with
  | some (.ok r) =>
    let pos := gridPos size k
    s.piecesRead k ((if pos.2 = 0 then allPieces r.a else []) ++ (if pos.1 = 0 then allPieces r.b else []))
  | _ => s

/-- Participant `k` issues at the rendezvous: it completes, or its fault is raised; `met` says that the rendezvous is over for it
either way. -/
def State.mmasIssue (s : State) (size nth : Nat) (met : Bool) (k : Nat) : State :=
  let past (c : Core) : Core := if met then { c with mmasDone := nth } else c
  let s := if met then s.mmasFetch size k else s
  match s.mmasOne size k with
  | none => s
  | some (_, h, .error t) => (s.raise k (some h) { t with eng := some .matrix }).updCore k fun c => past (c.unmarkHead .matrix)
  | some (p, h, .ok r) => ({ r.st with me := s.me } : State).updCore k fun c => past ((c.issued .matrix p h r).noteIssue h s.cycle)

/-- Whether participant `k` is lost as it fetches its operands: it faults on another cause than a NaN, which traps it alone. -/
def State.mmasFails (s : State) (size k : Nat) : Bool :=
  match s.mmasOne size k with
  | some (_, _, .error t) => t.cause != cNANTRAP
  | _ => false

/-- All participants have met: each row and column block is fetched once, in one step, and every participant issues. When the fetch
of some fails these fault, and the others go on waiting for them. -/
def State.mmasAll (s : State) (size nth : Nat) (gs : List Nat) : State :=
  match gs.filter (s.mmasFails size) with
  | [] => gs.foldl (fun s k => s.mmasIssue size nth true k) s
  | bad => bad.foldl (fun s k => s.mmasIssue size nth false k) s

/-- A grid that does not fit the set (R176). -/
def gridBad (size rows cols : Nat) : Bool := (size = 4 && 1 < rows) || (size = 1 && (1 < rows || 1 < cols))

/-- MMAS: MSETSHAPE is tested before the checks of R170 (assumption 60). A participant whose own checks fail faults; one that has met
the others and trapped on a NaN issues again alone. -/
def execMmas (p : Engw) (_ty : Ty) (_alt : Bool) (_td : BitVec 2) (_qa : BitVec 4) (_b : BSrc) (_n : BitVec 16)
    (rowsm1 colsm1 : BitVec 2) (s : State) : Out :=
  let g := s.me
  match s.taskOf g, s.myCore.mqHead with
  | some t, some h =>
    let rows := rowsm1.toNat + 1
    let cols := colsm1.toNat + 1
    let bad := gridBad t.size rows cols
    let gs := participants t rows cols
    if bad then engineWordIf .matrix p State.pavRuns (fun _ _ => .error { cause := cMSETSHAPE }) s
    else if !gs.contains g && h.on then
      -- outside the grid the word retires without effect
      if s.myCore.holds h || s.pavRuns then .next s else .next ((s.updMe (·.retireHead .matrix)).tryDeliver g)
    else
      match mmasWord t.size g h with
      | none => .next s
      | some (_, w) =>
        let alone := engineWordIf .matrix p State.pavRuns (fun h s =>
          match mxCheck s s.me w h with
          | .error t => .error t
          | .ok r => mxIssue w h r r.pieces s) s
        if !h.on || h.nth ≤ s.myCore.mmasDone || !(mxCheck s g w h).isOk then alone
        else if s.pavRuns || !gs.all (s.atMmas t.size h.nth) then .next s
        else if !gs.all (fun k => ((s.core k).mqHead).elim false (sameMmas h)) then .next (s.mismatch h.nth gs)
        else .next (s.mmasAll t.size h.nth gs)
  | _, _ => .next s

/-- Whether participant `k` can no longer reach the `nth` MMAS: it faulted on it or on an older word, or its part has ended. -/
def State.lostAt (s : State) (nth k : Nat) : Bool :=
  let c := s.core k
  let own := (c.getEng .matrix).queue.find? fun e => e.on && e.nth = nth
  !(nth ≤ c.mmasDone) &&
  (!c.running || c.inh || c.halted ||
   (match c.pend with
    | some p => match own with
      | some e => decide (p.seq ≤ e.seq)
      | none => true
    | none => false) ||
   (own.isNone && nth ≤ c.mmasSeen))

/-- MSETLOST: a participant that waits at the rendezvous, its own checks passed, faults because another is lost. -/
def execMsetlost (s : State) : Out :=
  match s.arg with
  | .unit g =>
    match s.taskOf g, (s.core g).mqHead with
    | some t, some h =>
      match decodeWord h.word with
      | .ok (.mmas _ _ _ _ _ _ _ rm1 cm1) =>
        let gs := participants t (rm1.toNat + 1) (cm1.toNat + 1)
        if !gridBad t.size (rm1.toNat + 1) (cm1.toNat + 1) && gs.contains g && s.atMmas t.size h.nth g &&
            (gs.any fun k => k != g && s.lostAt h.nth k) then
          .next ((s.raise g (some h) { cause := cMSETLOST, eng := some .matrix }).updCore g (·.unmarkHead .matrix))
        else .next s
      | _ => .next s
    | _, _ => .next s
  | _ => .next s

/-! ## Tiles and memory (R172) -/

def execMzero (p : Engw) (td : BitVec 2) (s : State) : Out :=
  engineWordIf .matrix p State.pavRuns (fun _ s => .ok { st := s.updMe fun c => c.setTile td 0 .zero }) s

/-- The in-extent part of a tile at a position: rows and columns. -/
def tileShape (e : BitVec 512) (p : Pos) : Nat × Nat :=
  (min 128 ((entExt e 1 : Int) - p.p1).toNat, min 128 ((entExt e 0 : Int) - p.p0).toNat)

/-- The checks of MWR and MRD, and the located rows of the in-extent part. -/
def tileCheck (s : State) (h : QEntry) (q : BitVec 4) (ty : Ty) (write : Bool) : Except Trap (List (List Piece)) :=
  let e := h.sa.entry
  let a := addr64 (entAddr e h.pa)
  if !h.sa.bound then .error { cause := cQUNBOUND, aux := q.toNat }
  else if entFmt e != ty then .error { cause := cQFMT, aux := q.toNat }
  else if !entRight e 2 || (write && !entRight e 1) then .error { cause := cQRIGHTS, aux := q.toNat, addr := a }
  else if !entIn e h.pa then .error { cause := cQBOUNDS, aux := q.toNat, addr := a }
  else
    let sh := tileShape e h.pa
    let rows := (List.range sh.1).map fun (i : Nat) => rowPieces e { h.pa with p1 := h.pa.p1 + i } sh.2
    match rows.mapM (locatePieces s (s.whoCore s.me) (if write then .wr else .rd)) with
    | .error e => .error (mxAddr q.toNat e)
    | .ok rs => .ok rs

/-- Row-by-row values of the in-extent part as tile elements. -/
def tileOf (cols : Nat) (rows : List (List Nat)) : List (Option Nat) :=
  ((List.range 128).map fun i => (List.range 128).map fun j =>
    match rows[i]? with
    | some r => if j < cols then r[j]? else none
    | none => none).flatten

def execMwr (p : Engw) (td : BitVec 2) (qa : BitVec 4) (s : State) : Out :=
  engineWordIf .matrix p State.pavRuns (fun h s =>
    match tileCheck s h qa .f32 false with
    | .error t => .error t
    | .ok rs =>
      match s.piecesUnc rs.flatten with
      | some t => .error t
      | none =>
        match watchPieces s (wordStage h.word) h.noWatch false rs.flatten (s.myCore.pieceHits false rs.flatten) with
        | .error t => .error t
        | .ok s =>
          let cols := (tileShape h.sa.entry h.pa).2
          let vals := rs.map fun r => let bs := s.pieceBytes s.me r; (List.range cols).map fun j => natAt bs (4 * j) 4
          .ok { st := (s.piecesRead s.me rs.flatten).updMe fun c =>
            c.setTile td (putTile (c.tile td) (tileOf cols vals)) .float }) s

/-- An element of a tile converted for MRD (R172). -/
def mrdElem (k : TKind) (ty : Ty) (rm : Rm) (ftz : Bool) (x dr : Nat) : FR :=
  match k with
  | .zero => (0, 0)
  | .float => if ty = .f32 then (x, 0) else convert .f32 ty rm dr ftz false x
  | .int => convert .i32 ty rm dr ftz false x

def execMrd (p : Engw) (ty : Ty) (rm : Rm) (qa : BitVec 4) (td : BitVec 2) (s : State) : Out :=
  engineWordIf .matrix p State.pavRuns (fun h s =>
    match tileCheck s h qa ty true with
    | .error t => .error t
    | .ok rs =>
      let c := s.myCore
      let sh := tileShape h.sa.entry h.pa
      let ds := takeDraws2 rm c.genM
      let k := c.tk td.toNat
      let vals := (List.range sh.1).map fun i => (List.range sh.2).map fun j =>
        mrdElem k ty rm c.ftz (tileEl (c.tile td) i j) (ds.1.getD (128 * i + j) 0)
      let nan := if c.nten && !(k = .float && ty = .f32) then
          (enum vals).findSome? fun (i, r) => (r.findIdx? fun x => isNanBits ty x.1).map fun j => 128 * i + j
        else none
      match nan with
      | some q => .error (nanTile td 0 q)
      | none =>
        match watchPieces s (wordStage h.word) h.noWatch true rs.flatten (s.myCore.pieceHits true rs.flatten) with
        | .error t => .error t
        | .ok s =>
          let fl := vals.flatten.foldl (fun f x => f ||| x.2) 0
          let s := (rs.zip vals).foldl (fun s (ps, r) =>
            let bs := (r.map fun x => natBytes (fmtBytes ty) x.1).flatten
            (ps.foldl (fun (s, bs) q => (s.engineWrite s.me q.2.1 (bs.take q.2.2), bs.drop q.2.2)) (s, bs)).1) s
          .ok { st := s.updMe fun c => { (c.orFlags fl) with genM := ds.2 } }) s
where
  /-- One draw for each of the 16,384 elements under rsto. -/
  takeDraws2 (rm : Rm) (x : Word) : List Nat × Word := if rm = .rsto then draws 16384 x else ([], x)

/-! ## The weight buffer (R173 to R175) -/

/-- The limits on the load of R173, and of R174 when packed. -/
def mldwOk (e : BitVec 512) (p : Pos) (ty : Ty) (packed : Bool) : Bool :=
  let l : Int := (entExt e 0 : Int) - p.p0
  let sz := storedBytes ty l.toNat
  0 < l && l % kStep ty = 0 && sz ≤ 4096 &&
  (!packed || (ty != .mx4 && p.p0 = 0 && sz % 64 = 0 && (9 * sz / 8 : Nat) ≤ entStride e 1))

/-- Expand one packed row of `n` bytes from its window: the bytes, and how many were read (R174). -/
def expand : Nat → List Byte → List Byte × Nat
  | 0, _ => ([], 0)
  | n + 1, w =>
    let m := natAt w 0 8
    let k := onesBelow m 64
    let vals := (w.drop 8).take k
    let out := (List.range 64).map fun i => if bitsOf m i 1 = 1 then byteAt vals (onesBelow m i) else 0
    let r := expand n (w.drop (8 + k))
    (out ++ r.1, 8 + k + r.2)

/-- The first `n` bytes of pieces. -/
def takePieces : Nat → List Piece → List Piece
  | _, [] => []
  | n, (va, loc, k) :: ps => if n = 0 then [] else (va, loc, min n k) :: takePieces (n - min n k) ps

/-- Elements of a row that MLDW loads. -/
def mldwLen (e : BitVec 512) (p : Pos) : Nat := ((entExt e 0 : Int) - p.p0).toNat

/-- The ranges of each row that MLDW loads: whole rows, or the packed windows of R174. -/
def mldwRuns (e : BitVec 512) (p : Pos) (ty : Ty) (packed : Bool) : List (List (Nat × Nat)) :=
  (List.range (min 128 ((entExt e 1 : Int) - p.p1).toNat)).map fun (j : Nat) =>
    let q : Pos := { p with p1 := p.p1 + j }
    if packed then [(addr64 (entAddr e q), 9 * storedBytes ty (mldwLen e p) / 8)] else rowPieces e q (mldwLen e p)

/-- A row of the weight buffer from the bytes of its range. -/
def mldwRow (sz : Nat) (packed : Bool) (bs : List Byte) : List Byte := if packed then (expand (sz / 64) bs).1 else bs

/-- The part of each located row that MLDW reads: all of it, or of a packed row as much as its expansion takes (R174). -/
def State.mldwRead (s : State) (g sz : Nat) (packed : Bool) (ls : List (List Piece)) : List Piece :=
  (ls.map fun ps => if packed then takePieces (expand (sz / 64) (s.pieceBytes g ps)).2 ps else ps).flatten

def execMldw (p : Engw) (ty : Ty) (packed : Bool) (qa : BitVec 4) (s : State) : Out :=
  engineWordIf .matrix p State.pavRuns (fun h s =>
    let c := s.myCore
    let e := h.sa.entry
    let x : MxStream := ⟨qa.toNat, h.sa, h.pa, ty⟩
    match mxUnbound [x] <|> mxFormat [x] <|> mxRight [x] <|> mxCmpd c [x] <|> mxBounds [x] none <|>
        (if mldwOk e h.pa ty packed then none else some { cause := cWBUF, aux := qa.toNat }) with
    | some t => .error t
    | none =>
      let sz := storedBytes ty (mldwLen e h.pa)
      match (mldwRuns e h.pa ty packed).mapM (locatePieces s (s.whoCore s.me) .rd) with
      | .error e => .error (mxAddr qa.toNat e)
      | .ok ls =>
        let read := s.mldwRead s.me sz packed ls
        match s.piecesUnc read with
        | some t => .error t
        | none =>
          match watchPieces s (wordStage h.word) h.noWatch false read (c.pieceHits false read) with
          | .error t => .error t
          | .ok s =>
            let data := ls.map fun ps => mldwRow sz packed (s.pieceBytes s.me ps)
            .ok { st := (s.piecesRead s.me read).updMe fun c =>
              { c with wbuf := ⟨true, packed, ty, 0, mldwLen e h.pa / kStep ty, data, some h⟩ } }) s

/-- The reload of core `g`'s weight buffer at resumption: its last MLDW repeated with its captured state, and KCUR as it was
(R175). The captured entry counts, whatever has become of the object since (assumption 61). A buffer that can no longer be read is not
valid, and a byte read with an uncorrectable error cancels the instance (12_recovery.md R354). -/
def State.reloadWbuf (s : State) (g : Nat) : State :=
  let w := (s.core g).wbuf
  match w.last with
  | none => s
  | some h =>
    let sz := storedBytes w.ty (mldwLen h.sa.entry h.pa)
    match (mldwRuns h.sa.entry h.pa w.ty w.cmp).mapM (locatePieces s (s.whoCore g) .rd) with
    | .error _ => s.updCore g fun c => { c with wbuf := { w with valid := false } }
    | .ok ls =>
      if (s.piecesUnc (s.mldwRead g sz w.cmp ls)).isSome then
        (s.updCore g fun c => { c with wbuf := { w with valid := false } }).raiseCancel (s.instOf g) cMEMUNC
      else s.updCore g fun c => { c with wbuf := { w with rows := ls.map fun ps => mldwRow sz w.cmp (s.pieceBytes g ps) } }

end Sys2Proof.Machine
end

