-- ==== Sys2Proof/Machine/Nodes.lean ====
section
/-!
DEFINITION. Graph instances and their nodes: the fields of a record and its checks, submission, readiness and the pool,
completion and removal (01_machine.md R19 to R23; 08_sync_async.md R245; 09_progress_scheduling.md R254 to R260;
10_retrieval_attention.md R293, R313).
-/

namespace Sys2Proof.Machine

/-! ## Record fields (R21) -/

/-- `len` bits from bit `lo` of the doubleword at byte `b` of a record. -/
def rf (r : BitVec 512) (b lo len : Nat) : Nat := bitsOf r.toNat (8 * b + lo) len

def recKind (r : BitVec 512) : Nat := rf r 0x18 44 2
def recSetSize (r : BitVec 512) : Nat := match rf r 0x18 38 2 with | 0 => 1 | 1 => 4 | _ => 16
def recClmask (r : BitVec 512) : Nat := rf r 0x30 32 32
def recDep (r : BitVec 512) : Nat := rf r 0x30 0 16
def recNsucc (r : BitVec 512) : Nat := rf r 0x30 16 8
def recSuccPtr (r : BitVec 512) : Nat := rf r 0x38 0 52

/-- Role used for dispatch (R19): 0 fetch, 1 compute, 2 epilogue. -/
def recRole (r : BitVec 512) : Nat :=
  match recKind r with
  | 0 => rf r 0x18 36 2
  | 3 => 1
  | _ => 0

/-- Operand `i` of a tile task. -/
def recOpnd (r : BitVec 512) (i : Nat) : Nat := rf r (0x20 + 2 * i) 0 16

/-! ## Objects (11_isolation.md R333, R334) -/

/-- An entry that is valid and owned by partition `p`. -/
def State.obj (s : State) (p i : Nat) : Option ObjEntry :=
  match (s.part p).objs.find i with
  | some e => if entValid e.bits && entPart e.bits = p then some e else none
  | none => none

/-! ## Validation (R22) -/

/-- A code address of a record: 0, or a multiple of 8 in the own-cluster-scratch window. -/
def recCodeOk (a : Nat) : Bool := a = 0 || (ownClus ≤ a && a < ownClus + clusSize && a % 8 = 0)

/-- The checks of a tile task's own fields. -/
def tileRecOk (s : State) (p : Nat) (r : BitVec 512) : Bool :=
  let n := rf r 0x18 40 4
  rf r 0x08 0 64 != 0 && recCodeOk (rf r 0 0 64) && recCodeOk (rf r 0x08 0 64) && recCodeOk (rf r 0x10 0 64) &&
  rf r 0x18 36 2 != 3 && rf r 0x18 38 2 != 3 && n ≤ 8 &&
  ((List.range 8).all fun i => if i < n then (s.obj p (recOpnd r i)).isSome else recOpnd r i = 0)

/-- The fields that only a tile task uses are 0 in the other kinds (R245, R293, R313). -/
def noTileFields (r : BitVec 512) : Bool := rf r 0x18 0 44 = 0

/-- The checks of a search node's fields (R293). -/
def searchRecOk (r : BitVec 512) : Bool :=
  rf r 0 52 12 = 0 && rf r 0x08 11 53 = 0 && rf r 0x10 0 64 = 0 && rf r 0x20 12 52 = 0 && rf r 0x28 0 64 = 0

/-- Types of RED (02_encoding.md R50) by their code. -/
def redType (c : Nat) : Bool := c = 0 || c = 1 || c = 0xA || c = 0xB || c = 0xE || c = 0xF

/-- The checks of a copy node's fields (R245). -/
def copyRecOk (r : BitVec 512) : Bool :=
  rf r 0 0 5 = 0 && rf r 0 52 12 = 0 && rf r 0x08 0 5 = 0 && rf r 0x08 52 12 = 0 && rf r 0x10 34 30 = 0 &&
  rf r 0x20 12 52 = 0 && rf r 0x28 0 64 = 0 &&
  (rf r 0x10 0 2 != 3 ||
    (rf r 0x10 3 3 ≤ 2 && redType (rf r 0x10 6 4) && ((rf r 0x10 10 10 != 0) == (rf r 0x10 2 1 = 1))))

/-- The checks of an attention node's fields (R313). -/
def attRecOk (r : BitVec 512) : Bool :=
  rf r 0 52 12 = 0 && rf r 0x08 13 51 = 0 && rf r 0x10 0 64 = 0 && rf r 0x20 0 64 = 0 && rf r 0x28 0 64 = 0

/-- Every check of R22 but the successor list. -/
def recordOk (s : State) (p : Nat) (r : BitVec 512) : Bool :=
  rf r 0x18 35 1 = 0 && rf r 0x18 46 18 = 0 && rf r 0x30 24 8 = 0 && rf r 0x38 52 12 = 0 && recNsucc r ≤ 64 &&
  ((List.range 32).all fun k => !(recClmask r).testBit k || (s.cluster k).part = p) &&
  match recKind r with
  | 0 => tileRecOk s p r
  | 1 => noTileFields r && searchRecOk r && recClmask r = 0
  | 2 => noTileFields r && copyRecOk r && recClmask r = 0
  | _ => noTileFields r && attRecOk r

/-- Why a submission fails: the cause and the address named. -/
abbrev SubFault := Nat × Nat

/-- The successor list of the record at `va`, each below `n`: TASKREC for any defect of R22 or R255, MEMUNC for an uncorrectable
error in it (12_recovery.md R354). -/
def readSucc (s : State) (w : Who) (r : BitVec 512) (va n : Nat) : Except SubFault (List Nat) :=
  if recNsucc r = 0 then .ok []
  else if recSuccPtr r % 2 ≠ 0 then .error (cTASKREC, va)
  else
    match resolveRange s w .rd (recSuccPtr r) (2 * recNsucc r) with
    | .error _ => .error (cTASKREC, va)
    | .ok rs =>
      let bs := s.runsBytes rs
      let xs := (List.range (recNsucc r)).map fun i => natAt bs (2 * i) 2
      if s.runsUnc rs then .error (cMEMUNC, recSuccPtr r)
      else if xs.any (fun x => n ≤ x) then .error (cTASKREC, va)
      else .ok xs

/-- One record at `va`, checked, with its successors. -/
def readRecord (s : State) (w : Who) (va n : Nat) : Except SubFault (BitVec 512 × List Nat) :=
  match resolve s w .rd va 64 with
  | .error e => .error (e.cause, e.addr)
  | .ok loc =>
    if s.unc loc 64 then .error (cMEMUNC, va)
    else
      let r := granOf (s.homeBytes loc 64)
      if !recordOk s w.part r then .error (cTASKREC, va)
      else
        match readSucc s w r va n with
        | .error e => .error e
        | .ok xs => .ok (r, xs)

def readRecords (s : State) (w : Who) (va n : Nat) : Nat → Except SubFault (List (BitVec 512 × List Nat))
  | 0 => .ok []
  | k + 1 =>
    match readRecord s w va n with
    | .error e => .error e
    | .ok r =>
      match readRecords s w (va + 64) n k with
      | .error e => .error e
      | .ok rs => .ok (r :: rs)

/-! ## Readiness and the pool (R259) -/

/-- The ready nodes of a die that hold no pool entry, as (since when, instance, node). -/
def State.readyNodes (s : State) (d : Nat) : List (Nat × Nat × Nat) :=
  (s.insts.map fun (i, x) =>
    ((enum x.nodes).filter fun (_, n) => n.st = .ready && n.die = d).map fun (k, n) => (n.readyAt, i, k)).flatten

/-- The one that became ready first; of several, the first listed (assumption 39). -/
def oldestReady : List (Nat × Nat × Nat) → Option (Nat × Nat × Nat)
  | [] => none
  | x :: xs =>
    match oldestReady xs with
    | none => some x
    | some y => some (if x.1 ≤ y.1 then x else y)

/-- The lowest entry that a table, its numbers rising, leaves free, from `k` up. -/
def freeEntry {α : Type} : Tab α → Nat → Nat
  | [], k => k
  | (j, _) :: t, k => if j = k then freeEntry t (k + 1) else k

/-- A node takes a pool entry of die `d`, the lowest that is free (assumption 39). -/
def State.enterPool (s : State) (d i n : Nat) : State :=
  (s.updNode i n fun x => { x with st := .pooled, die := d, inTransit := none, blocked := none, asked := false }).updDie d
    fun x => { x with pool := x.pool.set (freeEntry x.pool 0) (i, n) }

/-- A free entry is taken by the node that became ready first. -/
def State.fillPool (s : State) (d : Nat) : State :=
  if (s.die d).pool.length < 4096 then
    match oldestReady (s.readyNodes d) with
    | some (_, i, n) => s.enterPool d i n
    | none => s
  else s

/-- A node becomes ready now. -/
def State.makeReady (s : State) (i n : Nat) : State :=
  let d := (s.insts.find i).elim 0 (·.die)
  (s.updNode i n fun x => { x with st := .ready, readyAt := s.cycle, die := d }).fillPool d

/-- A node leaves the pool of die `d`. -/
def State.leavePool (s : State) (d i n : Nat) : State :=
  (s.updDie d fun x => { x with pool := x.pool.filter fun e => e.2 != (i, n) }).fillPool d

/-! ## Submission (R254, R255) -/

/-- The next instance number: numbers of live instances and 0xFFFFFF are skipped. -/
def nextInst (used : List Nat) (n : Nat) : Nat → Nat
  | 0 => n
  | f + 1 => if n = 0xFFFFFF || used.contains n then nextInst used ((n + 1) % 2 ^ 24) f else n

/-- Nodes of the instances submitted on die `d`. -/
def State.countSlots (s : State) (d : Nat) : Nat :=
  ((s.insts.filter fun (_, x) => x.die = d).map fun (_, x) => x.nodes.length).foldl (· + ·) 0

/-- Whether the instance table and die `d` have room for `n` nodes. -/
def State.roomFor (s : State) (d n : Nat) : Bool := s.insts.length < 1024 && s.countSlots d + n ≤ 65536

def newNode (d va : Nat) (x : BitVec 512 × List Nat) (k : Nat) : Node :=
  { record := x.1, succ := x.2, addr := va + 64 * k, cnt := recDep x.1, st := .waiting, die := d, readyAt := 0,
    promoted := false, moved := false, inTransit := none, blocked := none, asked := false, task := none }

/-- Enter an instance in the table: its roots become ready. -/
def State.addInstance (s : State) (x : Instance) : Nat × State :=
  let i := nextInst (s.insts.map (·.1)) s.instCounter.toNat 1100
  let s := { s with instCounter := BitVec.ofNat 24 (i + 1), insts := s.insts.set i x }
  (i, (enum x.nodes).foldl (fun s (k, n) => if n.cnt = 0 then s.makeReady i k else s) s)

/-- Submit `n` records at `va` to die `d`'s Galliard (R255). -/
def State.submit (s : State) (p d va n : Nat) (parent : Option Nat) (notify : Notify) : Except SubFault (Nat × State) :=
  let w : Who := ⟨agGalliard d, p, none⟩
  if va % 64 ≠ 0 || vaLimit ≤ va || (ownNear ≤ va && va < dieScr) then .error (cWINBOUND, va)
  else if n = 0 || 4096 < n then .error (cTASKREC, va)
  else
    match readRecords s w va n n with
    | .error e => .error e
    | .ok rs =>
      if !s.roomFor d n then .error (cTFULL, va)
      else
        .ok (s.addInstance
          { part := p, parent := parent, die := d, notify := notify, graph := va,
            nodes := (enum rs).map fun (k, x) => newNode d va x k, cancelled := none, delivered := false, restarts := 0,
            batch := none })

/-! ## Completion (R256, R259) -/

/-- One decrement of node `m`'s count. -/
def State.decrement (s : State) (i m : Nat) : State :=
  match s.insts.find i with
  | none => s
  | some x =>
    if x.cancelled.isSome then s
    else
      match x.nodes[m]? with
      | none => s
      | some n =>
        if n.st != .waiting || n.cnt = 0 then s.raiseCancel i cDEPUNDER
        else
          let s := s.updNode i m fun y => { y with cnt := y.cnt - 1 }
          if n.cnt = 1 then s.makeReady i m else s

/-- A node completes: its successors are decremented in record order. -/
def State.completeNode (s : State) (i n : Nat) : State :=
  let succ := ((s.insts.find i).bind fun x => x.nodes[n]?).elim [] (·.succ)
  succ.foldl (fun s m => s.decrement i m) (s.updNode i n fun x => { x with st := .complete, task := none })

/-- An event of a node of kind other than a tile task: it completes, or for a cancelled instance it is terminated when
`ok` is false. -/
def State.nodeEnds (s : State) (i : Nat) (n : Option Nat) (ok : Bool) : State :=
  match n with
  | none => s
  | some n => if ok then s.completeNode i n else s.dropNode i n

end Sys2Proof.Machine
end

