-- ==== Sys2Proof/Machine/CopyEngines.lean ====
section
/-!
DEFINITION. Copy-engine commands: region records, the checks at hand-off, the cluster and die engines, moving data, remote
reductions and XLAT (01_machine.md R37, R39; 03_numbers.md R93, R94; 07_ordering.md R205, R207; 08_sync_async.md R236 to
R246; 12_recovery.md R354, R364).
-/

namespace Sys2Proof.Machine

/-! ## Region records (R237) -/

/-- Field `d` of a word packed as in QPOS: P0 to P3, or N0 to N3. -/
def pk (w : Word) (d : Nat) : Nat :=
  match d with
  | 0 => wfld w 0 24
  | 1 => wfld w 24 24
  | 2 => wfld w 48 8
  | _ => wfld w 56 8

/-- A region record's four doublewords. -/
structure RegRec where
  va : Nat
  w0 : Word
  p : Word
  n : Word
  w3 : Word
  deriving DecidableEq, Repr, Inhabited

def RegRec.obj (r : RegRec) : Nat := wfld r.w0 0 16
def RegRec.dev (r : RegRec) : Nat := wfld r.w0 16 6
def RegRec.remote (r : RegRec) : Bool := r.w0.getLsbD 22
def RegRec.rank (r : RegRec) : Nat := wfld r.w0 32 10
def RegRec.idx (r : RegRec) : Nat := wfld r.w3 0 52

/-- What a command does, with its fields. -/
inductive CopyOp where
  | cpy
  | cpym
  | gthr (count : Nat)
  | red (ordered : Bool) (op : RemOp) (ty : Ty) (srcs : Nat)
  | send
  deriving DecidableEq, Repr, Inhabited

/-- Step 1 of R238 for the fields of a record in its role: `dst` is the destination. -/
def RegRec.fieldsOk (r : RegRec) (op : CopyOp) (dst : Bool) : Bool :=
  let redDst := match op with | .red _ _ _ _ => dst | _ => false
  let rankOk := match op with | .red o _ _ _ => !dst && o | _ => false
  let gthrSrc := match op with | .gthr _ => !dst | _ => false
  wfld r.w0 23 9 = 0 && wfld r.w0 42 22 = 0 && wfld r.w3 52 12 = 0 &&
  (rankOk || r.rank = 0) &&
  (if redDst then r.remote || r.dev = 0 else !r.remote && r.dev = 0) &&
  (if gthrSrc then r.idx % 4 = 0 else if redDst then wfld r.w3 12 40 = 0 else r.idx = 0)

def cpyRec (va : Nat) : Trap := { cause := cCPYREC, addr := va }

/-- The record at `va`: aligned, and in the issuing core's own near scratch (R238), or for a copy node in any permitted window, a failed
access being a cause of its own (R182, R185, R245; 11_isolation.md R330). -/
def readRegion (s : State) (w : Who) (va : Nat) : Except Trap RegRec :=
  if va % 32 ≠ 0 then .error (cpyRec va)
  else
    match resolve s w .rd va 32 with
    | .error e => .error (if w.own.isSome then cpyRec va else e.trap)
    | .ok loc =>
      if (match w.own with | some g => !inNear g loc | none => false) then .error (cpyRec va)
      else if s.unc loc 32 then .error { cause := cMEMUNC, addr := va }
      else
        let bs := s.homeBytes loc 32
        .ok ⟨va, dwordAt bs 0, dwordAt bs 8, dwordAt bs 16, dwordAt bs 24⟩

/-! ## Boxes (R239) -/

def boxPos (p : Word) (j0 j1 j2 j3 : Nat) : Pos := ⟨pk p 0 + j0, pk p 1 + j1, pk p 2 + j2, pk p 3 + j3⟩

/-- The pieces of memory of a box, dimension 0 fastest; `rows` replaces the positions along dimension 1. -/
def boxRuns (e : BitVec 512) (p n : Word) (rows : Option (List Nat)) : List (Nat × Nat) :=
  ((List.range (pk n 3)).map fun j3 => ((List.range (pk n 2)).map fun j2 =>
    ((rows.getD (List.range (pk n 1))).map fun j1 => rowPieces e (boxPos p 0 j1 j2 j3) (pk n 0)).flatten).flatten).flatten

/-- The source elements of a transposed copy, in the order of the destination's. -/
def transRuns (e : BitVec 512) (p n : Word) : List (Nat × Nat) :=
  ((List.range (pk n 3)).map fun j3 => ((List.range (pk n 2)).map fun j2 => ((List.range (pk n 0)).map fun j0 =>
    ((List.range (pk n 1)).map fun j1 => rowPieces e (boxPos p j0 j1 j2 j3) 1).flatten).flatten).flatten).flatten

/-- Whether a box lies wholly in extent (R161). -/
def boxIn (e : BitVec 512) (p n : Word) : Bool := (List.range 4).all fun d => pk p d + pk n d ≤ entExt e d

/-- The first element of a box that is out of extent. -/
def firstOut (e : BitVec 512) (p n : Word) : Pos :=
  let at0 : Pos := boxPos p 0 0 0 0
  if (List.range 4).all fun d => pk p d < entExt e d then
    match (List.range 4).find? fun d => entExt e d < pk p d + pk n d with
    | some 0 => { at0 with p0 := entExt e 0 }
    | some 1 => { at0 with p1 := entExt e 1 }
    | some 2 => { at0 with p2 := entExt e 2 }
    | some _ => { at0 with p3 := entExt e 3 }
    | none => at0
  else at0

/-- Bytes of a box. -/
def boxBytes (e : BitVec 512) (n : Word) : Nat := storedBytes (entFmt e) (pk n 0) * pk n 1 * pk n 2 * pk n 3

/-! ## The checks at hand-off (R238) -/

/-- A record with its object's entry; a remote destination has none on this device. -/
structure RegEnt where
  r : RegRec
  e : BitVec 512
  here : Bool
  deriving DecidableEq, Repr, Inhabited

/-- Step 2: the entry of a record. -/
def regEntry (s : State) (p : Nat) (r : RegRec) : Except Trap RegEnt :=
  if r.remote then .ok ⟨r, 0, false⟩
  else
    match s.obj p r.obj with
    | some x => .ok ⟨r, x.bits, true⟩
    | none => .error { cause := cOBJINV, addr := r.va, aux := r.obj }

/-- A ring designator of SEND (R241). -/
def desigRing (x : Word) : Nat := wfld x 0 6
def desigClus (x : Word) : Nat := wfld x 6 5
def desigDev (x : Word) : Nat := wfld x 11 6
def desigRemote (x : Word) : Bool := x.getLsbD 17

def ringTrap (x : Word) : Trap := { cause := cRINGNUM, aux := desigRing x }

/-- Whether a designator names a ring that partition `p` may send to. -/
def desigOk (s : State) (p : Nat) (x : Word) : Bool :=
  let r := s.ring (desigClus x) (desigRing x)
  wfld x 18 46 = 0 &&
  (desigRemote x ||
    (desigDev x = 0 && r.valid && r.part.toNat = p && (s.cluster (desigClus x)).part = p))

/-- Step 4: the first record whose format is not compatible (R239). -/
def fmtBad (op : CopyOp) (xs : List RegEnt) : Option RegEnt :=
  match op with
  | .red _ _ ty _ => xs.find? fun x => x.here && entFmt x.e != ty
  | _ =>
    let six (x : RegEnt) : Bool := entFmt x.e = .f6a || entFmt x.e = .f6b
    let mx (x : RegEnt) : Bool := entFmt x.e = .mx4
    let blocks (x : RegEnt) : Bool := pk x.r.p 0 % 32 = 0 && pk x.r.n 0 % 32 = 0
    xs.find? six <|>
    if xs.any mx then
      (if op = .cpym then xs.find? mx else xs.find? fun x => !mx x || !blocks x)
    else xs.find? fun x => some (fmtBytes (entFmt x.e)) != xs.head?.map fun y => fmtBytes (entFmt y.e)

/-- The lane that a report gives for element or index `k`: its number modulo 2^16, the low byte as the column (assumption 21). -/
def elemLane (k : Nat) : Option (Nat × Nat) := some (k / 256 % 256, k % 256)

/-- A fault of a record as a whole: the address of the record, and its object. -/
def recTrap (cause : Nat) (x : RegEnt) : Trap := { cause := cause, addr := x.r.va, aux := x.r.obj }

/-- Number of an element of a box at `p` with extents `n`, dimension 0 fastest. -/
def boxNumber (p n : Word) (q : Pos) : Nat :=
  (((q.p3.toNat - pk p 3) * pk n 2 + (q.p2.toNat - pk p 2)) * pk n 1 + (q.p1.toNat - pk p 1)) * pk n 0 + (q.p0.toNat - pk p 0)

/-- Step 5 for the boxes: the first that is out of extent, at its first element out. -/
def boxTrap (xs : List RegEnt) : Option Trap :=
  (xs.find? fun x => x.here && !boxIn x.e x.r.p x.r.n).map fun x =>
    let q := firstOut x.e x.r.p x.r.n
    { cause := cCBOUNDS, addr := addr64 (entAddr x.e q), lane := elemLane (boxNumber x.r.p x.r.n q), aux := x.r.obj }

/-- The location that byte `k` of some runs has. -/
def runByte : List (Nat × Nat) → Nat → Nat
  | [], _ => 0
  | (loc, n) :: rs, k => if k < n then loc + k else runByte rs (k - n)

/-- Step 5 for GTHR: the indices, read once, a core's own buffered bytes among them (07_ordering.md R195); the list must be readable and
each row in extent. -/
def readIndices (s : State) (w : Who) (src : RegEnt) (count : Nat) : Except Trap (List Nat) :=
  match resolveRange s w .rd src.r.idx (4 * count) with
  | .error e => .error { mxAddr src.r.obj e with lane := elemLane ((e.addr - src.r.idx) / 4) }
  | .ok rs =>
    match (List.range (4 * count)).find? fun k => s.unc (runByte rs k) 1 with
    | some k => .error { cause := cMEMUNC, addr := src.r.idx + k, lane := elemLane (k / 4), aux := src.r.obj }
    | none =>
      let bs := s.ownRuns w.own rs
      let is := (List.range count).map fun k => natAt bs (4 * k) 4
      match (enum is).find? fun (_, i) => entExt src.e 1 ≤ pk src.r.p 1 + i with
      | some (k, i) =>
        .error { cause := cCBOUNDS, addr := addr64 (entAddr src.e (boxPos src.r.p 0 i 0 0)), lane := elemLane k, aux := src.r.obj }
      | none => .ok is

/-- Whether every extent of a box is at least 1 (R237). -/
def boxFull (n : Word) : Bool := (List.range 4).all fun d => pk n d != 0

/-- Step 6: the shapes (R239 to R241). A box with an extent of 0 fails here (assumption 57). -/
def shapesOk (s : State) (op : CopyOp) (src dst : RegEnt) (desig : Word) : Bool :=
  let n := src.r.n
  let m := dst.r.n
  boxFull n && (op = .send || boxFull m) &&
  match op with
  | .cpy => n = m
  | .cpym => pk m 0 = pk n 1 && pk m 1 = pk n 0 && pk m 2 = pk n 2 && pk m 3 = pk n 3
  | .gthr c => pk n 1 = 1 && pk m 1 = c && pk m 0 = pk n 0 && pk m 2 = pk n 2 && pk m 3 = pk n 3
  | .red o _ _ e => n = m && (!o || src.r.rank < e)
  | .send =>
    desigRemote desig || boxBytes src.e n ≤ (s.ring (desigClus desig) (desigRing desig)).slotsz.toNat

/-- A command that passed: what it does, the pieces it reads and writes, and the addresses that its hand-off read. -/
structure Checked where
  kind : CmdKind
  rd : List Piece
  wr : List Piece
  reads : List (Nat × Nat)
  deriving DecidableEq, Repr

def RegEnt.region (x : RegEnt) : Region :=
  { obj := x.r.w0.setWidth 16, entry := x.e, dev := x.r.dev, remote := x.r.remote, rank := x.r.rank, pos := x.r.p, box := x.r.n,
    idx := x.r.idx }

/-- The source pieces of a command in the order of the destination's bytes. -/
def srcRuns (op : CopyOp) (src : RegEnt) (is : List Nat) : List (Nat × Nat) :=
  match op with
  | .cpym => transRuns src.e src.r.p src.r.n
  | .gthr _ => boxRuns src.e src.r.p src.r.n (some is)
  | _ => boxRuns src.e src.r.p src.r.n none

def cmdKind (op : CopyOp) (src dst : RegEnt) (is : List Nat) (desig : Word) : CmdKind :=
  match op with
  | .cpy => .copy src.region dst.region
  | .cpym => .transpose src.region dst.region
  | .gthr _ => .gather src.region dst.region is
  | .red o r ty e => .reduce src.region dst.region ty r o e
  | .send => .send src.region desig

/-- The record that a shape failure names: the one whose own fields fail, else the destination. -/
def shapeBad (op : CopyOp) (src dst : RegEnt) : RegEnt :=
  match op with
  | .send => src
  | .red o _ _ e => if !boxFull src.r.n || (o && e ≤ src.r.rank) then src else dst
  | .gthr _ => if !boxFull src.r.n || pk src.r.n 1 != 1 then src else dst
  | _ => if boxFull src.r.n then dst else src

/-- The element, in the order of the pieces, that holds the address `a`. -/
def pieceElem (t : Ty) (a : Nat) : List (Nat × Nat) → Nat
  | [] => 0
  | (va, n) :: ps =>
    let count (k : Nat) : Nat := if t = .mx4 then k / 17 * 32 else k / fmtBytes t
    if va ≤ a && a < va + n then count (a - va) else count n + pieceElem t a ps

/-- The report of step 7 for an address of record `x`'s pieces, whose elements count in the order of the pieces: for CPYM those of the
source in the order in which the destination takes them (assumption 79). -/
def addrsTrap (x : RegEnt) (rs : List (Nat × Nat)) (e : AFault) : Trap :=
  { mxAddr x.r.obj e with lane := elemLane (pieceElem (entFmt x.e) e.addr rs) }

/-- The addresses that a hand-off reads: the records, and the index list of GTHR. -/
def handReads (op : CopyOp) (src dst : RegEnt) (is : List Nat) : List (Nat × Nat) :=
  [(src.r.va, 32), (dst.r.va, 32)] ++
  match op with
  | .gthr _ => [(src.r.idx, 4 * is.length)]
  | _ => []

/-- Step 7: every address is permitted and translates. -/
def checkAddrs (s : State) (w : Who) (op : CopyOp) (src dst : RegEnt) (is : List Nat) (desig : Word) : Except Trap Checked :=
  let src' := srcRuns op src is
  match locatePieces s w .rd src' with
  | .error e => .error (addrsTrap src src' e)
  | .ok rd =>
    let need : Need := match op with | .red _ _ _ _ => .both | _ => .wr
    let dst' := if op = .send || !dst.here then [] else boxRuns dst.e dst.r.p dst.r.n none
    match locatePieces s w need dst' with
    | .error e => .error (addrsTrap dst dst' e)
    | .ok wr => .ok ⟨cmdKind op src dst is desig, rd, wr, handReads op src dst is⟩

/-- Steps 3 to 7, the records read and their entries found. -/
def checkRegions (s : State) (w : Who) (op : CopyOp) (xs : List RegEnt) (desig : Word) : Except Trap Checked :=
  match xs with
  | [] => .error (cpyRec 0)
  | src :: rest =>
    let dst := rest.headD src
    match xs.find? fun x => x.here && !entRight x.e 3 with
    | some x => .error (recTrap cCRIGHTS x)
    | none =>
      match fmtBad op xs with
      | some x => .error (recTrap cCFMT x)
      | none =>
        match boxTrap xs with
        | some t => .error t
        | none =>
          match (match op with | .gthr c => readIndices s w src c | _ => .ok []) with
          | .error t => .error t
          | .ok is =>
            if !shapesOk s op src dst desig then .error (recTrap cCSHAPE (shapeBad op src dst))
            else checkAddrs s w op src dst is desig

/-- Apply `f` to each element, the first error winning. -/
def mapE {α β ε : Type} (f : α → Except ε β) : List α → Except ε (List β)
  | [] => .ok []
  | x :: xs =>
    match f x with
    | .error e => .error e
    | .ok y =>
      match mapE f xs with
      | .error e => .error e
      | .ok ys => .ok (y :: ys)

/-- R238: the whole of the checks, in their order. `da` is SEND's ring designator. -/
def checkCopy (s : State) (w : Who) (op : CopyOp) (sa da : Word) : Except Trap Checked :=
  match mapE (readRegion s w) (if op = .send then [sa.toNat] else [sa.toNat, da.toNat]) with
  | .error t => .error t
  | .ok rs =>
    match (enum rs).find? fun (i, r) => !r.fieldsOk op (i != 0) with
    | some (_, r) => .error (cpyRec r.va)
    | none =>
      match mapE (regEntry s w.part) rs with
      | .error t => .error t
      | .ok xs =>
        if op = .send && !desigOk s w.part da then .error (ringTrap da)
        else checkRegions s w op xs da

/-! ## The engines (R37, R39) -/

/-- The engine among `n` from `base` that holds the fewest, the lowest on a tie. -/
def State.pickEngine (s : State) (die : Bool) (base : Nat) : Nat → Nat
  | 0 => base
  | n + 1 =>
    let b := s.pickEngine die base n
    if (s.cmdsOf die (base + n)).length < (s.cmdsOf die b).length then base + n else b

/-- Agent code of a command's engine (12_recovery.md R369). -/
def Cmd.agent (c : Cmd) : Nat := if c.die then 0x240 + c.engine else 0x200 + c.engine

/-- The identity under which a command accesses memory. -/
def Cmd.who (c : Cmd) : Who := ⟨c.agent, c.part, c.core⟩

/-- A command is accepted. -/
def State.accept (s : State) (c : Cmd) : State :=
  let (i, s) := s.newId
  { s with cmds := s.cmds ++ [{ c with id := i }] }.startCmds c.die c.engine 33

/-- A command completes: its flag is signalled, and the next starts. -/
def State.endCmd (s : State) (c : Cmd) : State :=
  let s := { s with cmds := s.cmds.filter fun x => x.id != c.id }
  let s := if c.die then s.signalDie c.agent c.part (c.engine / 4) c.flag else s.signal c.agent (c.engine / 2) c.flag
  (s.nodeEnds c.inst c.node true).startCmds c.die c.engine 33

/-- A command ends without effect and cancels its instance (R240, R241, R354). -/
def State.failCmd (s : State) (c : Cmd) (cause : Nat) : State :=
  ((s.dropCmd c).raiseCancel c.inst cause).startCmds c.die c.engine 33

/-! ## Hand-off -/

/-- Whether any piece lies in host memory: the release is then at .sys (R205). -/
def anyHost (ps : List Piece) : Bool := ps.any fun p => isHostLoc p.2.1

/-- A command that its core built, before it has a number. -/
def newCmd (s : State) (e : Nat) (flag : BitVec 10) (k : CmdKind) : Cmd :=
  { id := 0, die := false, engine := e, core := some s.me, task := s.myCore.task, pc := s.myCore.pc, ftz := s.myCore.ftz, part := s.partOf s.me,
    inst := s.instOf s.me, node := none, flag := flag.toNat, kind := k, started := false, moved := false, applied := false
    seq := s.myCore.seq, trapped := false, reads := [] }

/-- The engine of its cluster that a core's next command goes to (R37). -/
def State.myEngine (s : State) : Nat := s.pickEngine false (2 * clusOf s.me) 2

/-- The own watchpoints of a command's sources and destinations, at hand-off (12_recovery.md R364). -/
def watchCmd (s : State) (ps qs : List Piece) : Except Trap State :=
  let hits := s.myCore.pieceHits false ps ||| s.myCore.pieceHits true qs
  match watchPieces s s.myCore.stage s.myCore.noWatch false ps hits with
  | .error t => .error t
  | .ok s => watchPieces s s.myCore.stage s.myCore.noWatch true qs hits

/-- Whether a command's destination is on another device. -/
def CmdKind.toDevice : CmdKind → Bool
  | .reduce _ dst _ _ _ _ => dst.remote
  | .send _ desig => desigRemote desig
  | _ => false

/-- Whether a command sends to a ring of cluster `k` of this device. -/
def CmdKind.sendsTo (k : Nat) : CmdKind → Bool
  | .send _ desig => !desigRemote desig && desigClus desig = k
  | _ => false

/-- The index list of GTHR has been read by the scalar pipe, past its staging (07_ordering.md R192). -/
def State.listRead (s : State) (k : CmdKind) : State :=
  match k with
  | .gather src _ is =>
    match resolveRange s (s.whoCore s.me) .rd src.idx (4 * is.length) with
    | .ok rs => s.dropStaged s.me rs
    | .error _ => s
  | _ => s

/-- The hand-off of a command that passed its checks: a full engine stalls, then the release steps when asked for. -/
def handOff (rel : Bool) (flag : BitVec 10) (x : Checked) (s : State) : Out :=
  let e := s.myEngine
  if 32 ≤ (s.cmdsOf false e).length || s.myCore.mustSettle rel then .next s
  else
    match watchCmd s x.rd x.wr with
    | .error t => s.trap { t with engCode := 6 + e % 2 }
    | .ok s =>
      let s := (s.releaseIf rel (if anyHost (x.rd ++ x.wr) || x.kind.toDevice then .sys else .dev)).listRead x.kind
      .next ((s.accept { newCmd s e flag x.kind with reads := x.reads }).advance s.me)

/-- A GTHR reads its index list in the scalar pipe: after the core's own strong writes (07_ordering.md R192), and with the release bit after
every older access of its core (R205). -/
def CopyOp.readsEarly : CopyOp → Bool
  | .gthr _ => true
  | _ => false

/-- A copy-engine command of a core. -/
def copyWord (q : Qual) (op : CopyOp) (sd a : BitVec 6) (flag : BitVec 10) (rel : Bool) (s : State) : Out :=
  scalarWord q [sd, a] [] s fun s =>
    if s.myCore.inh then s.trap { cause := cHNDENG }
    else if s.myCore.mustSettle (rel && op.readsEarly) || (op.readsEarly && s.myCore.writesOut) then .next s
    else
      match checkCopy s (s.whoCore s.me) op (s.myCore.reg sd) (s.myCore.reg a) with
      | .error t => s.trap { t with engCode := 6 + s.myEngine % 2 }
      | .ok x => handOff rel flag x s

def execCpy (q : Qual) (sd a : BitVec 6) (flag : BitVec 10) (rel : Bool) (s : State) : Out := copyWord q .cpy sd a flag rel s

def execCpym (q : Qual) (sd a : BitVec 6) (flag : BitVec 10) (rel : Bool) (s : State) : Out := copyWord q .cpym sd a flag rel s

def execGthr (q : Qual) (sd a : BitVec 6) (flag : BitVec 10) (rel : Bool) (cntm1 : BitVec 14) (s : State) : Out :=
  copyWord q (.gthr (cntm1.toNat + 1)) sd a flag rel s

def execRed (q : Qual) (sd a : BitVec 6) (flag : BitVec 10) (rel ordered : Bool) (op : RemOp) (ty : Ty) (srcs : BitVec 10)
    (s : State) : Out :=
  copyWord q (.red ordered op ty srcs.toNat) sd a flag rel s

def execSend (q : Qual) (sd a : BitVec 6) (flag : BitVec 10) (rel : Bool) (s : State) : Out := copyWord q .send sd a flag rel s

def execXlat (q : Qual) (sd a : BitVec 6) (flag : BitVec 10) (rel : Bool) (s : State) : Out :=
  scalarWord q [sd, a] [] s fun s =>
    if s.myCore.inh then s.trap { cause := cHNDENG }
    else handOff rel flag ⟨.xlat (s.myCore.reg sd).toNat (min (s.myCore.reg a).toNat (2 ^ 40)), [], [], []⟩ s

/-! ## XLAT (R242) -/

/-- The page of a leaf of level `l`: base and size, a CONT group as one page (11_isolation.md R328). -/
def pageOf (e : Word) (l va : Nat) : Nat × Nat :=
  let size := 2 ^ (39 - 9 * l) * (if pteCont e then (if l = 3 then 16 else 32) else 1)
  (alignDown va size, size)

/-- The pages that overlap the addresses from `va` below `stop`; absent parts are skipped whole. -/
def xlatPages (p : Partition) (stop : Nat) : Nat → Nat → List (Nat × Nat)
  | 0, _ => []
  | f + 1, va =>
    if stop ≤ va || winBase ≤ va then []
    else
      match walk p va with
      | .error l => xlatPages p stop f (alignDown va (2 ^ (39 - 9 * l)) + 2 ^ (39 - 9 * l))
      | .ok (e, l) =>
        let pg := pageOf e l va
        pg :: xlatPages p stop f (pg.1 + pg.2)

/-- Entries that a share of a last-level TLB holds: units of 768 (11_isolation.md R331). -/
def Die.tlbShare (x : Die) (p : Nat) : Nat := 768 * x.shares.get p 0

/-- The oldest entry of partition `p` in a TLB goes. -/
def tlbEvict (p : Nat) : List (Nat × Nat × Nat) → List (Nat × Nat × Nat)
  | [] => []
  | x :: xs => if x.1 = p then xs else x :: tlbEvict p xs

/-- A last-level TLB takes a page of partition `p`, whose share is `n` entries: its fills evict only its own (11_isolation.md R331). -/
def tlbAdd (n : Nat) (t : List (Nat × Nat × Nat)) (p : Nat) (pg : Nat × Nat) : List (Nat × Nat × Nat) :=
  if t.contains (p, pg) || n = 0 then t
  else (if (t.filter fun e => e.1 = p).length < n then t else tlbEvict p t) ++ [(p, pg)]

def State.xlatDone (s : State) (d p va len : Nat) : State :=
  let pgs := xlatPages (s.part p) (va + len) (len / 4096 + 2) va
  s.updDie d fun x => { x with tlb := pgs.foldl (fun t pg => tlbAdd (x.tlbShare p) t p pg) x.tlb }

/-! ## Moving data (R189, R205, R239) -/

/-- The pieces of a command, located as at hand-off. -/
def cmdPieces (s : State) (c : Cmd) (need : Need) (rs : List (Nat × Nat)) : List Piece :=
  match locatePieces (s.viewOf c.part c.id) c.who need rs with
  | .ok ps => ps
  | .error _ => []

def pieceRuns (ps : List Piece) : List (Nat × Nat) := ps.map (·.2)

/-- The source's bytes are read, noticed by watchpoints at home; none when a byte holds an uncorrectable error. -/
def State.cmdRead (s : State) (c : Cmd) (ps : List Piece) : Option (List Byte × State) :=
  if (s.piecesUnc ps).isSome then none
  else some (s.runsBytes (pieceRuns ps), ps.foldl (fun s p => s.homeRead c.agent p.2.1 p.2.2) s)

/-- A copy from one set of pieces to another, with its completion. -/
def State.copyPieces (s : State) (c : Cmd) (src dst : List (Nat × Nat)) : State :=
  match s.cmdRead c (cmdPieces s c .rd src) with
  | none => s.failCmd c cMEMUNC
  | some (bs, s) => (s.runsWrite c.agent (pieceRuns (cmdPieces s c .wr dst)) bs).endCmd c

def Region.runs (r : Region) : List (Nat × Nat) := boxRuns r.entry r.pos r.box none

/-! ## Remote messages (R208, R241, R343, R344) -/

/-- A port that leads to device `dev`, if any. -/
def State.route (s : State) (dev : Nat) : Option Nat := (s.routes.get dev []).find? fun p => s.ports.getLsbD p

/-- A payload leaves over a link; without a route it is dropped, and the caller cancels. -/
def State.sendLink (s : State) (dev inst : Nat) (cmd : Option Nat) (pl : Payload) : Option State :=
  if !s.inDomain then none
  else
    match s.route dev with
    | none => none
    | some port =>
      let (i, s) := s.newId
      some { s with links := s.links ++ [⟨i, dev, port, inst, cmd, { pl with port := port }⟩] }

def emptyPayload (s : State) (p inst : Nat) : Payload :=
  { port := 0, srcDev := s.devNum.toNat, dtag := (s.part p).dtag, inst := inst, red := false, ring := 0, clus := 0, rtype := .f32,
    rop := .add, ordered := false, rank := 0, srcs := 0, obj := 0, pos := 0, box := 0, dflag := 0, data := [] }

/-- An earlier SEND of the same core to the same ring is not yet on its way (R208). -/
def State.sendBehind (s : State) (c : Cmd) (desig : Word) : Bool :=
  s.cmds.any fun x => x.id < c.id && x.core = c.core && !x.moved &&
    (match x.kind with | .send _ d => d = desig | _ => false)

/-- An earlier ordered contribution of the same core to the same region, under the same rank, that is neither held by a round nor on
its way: one source's contributions combine in the order that it issued them (R93, R240). -/
def State.redBehind (s : State) (c : Cmd) : Bool :=
  match c.kind with
  | .reduce src dst _ _ true _ =>
    c.core.isSome && s.cmds.any fun x => x.id < c.id && x.core = c.core && !x.moved && !x.applied &&
      (match x.kind with
       | .reduce src' dst' _ _ true _ =>
         src'.rank = src.rank && dst'.obj = dst.obj && dst'.pos = dst.pos && dst'.box = dst.box && dst'.remote = dst.remote &&
         dst'.dev = dst.dev
       | _ => false)
  | _ => false

/-- The payload of a remote SEND or RED is read and sent. -/
def State.sendRemote (s : State) (c : Cmd) (dev : Nat) (src : Region) (f : Payload → Payload) : State :=
  if s.quiesced && s.inDomain then s
  else
    match s.cmdRead c (cmdPieces s c .rd src.runs) with
    | none => s.failCmd c cMEMUNC
    | some (bs, s) =>
      match s.sendLink dev c.inst (some c.id) { f (emptyPayload s c.part c.inst) with data := bs } with
      | none => s.failCmd c cLINKDOWN
      | some s => { s with cmds := listUpd s.cmds (·.id = c.id) fun c => { c with moved := true } }

/-- The cause that a device's answer cancels the sender's instance with (R240, R241; 12_recovery.md R354). -/
def answerCause (cause : Nat) : Nat := if cause = cREDMIX || cause = cMEMUNC then cause else cREMOTEREJ

/-- The receiving device's answer: the payload was published or applied (`cause` 0), or it was rejected, as a contribution that
differs from its round (REDMIX), for an uncorrectable error (MEMUNC) or otherwise (R240, R241; 12_recovery.md R354). -/
def State.remoteAnswer (s : State) (c : Cmd) (cause : Nat) : State :=
  let s := { s with links := s.links.filter fun m => m.cmd != some c.id }
  if cause = 0 then s.endCmd c else s.failCmd c (answerCause cause)

/-! ## Reduction (R93, R207, R240) -/

/-- One step of the reduction of an element. -/
def redElem (t : Ty) (op : RemOp) (ftz : Bool) (a b : Nat) : Nat :=
  match op with
  | .add => if t.isFloat then (fAdd (fmtOf t) .rne ftz a b).1 else (a + b) % 2 ^ t.bits
  | .min => if t.isFloat then (fMinMax t false a b).1 else if intOf t a ≤ intOf t b then a else b
  | .max => if t.isFloat then (fMinMax t true a b).1 else if intOf t b ≤ intOf t a then a else b

/-- Elements of type `t` held in bytes. -/
def elemsOf (t : Ty) (bs : List Byte) : List Nat := (List.range (bs.length / (t.bits / 8))).map fun i => natAt bs (t.bits / 8 * i) (t.bits / 8)

def elemBytes (t : Ty) (es : List Nat) : List Byte := (es.map (natBytes (t.bits / 8))).flatten

/-- One contribution combined into the destination's elements. -/
def redStepAll (t : Ty) (op : RemOp) (ftz : Bool) (xs : List Nat) (bs : List Byte) : List Nat :=
  List.zipWith (redElem t op ftz) xs (elemsOf t bs)

/-- The die that is the home of a location (11_isolation.md R327); host memory has none, and counts with die 0. -/
def dieOfLoc (loc : Nat) : Nat :=
  if loc < anyNear then (loc - dieScr) / dieScrSize
  else if loc < anyClus then dieOf ((loc - anyNear) / nearSize)
  else if loc < physBase then dieOfClus ((loc - anyClus) / clusSize)
  else if isHostLoc loc then 0
  else (loc - physBase) / 0x8000000000 % 4

/-- What arrives at a receive side. -/
structure RedIn where
  who : Who
  obj : BitVec 16
  entry : BitVec 512
  pos : Word
  box : Word
  ty : Ty
  op : RemOp
  ordered : Bool
  srcs : Nat
  rank : Nat
  dflag : Nat
  data : List Byte
  ftz : Bool
  cmd : Option Nat
  deriving DecidableEq, Repr, Inhabited

/-- Whether a round is that of a contribution's region: destination object, position and box. -/
def RedIn.isRound (x : RedIn) (r : Round) : Bool := r.part = x.who.part && r.obj = x.obj && r.pos = x.pos && r.box = x.box

/-- The open round of a contribution's region. -/
def RedIn.round (x : RedIn) (s : State) : Option Round := s.rounds.find? x.isRound

/-- The number under which a contribution translates: the lowest of its command's and of those that its round holds, so that a round
goes on through the mapping that it began with (11_isolation.md R332). -/
def RedIn.viewId (x : RedIn) (s : State) : Nat :=
  (((x.round s).elim [] fun r => r.held.filterMap (·.cmd)) ++ x.cmd.toList).foldl min s.nextId

/-- Where the destination's elements lie. -/
def RedIn.pieces (x : RedIn) (s : State) : List Piece :=
  match locatePieces (s.viewOf x.who.part (x.viewId s)) x.who .both (boxRuns x.entry x.pos x.box none) with
  | .ok ps => ps
  | .error _ => []

/-- The receive side, and the home die of DFLAG: the die of the box's first byte (assumption 74). -/
def RedIn.die (x : RedIn) (s : State) : Nat := dieOfLoc ((x.pieces s).head?.elim dieScr (·.2.1))

/-- A contribution that the open round turns away: it differs in type, operator or source count, as an unordered one does (assumption
74). -/
def RedIn.mixed (x : RedIn) (s : State) : Bool :=
  match x.round s with
  | some r => r.ty != x.ty || r.op != x.op || r.srcs != x.srcs
  | none => false

/-- Bytes that the rounds of die `d` hold. -/
def State.heldBytes (s : State) (d : Nat) : Nat :=
  ((s.rounds.filter (·.die = d)).map fun r => (r.held.map (·.data.length)).foldl (· + ·) 0).foldl (· + ·) 0

/-- Whether a contribution must wait at its engine: its rank is held, or the receive side is full (R240). -/
def RedIn.waits (x : RedIn) (s : State) : Bool :=
  x.ordered &&
  ((match x.round s with
    | some r => r.held.any (·.rank = x.rank)
    | none => 64 ≤ (s.rounds.filter (·.die = x.die s)).length) ||
   4194304 < s.heldBytes (x.die s) + x.data.length)

/-- The destination's elements before the step. -/
def RedIn.old (x : RedIn) (s : State) : List Nat := elemsOf x.ty (s.runsBytes (pieceRuns (x.pieces s)))

/-- The contributions of a round with this one, in rising rank. -/
def insertRank (c : Contribution) : List Contribution → List Contribution
  | [] => [c]
  | d :: ds => if c.rank < d.rank then c :: d :: ds else d :: insertRank c ds

def RedIn.contribution (x : RedIn) : Contribution := ⟨x.rank, x.data, x.ftz, x.cmd⟩

/-- All contributions that apply in this step: the one that arrives, or for the last of a round all of it; none while the
round stays open. -/
def RedIn.applied (x : RedIn) (s : State) : Option (List Contribution) :=
  if !x.ordered then some [x.contribution]
  else
    let held := insertRank x.contribution ((x.round s).elim [] (·.held))
    if held.length = x.srcs then some held else none

/-- The destination's elements after the step. -/
def RedIn.result (x : RedIn) (s : State) (cs : List Contribution) : List Nat :=
  cs.foldl (fun es c => redStepAll x.ty x.op c.ftz es c.data) (x.old s)

/-- Hold a contribution in its round, opening it. -/
def RedIn.hold (x : RedIn) (s : State) : State :=
  let s := match x.round s with
    | some _ => { s with rounds := listUpd s.rounds x.isRound fun r => { r with held := insertRank x.contribution r.held } }
    | none => { s with rounds := s.rounds ++
        [⟨x.who.part, x.obj, x.pos, x.box, x.entry, x.ty, x.op, x.srcs, x.dflag, x.die s, [x.contribution]⟩] }
  match x.cmd with
  | some i => { s with cmds := listUpd s.cmds (·.id = i) fun c => { c with applied := true } }
  | none => s

/-- The result is written, DFLAG is signalled once, the round closes, and every contributing command of this device ends. The flag is
the one that the closing contribution names (assumption 74). -/
def RedIn.apply (x : RedIn) (s : State) (cs : List Contribution) : State :=
  let ps := x.pieces s
  let d := x.die s
  let es := x.result s cs
  let s := ps.foldl (fun s p => s.homeRead x.who.agent p.2.1 p.2.2) s
  let s := s.runsWrite x.who.agent (pieceRuns ps) (elemBytes x.ty es)
  let s := s.signalDie x.who.agent x.who.part d x.dflag
  let s := if x.ordered then
      { s with rounds := s.rounds.filter fun r => !x.isRound r }
    else s
  cs.foldl (fun s c =>
    match c.cmd.bind fun i => s.cmds.find? (·.id = i) with
    | some k => if x.ordered then s.endCmd k
      else { s with cmds := listUpd s.cmds (fun c => c.id = k.id) fun c => { c with applied := true } }
    | none => s) s

/-- The trap of R94 on the core whose RED would write a NaN while its NTEN is 1: the contribution has no effect, and every word younger
than the RED that has not issued is held. The command is dropped when the fault is delivered. While a fault of the core that is no
younger is pending the contribution waits; so does one whose own fault gave way to an older one, until the core has left the handler of
that one, and then contributes again as R94's held words issue again. -/
def State.redTrap (s : State) (c : Cmd) (g : Nat) : State :=
  if (c.trapped && (s.core g).inh) || (s.core g).pend.any fun p => decide (p.seq ≤ c.seq) then s
  else
    let s := { s with cmds := listUpd s.cmds (·.id = c.id) fun c => { c with trapped := true } }
    s.pendAt g c.pc c.seq 0 true { cause := cNANTRAP, engCode := 11 } (some c.id)

/-- Whether the issuing core still holds the task, whose last phase may have ended, and traps NaNs. Only the core of the contribution that
applies, which for an ordered round is the one that closes it, is asked; a copy node or another device never traps (assumption 58). -/
def State.redTraps (s : State) (c : Cmd) (t : Ty) (es : List Nat) : Option Nat :=
  match c.core with
  | some g =>
    if t.isFloat && (s.core g).nten && c.task.isSome && (s.core g).task = c.task && es.any (isNanBits t) then some g else none
  | none => none

/-- A local contribution as it arrives. -/
def redArrival (c : Cmd) (src dst : Region) (ty : Ty) (op : RemOp) (ordered : Bool) (srcs : Nat) (bs : List Byte) : RedIn :=
  { who := c.who, obj := dst.obj, entry := dst.entry, pos := dst.pos, box := dst.box, ty := ty, op := op, ordered := ordered,
    srcs := srcs, rank := src.rank, dflag := dst.idx, data := bs, ftz := c.ftz, cmd := some c.id }

/-- RED_CONTRIBUTION of a command whose destination lies on this device. -/
def State.contribute (s : State) (c : Cmd) (src dst : Region) (ty : Ty) (op : RemOp) (ordered : Bool) (srcs : Nat) : State :=
  match s.cmdRead c (cmdPieces s c .rd src.runs) with
  | none => s.failCmd c cMEMUNC
  | some (bs, s') =>
    let x := redArrival c src dst ty op ordered srcs bs
    if x.mixed s then s'.failCmd c cREDMIX
    else if x.waits s || s.redBehind c then s
    else if (s.piecesUnc (x.pieces s)).isSome then s'.failCmd c cMEMUNC
    else
      match x.applied s' with
      | none => (x.hold s').startCmds c.die c.engine 33
      | some cs =>
        match s'.redTraps c ty (x.result s' cs) with
        | some g => s.redTrap c g
        | none => (x.apply s' cs).startCmds c.die c.engine 33

/-! ## XQCOMB's combination (09_progress_scheduling.md R284) -/

/-- Element `e` of a row, exact in FP32. -/
def combElem (t : Ty) (bs : List Byte) (e : Nat) : Nat :=
  if t = .bf16 then natAt bs (2 * e) 2 * 65536 else natAt bs (4 * e) 4

/-- The rows' elements summed in k-slot order, rounded once a step, then to the type; a NaN of a single row is canonical too
(03_numbers.md R71). -/
def combRow (t : Ty) (rows : List (List Byte)) (e : Nat) : Nat :=
  match rows with
  | [] => 0
  | r :: rs =>
    let one := (fmtF32.deliver .rne 0 false (fmtF32.decode (combElem t r e))).1
    let acc := rs.foldl (fun a b => (fAdd fmtF32 .rne false a (combElem t b e)).1) one
    if t = .bf16 then (fmtBf16.deliver .rne 0 false (fmtF32.decode acc)).1 else acc

/-- The combine word of a command, when every arrival bit of its `k` is set. -/
def State.combReady (s : State) (c : Cmd) (row k : Nat) : Bool :=
  match resolve (s.viewOf c.part c.id) c.who .both (row - 8) 8 with
  | .ok loc => bitsOf (bytesNat (s.homeBytes loc 8)) 0 k = 2 ^ k - 1
  | .error _ => false

/-- XQCOMB_COMBINE. -/
def State.combine (s : State) (c : Cmd) (t : Ty) (row dst k stride width : Nat) : State :=
  let w := t.bits / 8
  let ps := (List.range k).map fun j => cmdPieces s c .rd [(row + (j + 1) * stride, width * w)]
  let cw := cmdPieces s c .both [(row - 8, 8)]
  if (s.piecesUnc (ps.flatten ++ cw)).isSome then s.failCmd c cMEMUNC
  else
    let rows := ps.map fun p => s.runsBytes (pieceRuns p)
    let s := (cw ++ ps.flatten).foldl (fun s p => s.homeRead c.agent p.2.1 p.2.2) s
    let out := ((List.range width).map fun e => natBytes w (combRow t rows e)).flatten
    let s := s.runsWrite c.agent (pieceRuns (cmdPieces s c .wr [(dst, width * w)])) out
    (s.runsWrite c.agent (pieceRuns cw) (natBytes 8 0)).endCmd c

/-! ## The events -/

def State.cmd (s : State) (i : Nat) : Option Cmd := s.cmds.find? fun c => c.id = i

/-- COPY_COMMAND_COMPLETE of command `c` (R205): its data moves whole, and it completes. A remote command sends its payload. -/
def State.completeCmd (s : State) (c : Cmd) : State :=
  if !c.started then s
  else
    match c.kind with
    | .copy src dst => s.copyPieces c src.runs dst.runs
    | .transpose src dst => s.copyPieces c (transRuns src.entry src.pos src.box) dst.runs
    | .gather src dst is => s.copyPieces c (boxRuns src.entry src.pos src.box (some is)) dst.runs
    | .xlat va len => (s.xlatDone (dieOfClus (c.engine / 2)) c.part va len).endCmd c
    | .reduce src dst ty op ordered srcs =>
      if dst.remote then
        if c.moved || s.redBehind c then s
        else s.sendRemote c dst.dev src fun pl => { pl with
          red := true, rtype := ty, rop := op, ordered := ordered, rank := src.rank, srcs := srcs, obj := dst.obj.toNat,
          pos := dst.pos, box := dst.box, dflag := dst.idx }
      else if c.applied && !ordered then s.endCmd c
      else s
    | .send src desig =>
      if desigRemote desig && !c.moved && !s.sendBehind c desig then
        s.sendRemote c (desigDev desig) src fun pl => { pl with ring := desigRing desig, clus := desigClus desig }
      else s
    | .combine _ _ _ _ _ _ => s

/-- The command that an event without a number acts on: the first that has started. -/
def State.someCmd (s : State) : Option Cmd := s.cmds.find? fun c => c.started

/-- Whether an operation of a pass waits for the answer to message `i`. -/
def State.tripleWaits (s : State) (i : Nat) : Bool :=
  s.clusters.any fun x => x.2.pav.pass.elim false fun p => p.ops.any (·.sent = some i)

/-- The answer to a payload whose sender is gone: its command by number `i`, or for a TRIPLE the message itself (12_recovery.md R374). -/
def State.lostAnswer (s : State) (i cause : Nat) : State :=
  if s.tripleWaits i then s
  else
    match s.links.find? fun m => m.cmd = some i || m.id = i with
    | none => s
    | some m =>
      let s := { s with links := s.links.filter (·.id != m.id) }
      if cause = 0 then s else s.raiseCancel m.inst (answerCause cause)

/-- COPY_COMMAND_COMPLETE of a command, or of the first that has started; or the answer of another device, a cause or 0. -/
def execCopyCommandComplete (s : State) : Out :=
  match s.arg with
  | .unit i => .next ((s.cmd i).elim s s.completeCmd)
  | .pair i cause =>
    match s.cmd i with
    | some c => if c.moved then .next (s.remoteAnswer c cause) else .next s
    | none => .next (s.lostAnswer i cause)
  | .none => .next (s.someCmd.elim s s.completeCmd)
  | _ => .next s

/-- RED_CONTRIBUTION. -/
def execRedContribution (s : State) : Out :=
  match s.arg with
  | .unit i =>
    match s.cmd i with
    | none => .next s
    | some c =>
      match c.kind with
      | .reduce src dst ty op ordered srcs =>
        if c.started && !c.applied && !dst.remote then .next (s.contribute c src dst ty op ordered srcs) else .next s
      | _ => .next s
  | _ => .next s

/-- XQCOMB_COMBINE: every arrival bit of the command's combine word is set. -/
def execXqcombCombine (s : State) : Out :=
  match s.arg with
  | .unit i =>
    match s.cmd i with
    | none => .next s
    | some c =>
      match c.kind with
      | .combine t row dst k stride width =>
        if c.started && s.combReady c row k then .next (s.combine c t row dst k stride width) else .next s
      | _ => .next s
  | _ => .next s

/-! ## Copy nodes (R245) -/

/-- The operation of a copy node's record. -/
def copyNodeOp (r : BitVec 512) : CopyOp :=
  match rf r 0x10 0 2 with
  | 0 => .cpy
  | 1 => .cpym
  | 2 => .gthr (rf r 0x10 20 14 + 1)
  | _ => .red (rf r 0x10 2 1 = 1) (match rf r 0x10 3 3 with | 0 => .add | 1 => .min | _ => .max) (Ty.ofCode (BitVec.ofNat 4 (rf r 0x10 6 4)))
      (rf r 0x10 10 10)

/-- A copy node is dispatched on die `d` to its least loaded engine: its records are read and checked now. -/
def State.startCopyNode (s : State) (d i n : Nat) (r : BitVec 512) : State :=
  let p := (s.insts.find i).elim 0 (·.part)
  let e := s.pickEngine true (4 * d) 4
  let w : Who := ⟨0x240 + e, p, none⟩
  match checkCopy s w (copyNodeOp r) (BitVec.ofNat 64 (rf r 0 0 52)) (BitVec.ofNat 64 (rf r 0x08 0 52)) with
  | .error t => (s.dropNode i n).raiseCancel i t.cause
  | .ok x =>
    s.accept {
      id := 0, die := true, engine := e, core := none, task := none, pc := 0, ftz := false, part := p, inst := i, node := some n,
      flag := rf r 0x20 0 12, kind := x.kind, started := false, moved := false, applied := false, seq := 0
      trapped := false, reads := x.reads }

end Sys2Proof.Machine
end

