-- ==== Sys2Proof/Machine/Expert.lean ====
section
/-!
DEFINITION. Expert queues: pushes, spill, firing slots, batches, arrival bits, XQTAKE and XQCOMB (09_progress_scheduling.md R275
to R286).
-/

namespace Sys2Proof.Machine

/-! ## Configuration (R275) -/

def XQueue.fill (x : XQueue) : Nat := (fld x.cfg 0 13).toNat
def XQueue.batchMax (x : XQueue) : Nat := (fld x.cfg 13 10).toNat
def XQueue.cls (x : XQueue) : Nat := (fld x.cfg 23 2).toNat
def XQueue.home (x : XQueue) : Nat := (fld x.cfg 25 2).toNat
def XQueue.valid (x : XQueue) : Bool := x.cfg.getLsbD 30
def XQueue.age (x : XQueue) : Nat := (fld x.cfg 32 32).toNat
def XQueue.taskVa (x : XQueue) : Nat := (fld x.cfg 64 52).toNat

/-- Queue `n` of partition `p`, when it is installed. -/
def State.xq (s : State) (p n : Nat) : Option XQueue :=
  match (s.part p).xqs.find n with
  | some x => if x.valid then some x else none
  | none => none

def State.setXq (s : State) (p n : Nat) (x : XQueue) : State := s.updPart p fun y => { y with xqs := y.xqs.set n x }

/-! ## Descriptors (R276, R278) -/

def XDesc.kslot (d : XDesc) : Nat := (fld d.bits 24 4).toNat
def XDesc.row (d : XDesc) : Nat := (fld d.bits 80 48).toNat * 16

/-- Spilled descriptors of a partition's queues. -/
def State.spilled (s : State) (p : Nat) : Nat :=
  ((s.part p).xqs.map fun x => x.2.descs.length - x.2.near).foldl (· + ·) 0

/-- Free descriptor places of the spill area. -/
def State.spillFree (s : State) (p : Nat) : Nat := (s.part p).spillCap - s.spilled p

/-- The queue after a push, or none when die scratch and spill area are full: a push goes to die scratch while nothing is
spilled and there is room, else behind the spilled ones. -/
def XQueue.push (x : XQueue) (free : Nat) (d : XDesc) (now : Nat) : Option XQueue :=
  let near := x.near < 4096 && (x.near = x.descs.length || free = 0)
  if !near && free = 0 then none
  else
    let ds := x.descs ++ [d]
    some { x with
      descs := ds
      near := if near then x.near + 1 else x.near
      fillSince := if x.fillSince.isNone && x.fill ≤ ds.length then some now else x.fillSince }

/-- A descriptor address: a multiple of 16 in the own near-scratch window. -/
def xqNear (a : Nat) : Bool := a % 16 = 0 && ownNear ≤ a && a < ownNear + nearSize

def execXqpush (q : Qual) (a : BitVec 6) (queue : BitVec 10) (s : State) : Out :=
  scalarWord q [a] [] s fun s =>
    releasing .dev s fun s =>
      let p := s.partOf s.me
      let va := (s.myCore.reg a).toNat
      match s.xq p queue.toNat with
      | none => s.trap { cause := cXQNUM, aux := queue.toNat }
      | some x =>
        if !xqNear va then s.trap { cause := cXQREC, addr := va }
        else
          let loc := nearLoc s.me + (va - ownNear)
          let b := BitVec.ofNat 128 (bytesNat (s.homeBytes loc 16))
          if s.unc loc 16 then s.trap { cause := cMEMUNC, addr := va }
          else if fld b 28 4 != 0 || fld b 80 2 != 0 then s.trap { cause := cXQREC, addr := va }
          else
            match x.push (s.spillFree p) ⟨b, s.instOf s.me, s.cycle⟩ s.cycle with
            | none => s.trap { cause := cQSPILL, aux := queue.toNat }
            | some x => (s.setXq p queue.toNat x).done

/-! ## Firing (R279 to R282) -/

/-- When the oldest descriptor was pushed. -/
def XQueue.oldest (x : XQueue) : Nat := x.descs.head?.elim 0 (·.time)

/-- Age-due: the oldest descriptor has reached age A. -/
def XQueue.ageDue (x : XQueue) (now : Nat) : Bool := x.descs != [] && x.oldest + x.age ≤ now

def XQueue.fillDue (x : XQueue) (now : Nat) : Bool := x.fill ≤ x.descs.length && x.descs != [] && !x.ageDue now

/-- Whether `x` has fired since `y` became age-due. -/
def XQueue.firedSince (x y : XQueue) : Bool := x.firedAt.elim false fun t => y.oldest + y.age ≤ t

/-- Effective class of a fill-due queue: `fillSince` is when it last became fill-due. -/
def XQueue.effClass (x : XQueue) (now : Nat) : Nat := x.cls - (now - x.fillSince.getD now) / 2048

/-- Whether age-due queue `x` ranks after age-due queue `y`, having fired since `y` became age-due (R280). Of two that both have, the one
that fired last does, so that each fires at most once ahead of the other (R281; assumption 29). -/
def XQueue.ranksAfter (x y : XQueue) (now : Nat) : Bool :=
  x.ageDue now && y.ageDue now && x.firedSince y && (!y.firedSince x || y.firedAt.getD 0 < x.firedAt.getD 0)

/-- Whether due queue `a` goes before due queue `b`, each with its number, when neither ranks after the other for having fired (R280). -/
def xqBefore (now : Nat) (a b : Nat × XQueue) : Bool :=
  let tie (u v : Nat) : Bool := u < v || (u = v && a.1 < b.1)
  match a.2.ageDue now, b.2.ageDue now with
  | true, false => true
  | false, true => false
  | true, true => tie a.2.oldest b.2.oldest
  | false, false =>
    let x := a.2.effClass now
    let y := b.2.effClass now
    x < y || (x = y && tie a.2.oldest b.2.oldest)

/-- Whether cores `first` … of a set of `n` are idle and the cluster's Pavane leaves them free (R23, R39). -/
def State.setIdle (s : State) (k first n : Nat) : Bool :=
  (upFrom first n).all s.coreIdle && !((s.cluster k).pav.pass.elim false fun p => p.node.isSome)

/-- The first cores of the aligned sets of `n` cores in a cluster. -/
def setStarts (k n : Nat) : List Nat := (List.range (16 / n)).map fun i => 16 * k + n * i

/-- Whether a record's CLMASK and a partition allow cluster `k`. -/
def State.clusAllowed (s : State) (p : Nat) (r : BitVec 512) (k : Nat) : Bool :=
  (s.cluster k).part = p && (recClmask r = 0 || (recClmask r).testBit k)

/-- Whether an idle set of a record's size stands in one of the clusters given. -/
def State.anySet (s : State) (p : Nat) (r : BitVec 512) (ks : List Nat) : Bool :=
  ks.any fun k => s.clusAllowed p r k && (setStarts k (recSetSize r)).any fun g => s.setIdle k g (recSetSize r)

/-- The record bound to a queue, as it reads now; a submission's checks of R22 are not made again (assumption 29). -/
def State.boundRecord (s : State) (p : Nat) (x : XQueue) : Except SubFault (BitVec 512) :=
  match resolve s ⟨agGalliard x.home, p, none⟩ .rd x.taskVa 64 with
  | .error e => .error (e.cause, e.addr)
  | .ok loc => if s.unc loc 64 then .error (cMEMUNC, x.taskVa) else .ok (granOf (s.homeBytes loc 64))

/-- The queue without the pushes of this cycle, which land after a cut (R282, R285), and those pushes. -/
def XQueue.standing (x : XQueue) (now : Nat) : XQueue := { x with descs := x.descs.filter fun d => decide (d.time < now) }
def XQueue.landing (x : XQueue) (now : Nat) : List XDesc := x.descs.filter fun d => decide (now ≤ d.time)

/-- The four conditions of R280 for a queue. A bound record that cannot be read names no set, so the queue does not fire and no
descriptor is popped (assumption 29). -/
def State.xqRoom (s : State) (p : Nat) (x : XQueue) : Bool :=
  (match s.boundRecord p x with
   | .ok r => s.anySet p r (List.range 32)
   | .error _ => false) &&
  (s.die x.home).pool.length < 4096 && s.roomFor x.home 1

/-- Whether a queue is due (R279). -/
def XQueue.due (x : XQueue) (now : Nat) : Bool :=
  let y := x.standing now
  y.ageDue now || y.fillDue now

/-- The queue that a firing slot of die `d` for partition `p` picks: of those that may fire and rank after none, the first. -/
def State.xqPick (s : State) (p d : Nat) : Option (Nat × XQueue) :=
  let xs := (s.part p).xqs.filter fun x => x.2.valid && x.2.home = d && x.2.due s.cycle && s.xqRoom p x.2
  (xs.filter fun x => !xs.any fun y => x.2.ranksAfter y.2 s.cycle).foldl
    (fun b x => match b with
      | none => some x
      | some y => if xqBefore s.cycle x y then some x else some y) none

/-- The cut: at most `b` descriptors of live instances in push order, and the descriptors left. -/
def cutBatch (gone : Nat → Bool) : Nat → List XDesc → List XDesc × List XDesc
  | _, [] => ([], [])
  | 0, ds => ([], ds)
  | b + 1, d :: ds =>
    if gone d.inst then cutBatch gone (b + 1) ds
    else
      let r := cutBatch gone b ds
      (d :: r.1, r.2)

/-- The queue after a cut that left `ds`: spilled descriptors in the cut were refilled first. Cycles in which it was age-due are not
cycles fill-due (R279, R280). -/
def XQueue.afterCut (x : XQueue) (ds : List XDesc) (fired : Bool) (now : Nat) : XQueue :=
  { x with
    descs := ds
    near := x.near - (x.descs.length - ds.length)
    firedAt := if fired then some now else x.firedAt
    fillSince := if ds.length < x.fill then none else if x.ageDue now then some now else x.fillSince }

/-- The fired instance of a batch (R282): one root from the bound record, its DEP and successors ignored. -/
def State.fireInstance (s : State) (p n : Nat) (x : XQueue) (r : BitVec 512) (ds : List XDesc) : State :=
  let node := { newNode x.home x.taskVa (r, []) 0 with cnt := 0 }
  let (_, s) := s.addInstance
    { part := p, parent := none, die := x.home, notify := .none, graph := x.taskVa, nodes := [node], cancelled := none,
      delivered := false, restarts := 0, batch := some (n, ds) }
  s.traceAgent (agGalliard x.home) p x.home evXQFIRE (BitVec.ofNat 64 n) (BitVec.ofNat 64 ds.length)

/-- Queue `n` is cut, and fires unless the cut is empty. -/
def State.fire (s : State) (p n : Nat) (x : XQueue) : State :=
  let (ds, rest) := cutBatch s.tokenAt x.batchMax (x.standing s.cycle).descs
  let s' := s.setXq p n (x.afterCut (rest ++ x.landing s.cycle) (ds != []) s.cycle)
  if ds = [] then s'
  else
    match s.boundRecord p x with
    | .ok r => s'.fireInstance p n x r ds
    | .error _ => s

/-- XQ_FIRING_SLOT of die `d` for partition `p`. -/
def execXqFiringSlot (s : State) : Out :=
  match s.arg with
  | .pair d p =>
    if s.quiesced then .next s
    else
      match s.xqPick p d with
      | some (n, x) => .next (s.fire p n x)
      | none => .next s
  | _ => .next s

/-- XQ_AGE_DUE: that the oldest descriptor has reached age A is judged from the clock in every slot (R279); no other state
changes. -/
def execXqAgeDue (s : State) : Out := .next s

/-- XQ_SPILL_REFILL of queue `n` of partition `p`: spilled descriptors fill the freed places in push order. -/
def execXqSpillRefill (s : State) : Out :=
  match s.arg with
  | .pair p n =>
    match s.xq p n with
    | some x => .next (s.setXq p n { x with near := min 4096 x.descs.length })
    | none => .next s
  | _ => .next s

/-! ## The end of a fired task (R282) -/

/-- One descriptor's arrival bit: an atomic at its combine word, or the cancellation of the pushing instance. -/
def State.arrivalBit (s : State) (d p : Nat) (x : XDesc) : State :=
  let w : Who := ⟨agGalliard d, p, none⟩
  match resolve s w .both (addr64 ((x.row : Int) - 8)) 8 with
  | .error e => s.raiseCancel x.inst e.cause
  | .ok loc =>
    if s.unc loc 8 then s.raiseCancel x.inst cMEMUNC
    else
      let v := bytesNat (s.homeBytes loc 8) ||| 2 ^ x.kslot
      (s.homeRead w.agent loc 8).homeWrite w.agent loc (natBytes 8 v)

/-- The arrival bits of a completed fired task, in batch order. -/
def State.arrivalBits (s : State) (i : Nat) : State :=
  match s.insts.find i with
  | none => s
  | some x =>
    match x.batch with
    | none => s
    | some (_, ds) => ds.foldl (fun s e => s.arrivalBit x.die x.part e) s

/-! ## XQTAKE and XQCOMB (R283, R284) -/

def execXqtake (q : Qual) (d a b : BitVec 6) (queue : BitVec 10) (maxm1 : BitVec 8) (s : State) : Out :=
  scalarWord q [d, a, b] [] s fun s =>
    let g := s.me
    let va := (s.myCore.reg a).toNat
    match (s.insts.find (s.instOf g)).bind (·.batch) with
    | none => s.trap { cause := cXQBIND, aux := queue.toNat }
    | some (n, ds) =>
      if n ≠ queue.toNat then s.trap { cause := cXQBIND, aux := queue.toNat }
      else if !xqNear va then s.trap { cause := cXQREC, addr := va }
      else
        let i := (s.myCore.reg b).toNat
        let m := if ds.length ≤ i then 0 else min (maxm1.toNat + 1) (ds.length - i)
        if ownNear + nearSize < va + 16 * m then s.trap { cause := cWINBOUND, addr := va }
        else
          let bs := (((ds.drop i).take m).map fun x => natBytes 16 x.bits.toNat).flatten
          let s := s.homeWrite g (nearLoc g + (va - ownNear)) bs
          .next ((s.putReg g d (BitVec.ofNat 64 (ds.length * 65536 + m))).advance g)

/-- The pieces of XQCOMB: its k rows, its destination and its combine word, each permitted and translating. -/
def combPieces (s : State) (w : Who) (row dst k stride bytes : Nat) : Except Trap (List Piece × List Piece × List Piece) :=
  match locatePieces s w .rd ((List.range k).map fun (j : Nat) => (addr64 ((row : Int) + (j + 1) * stride), bytes)) with
  | .error e => .error e.trap
  | .ok rs =>
    match locatePieces s w .wr [(dst, bytes)] with
    | .error e => .error e.trap
    | .ok ds =>
      match locatePieces s w .both [(addr64 ((row : Int) - 8), 8)] with
      | .error e => .error e.trap
      | .ok cs => .ok (rs, ds, cs)

/-- The combine word is read in the scalar pipe, after the core's own strong writes and past its staging (07_ordering.md R192). -/
def execXqcomb (q : Qual) (ty : Ty) (d a b : BitVec 6) (flag : BitVec 10) (km1 : BitVec 4) (s : State) : Out :=
  scalarWord q [d, a, b] [] s fun s =>
    let c := s.myCore
    let g := s.me
    let k := km1.toNat + 1
    let width := c.xqWidth.toNat
    let stride := c.xqStride.toNat * 64
    let bytes := width * (ty.bits / 8)
    let row := (c.reg a).toNat
    let dst := (c.reg b).toNat
    let code := 6 + s.myEngine % 2
    if c.inh then s.trap { cause := cHNDENG }
    else if width = 0 || 16384 < width || stride < bytes then s.trap { cause := cXQCFG }
    else if row % 64 ≠ 0 then s.trap { cause := cXQREC, addr := row }
    else if dst % 64 ≠ 0 then s.trap { cause := cXQREC, addr := dst }
    else
      match combPieces s (s.whoCore g) row dst k stride bytes with
      | .error t => s.trap { t with engCode := code }
      | .ok (rs, ds, cs) =>
        if 32 ≤ (s.cmdsOf false s.myEngine).length || s.myCore.writesOut then .next s
        else
          match s.piecesUnc cs with
          | some t => s.trap t
          | none =>
            match watchCmd s (rs ++ cs) (ds ++ cs) with
            | .error t => s.trap { t with engCode := code }
            | .ok s =>
              let v := bytesNat (s.pieceBytes g cs) % 65536
              let s := ((s.piecesRead g cs).dropStaged g (pieceRuns cs)).putReg g d (BitVec.ofNat 64 v)
              .next ((s.accept (newCmd s s.myEngine flag (.combine ty row dst k stride width))).advance g)

end Sys2Proof.Machine
end

