-- ==== Sys2Proof/Machine/Host.lean ====
section
/-!
DEFINITION. The host: the command window and its processor, completion records and MSI-X messages, the register page and the
HDM range (07_ordering.md R210; 09_progress_scheduling.md R248 to R252; 11_isolation.md R341, R342; 12_recovery.md R366).
-/

namespace Sys2Proof.Machine

/-! ## Completion records and messages (R251, R342) -/

/-- INST of a record with no instance. -/
def noInst : Nat := 0xFFFFFF

def Partition.grantsVec (p : Partition) (v : Nat) : Bool := p.msixBase ≤ v && v < p.msixBase + p.msixCount

/-- The message of a completion: at once with COAL = 0, else at the end of its vector's window. -/
def State.sendMsix (s : State) (p vec : Nat) : State :=
  let x := s.part p
  if vec = 0xFFF || !x.grantsVec vec then s
  else if x.cmdq.coal = 0 then { s with toHost := s.toHost ++ [.msix vec] }
  else if s.coalesce.any fun c => c.part = p && c.vec = vec then s
  else { s with coalesce := s.coalesce ++ [⟨p, vec, s.cycle + 64 * x.cmdq.coal.toNat⟩] }

/-- The 16 bytes of a completion record. -/
def completionBytes (seq : BitVec 32) (inst status cause : Nat) : List Byte :=
  natBytes 8 (packNat [(0, seq.toNat), (32, inst), (56, status)]) ++ natBytes 8 cause

/-- Who writes completion records: the command processor, under the partition's identity. -/
def cmdWho (p : Nat) : Who := ⟨agHost, p, none⟩

/-- The record of a packet, where CPL is one that may be written, then its message. -/
def State.answer (s : State) (p : Nat) (seq : BitVec 32) (vec : BitVec 12) (cpl : BitVec 52) (inst status cause : Nat) : State :=
  let s :=
    if cpl = 0 || cpl.toNat % 16 ≠ 0 then s
    else
      match resolve s (cmdWho p) .wr cpl.toNat 16 with
      | .ok loc => s.homeWrite agHost loc (completionBytes seq inst status cause)
      | .error _ => s
  s.sendMsix p vec.toNat

/-- MSIX_COALESCE_EXPIRE: the window of vector `v` of partition `p` ends. -/
def execMsixCoalesceExpire (s : State) : Out :=
  match s.arg with
  | .pair p v =>
    if s.coalesce.any fun c => c.part = p && c.vec = v && c.ends ≤ s.cycle then
      .next { s with
        coalesce := s.coalesce.filter fun c => !(c.part = p && c.vec = v)
        toHost := s.toHost ++ [.msix v] }
    else .next s
  | _ => .next s

/-! ## Packets (R248, R249) -/

def CmdQ.logSlots (q : CmdQ) : Nat := if 4 ≤ q.log2.toNat ∧ q.log2.toNat ≤ 10 then q.log2.toNat else 10

def CmdQ.slots1 (q : CmdQ) : Nat := 2 ^ q.logSlots

/-- The packet at HEAD. -/
def CmdQ.packet (q : CmdQ) : BitVec 512 := q.slots.get (q.head.toNat % q.slots1) 0

def pkSeq (x : BitVec 512) : BitVec 32 := fld x 0 32
def pkOpc (x : BitVec 512) : Nat := rf x 0 32 4
def pkGraph (x : BitVec 512) : Nat := rf x 0x08 0 52
def pkNnode (x : BitVec 512) : Nat := rf x 0x10 0 13
def pkVec (x : BitVec 512) : BitVec 12 := fld x 160 12
def pkCpl (x : BitVec 512) : BitVec 52 := fld x 192 52
def pkInst (x : BitVec 512) : Nat := rf x 0x20 0 24

/-- RSV fields are 0. -/
def pkRsvOk (x : BitVec 512) : Bool :=
  rf x 0 36 28 = 0 && rf x 0x08 52 12 = 0 && rf x 0x10 13 19 = 0 && rf x 0x10 44 20 = 0 && rf x 0x18 52 12 = 0 &&
  rf x 0x20 24 40 = 0 && rf x 0x28 0 64 = 0 && rf x 0x30 0 64 = 0 && rf x 0x38 0 64 = 0

/-- A field that the packet's OPC does not use is 0. -/
def pkUseOk (x : BitVec 512) : Bool :=
  (pkOpc x = 1 || (pkGraph x = 0 && pkNnode x = 0)) && (pkOpc x = 2 || pkInst x = 0)

/-- Why a packet is rejected, 0 for no reason. -/
def pkReject (x : BitVec 512) (head : BitVec 32) : Nat :=
  if !pkRsvOk x || 3 < pkOpc x || !pkUseOk x then cBADCMD else if pkSeq x != head then cBADSEQ else 0

/-! ## The processor (R250) -/

def State.updCmdq (s : State) (p : Nat) (f : CmdQ → CmdQ) : State := s.updPart p fun x => { x with cmdq := f x.cmdq }

def State.answerPacket (s : State) (p : Nat) (x : BitVec 512) (inst status cause : Nat) : State :=
  s.answer p (pkSeq x) (pkVec x) (pkCpl x) inst status cause

/-- TAIL runs more than the slot count ahead of HEAD. -/
def CmdQ.over (q : CmdQ) : Bool := decide (q.slots1 < (q.tail - q.head).toNat)

/-- The processor looks at the window now. -/
def State.serving (s : State) (p : Nat) : Bool :=
  let q := (s.part p).cmdq
  q.en && !q.halted && !q.hit && q.fence.isNone && !s.quiesced && s.firmware = .running && !(s.part p).resetting

/-- CMDQ_OVERRUN: a processor that looks at the window stops on it. -/
def State.checkOver (s : State) (p : Nat) : State :=
  if s.serving p && (s.part p).cmdq.over then s.updCmdq p fun q => { q with ovr := true, halted := true } else s

/-- The packet that the processor reads now: none while it does not serve, the window is empty, or it has overrun. -/
def State.nextPacket (s : State) (p : Nat) : Option (BitVec 512) :=
  let q := (s.part p).cmdq
  if s.serving p && q.tail != q.head && !q.over then some q.packet else none

/-- HEAD moves past the packet. -/
def State.consume (s : State) (p : Nat) : State :=
  s.updCmdq p fun q => { q with head := q.head + 1, untested := false }

/-- A packet of operation `opc` of partition `p`: read, checked and, unless it is rejected, carried out by `f` (which
consumes it). A rejected packet is consumed by whichever of the four rows meets it. -/
def packetStep (s : State) (opc : Nat) (f : Nat → BitVec 512 → State → State) : Out :=
  match s.arg with
  | .unit p =>
    let s := s.checkOver p
    match s.nextPacket p with
    | none => .next s
    | some x =>
      let r := pkReject x (s.part p).cmdq.head
      if r ≠ 0 then .next ((s.consume p).answerPacket p x noInst 2 r)
      else if pkOpc x = opc then .next (f p x s)
      else .next s
  | _ => .next s

def execCmdNop (s : State) : Out := packetStep s 0 fun p x s => (s.consume p).answerPacket p x noInst 0 0

/-- CMD_CANCEL: the cancellation of a live instance of the partition; any other has no effect. -/
def cancelPacket (p : Nat) (x : BitVec 512) (s : State) : State :=
  let i := pkInst x
  let s := s.consume p
  let live : Bool := (s.insts.find i).elim false fun y => decide (y.part = p)
  if live then (s.raiseCancel i cHOSTCAN).answerPacket p x i 0 0 else s.answerPacket p x noInst 0 0

def execCmdCancel (s : State) : Out := packetStep s 2 cancelPacket

/-- CMD_FENCE waits, once read, until every instance launched by an earlier packet has ended. -/
def execCmdFence (s : State) : Out :=
  match s.arg with
  | .unit p =>
    let q := (s.part p).cmdq
    match q.fence with
    | some x =>
      if q.launched = [] then .next ((s.updCmdq p fun q => { q with fence := none }).answerPacket p x noInst 0 0) else .next s
    | none =>
      packetStep s 3 fun p x s =>
        let s := s.consume p
        if (s.part p).cmdq.launched = [] then s.answerPacket p x noInst 0 0
        else s.updCmdq p fun q => { q with fence := some x }
  | _ => .next s

/-! ## LAUNCH and its breakpoints (R250, R366) -/

def brkMode (b : BitVec 55) : Nat := (fld b 52 2).toNat
def brkAddr (b : BitVec 55) : Nat := (fld b 0 52).toNat

/-- KERN of the records of a launch that can be read. -/
def launchKerns (s : State) (p va n : Nat) : List Nat :=
  (List.range n).filterMap fun k =>
    match resolve s ⟨agGalliard (Config.commandDie p % 4), p, none⟩ .rd (va + 64 * k) 64 with
    | .ok loc =>
      let r := granOf (s.homeBytes loc 64)
      if recKind r = 0 then some (rf r 0x08 0 64) else none
    | .error _ => none

/-- Whether a breakpoint matches a LAUNCH packet. -/
def brkMatch (s : State) (p : Nat) (x : BitVec 512) (b : BitVec 55) : Bool :=
  match brkMode b with
  | 1 => (launchKerns s p (pkGraph x) (min (pkNnode x) 4096)).contains (brkAddr b)
  | 2 => (pkVec x).toNat = brkAddr b % 2048
  | _ => false

/-- A matched breakpoint with ONCE returns to MODE 00. -/
def brkOnce (b : BitVec 55) : BitVec 55 := if b.getLsbD 54 then fld b 54 1 ++ (0 : BitVec 2) ++ fld b 0 52 else b

/-- The processor stops at a match. -/
def CmdQ.stopAt (q : CmdQ) (which : Bool) (seq : BitVec 32) : CmdQ :=
  { q with
    hit := true, which := which, hitSeq := seq
    brk0 := if which then q.brk0 else brkOnce q.brk0
    brk1 := if which then brkOnce q.brk1 else q.brk1 }

/-- The submission of a LAUNCH packet: its instance, or the rejection with the failing check's cause. -/
def State.launch (s : State) (p : Nat) (x : BitVec 512) : State :=
  let s := s.consume p
  match s.submit p (Config.commandDie p % 4) (pkGraph x) (pkNnode x) none (.packet (pkSeq x) (pkVec x) (pkCpl x)) with
  | .error e => s.answerPacket p x noInst 2 e.1
  | .ok (i, s) => s.updCmdq p fun q => { q with launched := q.launched ++ [i] }

def launchPacket (p : Nat) (x : BitVec 512) (s : State) : State :=
  let q := (s.part p).cmdq
  if q.untested then s.launch p x
  else if brkMatch s p x q.brk0 then s.updCmdq p fun q => q.stopAt false (pkSeq x)
  else if brkMatch s p x q.brk1 then s.updCmdq p fun q => q.stopAt true (pkSeq x)
  else s.launch p x

def execCmdLaunch (s : State) : Out := packetStep s 1 launchPacket

/-- Writing 1 to HIT: the processor goes on and submits the stopped packet untested. -/
def State.brkResume (s : State) (p : Nat) : State :=
  if (s.part p).cmdq.hit then
    let s := (s.updCmdq p fun q => { q with hit := false, untested := true }).checkOver p
    match s.nextPacket p with
    | some x => if pkReject x (s.part p).cmdq.head = 0 && pkOpc x = 1 then s.launch p x else s
    | none => s
  else s

def execCmdqBrkResume (s : State) : Out :=
  match s.arg with
  | .unit p => .next (s.brkResume p)
  | _ => .next s

/-! ## The register page (R252, R366) -/

/-- CMDQ_CTL as the host reads it. -/
def CmdQ.ctlWord (q : CmdQ) : Word := packWord [(0, bit q.en), (1, q.logSlots), (8, q.coal.toNat)]

/-- CMDQ_STAT as the host reads it. -/
def CmdQ.statWord (q : CmdQ) : Word := packWord [(0, bit q.ovr), (1, bit (q.en && !q.halted && !q.hit))]

def CmdQ.brkstatWord (q : CmdQ) : Word := packWord [(0, bit q.hit), (1, bit q.which), (32, q.hitSeq.toNat)]

/-- What the host reads at an offset of the register page. -/
def CmdQ.regRead (q : CmdQ) (off : Nat) : Word :=
  if off = 0x000 then q.ctlWord
  else if off = 0x008 then q.statWord
  else if off = 0x010 then q.brk0.setWidth 64
  else if off = 0x018 then q.brk1.setWidth 64
  else if off = 0x020 then q.brkstatWord
  else 0

/-- A write to CMDQ_CTL: LOG2SLOTS keeps its value while EN is 1. -/
def CmdQ.writeCtl (q : CmdQ) (v : Word) : CmdQ :=
  { q with en := v.getLsbD 0, log2 := if q.en then q.log2 else fld v 1 4, coal := fld v 8 16 }

/-- HOST_REGISTER_WRITE of `v` at offset `off` of partition `p`'s page. -/
def execHostRegisterWrite (s : State) : Out :=
  match s.arg with
  | .word p off v =>
    if off = 0x000 then .next ((s.updCmdq p (·.writeCtl v)).checkOver p)
    else if off = 0x008 then .next (if v.getLsbD 0 then s.updCmdq p fun q => { q with ovr := false } else s)
    else if off = 0x010 then .next (s.updCmdq p fun q => { q with brk0 := v.setWidth 55 })
    else if off = 0x018 then .next (s.updCmdq p fun q => { q with brk1 := v.setWidth 55 })
    else if off = 0x020 then .next (if v.getLsbD 0 then s.brkResume p else s)
    else .next s
  | _ => .next s

/-! ## The window and the HDM range (R248, R341) -/

def State.writeTail (s : State) (p : Nat) (v : BitVec 32) : State := (s.updCmdq p fun q => { q with tail := v }).checkOver p

/-- HOST_TAIL_WRITE: the command processor's wait on TAIL re-tests. -/
def execHostTailWrite (s : State) : Out :=
  match s.arg with
  | .word p _ v => .next (s.writeTail p (v.setWidth 32))
  | _ => .next s

/-- HOST_HEAD_WRITE is dropped. -/
def execHostHeadWrite (s : State) : Out := .next s

/-- Location of an offset of the exposed LPDDR; none where no unit is exposed. -/
def Partition.hdmLoc (p : Partition) (off : Nat) : Option Nat :=
  (p.hdm.find ((off - 0x100000000) / 0x40000000)).map fun page => physBase + page * 0x40000000 + off % 0x40000000

/-- What the host reads at `n` bytes from `off`, an access within one 64-byte line. -/
def hdmRead (s : State) (p off n : Nat) : List Byte :=
  let q := (s.part p).cmdq
  let line (x : Nat) : List Byte := bytesAt (natBytes 64 x) (off % 64) n
  if off < 0x10000 then line (q.slots.get (off / 64) 0).toNat
  else if off < 0x10040 then line q.tail.toNat
  else if off < 0x10080 then line q.head.toNat
  else if off < 0x100000000 then List.replicate n 0
  else
    match (s.part p).hdmLoc off with
    | some loc => s.homeBytes loc n
    | none => List.replicate n 0xFF

/-- Bytes written over a line. -/
def patchLine (x : Nat) (i : Nat) (bs : List Byte) : Nat :=
  bytesNat ((natBytes 64 x).take i ++ bs ++ (natBytes 64 x).drop (i + bs.length))

def State.hdmWrite (s : State) (p off : Nat) (bs : List Byte) : State :=
  let q := (s.part p).cmdq
  if off < 0x10000 then
    s.updCmdq p fun q =>
      { q with slots := q.slots.set (off / 64) (BitVec.ofNat 512 (patchLine (q.slots.get (off / 64) 0).toNat (off % 64) bs)) }
  else if off < 0x10040 then s.writeTail p (BitVec.ofNat 32 (patchLine q.tail.toNat (off % 64) bs))
  else if off < 0x100000000 then s
  else
    match (s.part p).hdmLoc off with
    | some loc => s.homeWrite agHost loc bs
    | none => s

/-- The host's access to its own memory, which it maps at a host physical address (07_ordering.md R210): it performs at the coherence
point; a read answers in `dbgValue`, as an atomic does with the bytes before it. -/
def State.hostAccess (s : State) (loc n : Nat) (op : HostOp) : State :=
  let old := s.homeBytes loc n
  let s := match op with
    | .read => s.homeRead agHost loc n
    | .write bs => s.homeWrite agHost loc (bs.take n)
    | .swapIf e new => if e = old then (s.homeRead agHost loc n).homeWrite agHost loc (new.take n) else s.homeRead agHost loc n
  match op with
  | .write _ => s
  | _ => { s with dbgValue := old }

/-- HOST_HDM_ACCESS, within one 64-byte line: a read answers in `dbgValue`. An access by the software of partition `q` to the part of
another partition reads all ones and writes nothing (11_isolation.md R341). The same row carries the host's accesses to its own
memory. -/
def execHostHdmAccess (s : State) : Out :=
  match s.arg with
  | .hdm q p off n w =>
    if q ≠ p then .next (if w.isNone then { s with dbgValue := List.replicate n 0xFF } else s)
    else if off % 64 + n ≤ 64 && (match w with | some bs => bs.length = n | none => true) then
      match w with
      | some bs => .next (s.hdmWrite p off bs)
      | none =>
        let v := hdmRead s p off n
        let s := match (s.part p).hdmLoc off with
          | some loc => if 0x100000000 ≤ off then s.homeRead agHost loc n else s
          | none => s
        .next { s with dbgValue := v }
    else .next s
  | .hostMem a n op => if a < 0x8000000000000 && a % 64 + n ≤ 64 then .next (s.hostAccess (hostBase + a) n op) else .next s
  | _ => .next s

end Sys2Proof.Machine
end

