-- ==== Sys2Proof/Machine/Sync.lean ====
section
/-!
DEFINITION. Flags, rings, named barriers and the token-queue query, with the returns, timeouts and interruptions of their
waits (08_sync_async.md R221 to R235, R243, R401; 01_machine.md R24; 12_recovery.md R347).
-/

namespace Sys2Proof.Machine

/-! ## Flags (R221 to R224) -/

/-- A flag instruction's flag: home and number, or none for a number that FLAGNUM turns away (R221). -/
def State.flagName (s : State) (g : Nat) (die : Bool) (x : Word) : Option (Nat × Nat) :=
  let n := x.toNat
  if 2 ^ 16 ≤ n then none
  else if die then
    let sel := n / 4096
    if sel = 0 then some (dieOf g, n % 4096)
    else if sel ≤ 4 then some (sel - 1, n % 4096)
    else none
  else
    let sel := n / 1024
    let k := if sel = 0 then clusOf g else sel - 1
    if sel ≤ 32 && (s.cluster k).part = s.partOf g then some (k, n % 1024) else none

/-- The flag of s(A) + OBJ. -/
def flagOperand (c : Core) (a : BitVec 6) (obj : BitVec 10) : Word := c.reg a + obj.setWidth 64

/-- Write a flag on behalf of a core. -/
def State.writeFlag (s : State) (g : Nat) (die : Bool) (home f : Nat) (v : BitVec 32) : State :=
  if die then s.setDieFlag g (s.partOf g) home f v else s.setFlag g home f v

/-- A flag instruction: `f` acts on its flag's home and number. -/
def flagWord (q : Qual) (rs : List (BitVec 6)) (die : Bool) (a : BitVec 6) (obj : BitVec 10) (s : State)
    (f : Nat → Nat → State → Out) : Out :=
  scalarWord q (a :: rs) [] s fun s =>
    let x := flagOperand s.myCore a obj
    match s.flagName s.me die x with
    | none => s.trap { cause := cFLAGNUM, addr := x.toNat, aux := x.toNat % 2 ^ 16 }
    | some (home, n) => f home n s

/-- FSIG and FSET: a release, then one indivisible step at the flag's home; s(D) takes the old value. -/
def flagWrite (q : Qual) (die : Bool) (d a b : BitVec 6) (obj : BitVec 10) (new : BitVec 32 → BitVec 32 → BitVec 32)
    (s : State) : Out :=
  flagWord q [d, b] die a obj s fun home n s =>
    releasing .dev s fun s =>
      let old := s.flagAt (s.partOf s.me) die home n
      let s := s.writeFlag s.me die home n (new old ((s.myCore.reg b).setWidth 32))
      .next ((s.putReg s.me d (old.setWidth 64)).advance s.me)

def execFsig (q : Qual) (die : Bool) (d a b : BitVec 6) (obj : BitVec 10) (s : State) : Out :=
  flagWrite q die d a b obj (fun old v => old + v) s

def execFset (q : Qual) (die : Bool) (d a b : BitVec 6) (obj : BitVec 10) (s : State) : Out :=
  flagWrite q die d a b obj (fun _ v => v) s

/-- The deadline of a timeout exponent: 2^e cycles from issue; 0xFF is none (R223, R401). -/
def expDeadline (now : Nat) (e : BitVec 8) : Option Nat := if e = 0xFF then none else some (now + 2 ^ e.toNat)

/-- The flag's value lands in s(D), with the acquire. -/
def State.flagReturn (s : State) (g : Nat) (d : BitVec 6) (v : BitVec 32) : State :=
  ((s.putReg g d (v.setWidth 64)).discardStaging g).advance g

def execFwait (q : Qual) (die : Bool) (d a b : BitVec 6) (obj : BitVec 10) (e : BitVec 8) (s : State) : Out :=
  flagWord q [d, b] die a obj s fun home n s =>
    let v := s.flagAt (s.partOf s.me) die home n
    let t := (s.myCore.reg b).setWidth 32
    if reached v t || s.interrupted s.me then .next (s.flagReturn s.me d v)
    else
      .next (s.updMe fun c => { c with wait := some (.fwait die home n t s.cycle (expDeadline s.cycle e) d 0) })

def execFread (q : Qual) (die : Bool) (d a : BitVec 6) (obj : BitVec 10) (s : State) : Out :=
  flagWord q [d] die a obj s fun home n s => .next (s.flagReturn s.me d (s.flagAt (s.partOf s.me) die home n))

/-- The waiting FWAIT of core `g` returns, with its record (R224). -/
def State.fwaitEnd (s : State) (g home flag issued agent : Nat) (die timeout : Bool) (d : BitVec 6) : State :=
  let s := s.flagRecord g die home flag issued agent timeout false
  (s.updCore g fun c => { c with wait := none }).flagReturn g d (s.flagAt (s.partOf g) die home flag)

/-- FLAG_WAIT_RETURN: the target of core `g`'s FWAIT has been reached. -/
def execFlagWaitReturn (s : State) : Out :=
  match s.arg with
  | .unit g =>
    match (s.core g).wait with
    | some (.fwait die home f t i _ d ag) =>
      if reached (s.flagAt (s.partOf g) die home f) t then .next (s.fwaitEnd g home f i ag die false d) else .next s
    | _ => .next s
  | _ => .next s

/-- FWAIT_TIMEOUT: its deadline has passed. -/
def execFwaitTimeout (s : State) : Out :=
  match s.arg with
  | .unit g =>
    match (s.core g).wait with
    | some (.fwait die home f t i dl d ag) =>
      if reached (s.flagAt (s.partOf g) die home f) t then .next (s.fwaitEnd g home f i ag die false d)
      else if passed s.cycle dl then .next (s.fwaitEnd g home f i ag die true d)
      else .next s
    | _ => .next s
  | _ => .next s

/-! ## Rings (R226 to R229) -/

def State.updRing (s : State) (k n : Nat) (f : Ring → Ring) : State :=
  s.updCluster k fun x => { x with rings := x.rings.set n (f (x.rings.get n .reset)) }

/-- Claim the next slot: its index and the ring after it; none while every slot is claimed. -/
def Ring.claim (r : Ring) : Option (Nat × Ring) :=
  if (r.claimed - r.head).toNat < r.count.toNat then
    some (r.claimed.toNat % r.count.toNat, { r with claimed := r.claimed + 1 })
  else none

/-- Take the next published slot. -/
def Ring.take (r : Ring) : Option (Nat × Ring) :=
  if r.taken = r.tail then none else some (r.taken.toNat % r.count.toNat, { r with taken := r.taken + 1 })

/-- TAIL moves over the filled slots. -/
def Ring.advTail (r : Ring) : Nat → Ring
  | 0 => r
  | f + 1 =>
    let i := r.tail.toNat % r.count.toNat
    if r.tail != r.claimed && r.filled.contains i then
      ({ r with filled := r.filled.filter (· != i), tail := r.tail + 1 } : Ring).advTail f
    else r

/-- HEAD moves over the released slots. -/
def Ring.advHead (r : Ring) : Nat → Ring
  | 0 => r
  | f + 1 =>
    let i := r.head.toNat % r.count.toNat
    if r.head != r.taken && r.released.contains i then
      ({ r with released := r.released.filter (· != i), head := r.head + 1 } : Ring).advHead f
    else r

/-- Whether slot `i` lies in the laps `[lo, hi)`. -/
def Ring.within (r : Ring) (lo hi : BitVec 32) (i : Nat) : Bool :=
  (i + r.count.toNat - lo.toNat % r.count.toNat) % r.count.toNat < (hi - lo).toNat

/-- Publish slot `i`; none for a slot that is not claimed, or is published or filled (RINGSEQ). -/
def Ring.publish (r : Ring) (i : Nat) : Option Ring :=
  if r.within r.tail r.claimed i && !r.filled.contains i then
    some (({ r with filled := r.filled ++ [i] } : Ring).advTail (r.count.toNat + 1))
  else none

/-- Release slot `i`; none for a slot that is not taken, or is released. -/
def Ring.release (r : Ring) (i : Nat) : Option Ring :=
  if r.within r.head r.taken i && !r.released.contains i then
    some (({ r with released := r.released ++ [i] } : Ring).advHead (r.count.toNat + 1))
  else none

/-- Whether the ring's slots lie in its cluster's own window. -/
def Ring.ownBase (r : Ring) : Bool := ownClus ≤ r.base.toNat && r.base.toNat < ownClus + clusSize

/-- Address of slot `i` of a ring of cluster `k` as a core of cluster `k'` sees it (R227). -/
def Ring.slotVa (r : Ring) (k k' i : Nat) : Nat :=
  let a := r.base.toNat + i * r.slotsz.toNat
  if r.ownBase && k != k' then clusLoc k + (a - ownClus) else a

/-- An address in a ring's own addressing: an any-cluster address of the ring's cluster names its own scratch, and for a core
of another cluster the own window names other bytes. -/
def Ring.ownAddr (r : Ring) (k k' va : Nat) : Option Nat :=
  if !r.ownBase then some va
  else if clusLoc k ≤ va && va < clusLoc k + clusSize then some (va - clusLoc k + ownClus)
  else if k = k' then some va
  else none

/-- The slot that an address names exactly. -/
def Ring.slotOf (r : Ring) (k k' : Nat) (va : Nat) : Option Nat :=
  match r.ownAddr k k' va with
  | none => none
  | some a =>
    if r.base.toNat ≤ a && (a - r.base.toNat) % r.slotsz.toNat = 0 && (a - r.base.toNat) / r.slotsz.toNat < r.count.toNat then
      some ((a - r.base.toNat) / r.slotsz.toNat)
    else none

/-- The ring of a ring instruction: its cluster, or none for RINGNUM (R227). -/
def State.ringName (s : State) (g : Nat) (sel : Word) (n : Nat) : Option Nat :=
  let k := if sel = 0 then clusOf g else sel.toNat - 1
  if sel.toNat ≤ 32 && (s.ring k n).valid && (s.ring k n).part.toNat = s.partOf g && (s.cluster k).part = s.partOf g then some k
  else none

/-- A ring instruction: `f` acts on its ring's cluster and number. -/
def ringWord (q : Qual) (d a ring : BitVec 6) (s : State) (f : Nat → Nat → State → Out) : Out :=
  scalarWord q [d, a] [] s fun s =>
    match s.ringName s.me (s.myCore.reg a) ring.toNat with
    | none => s.trap { cause := cRINGNUM, aux := ring.toNat }
    | some k => f k ring.toNat s

/-- A claim or a take that succeeds: the address lands in s(D), with the acquire. -/
def State.ringGot (s : State) (g k n : Nat) (d : BitVec 6) (x : Nat × Ring) : State :=
  let s := (s.updRing k n fun _ => x.2).putReg g d (BitVec.ofNat 64 (x.2.slotVa k (clusOf g) x.1))
  ((s.discardStaging g).updCore g fun c => { c with wait := none }).advance g

/-- A claim or a take that gives up: s(D) takes 0. -/
def State.ringNone (s : State) (g : Nat) (d : BitVec 6) : State :=
  ((s.putReg g d 0).updCore g fun c => { c with wait := none }).advance g

/-- RCLM and RWF at issue. -/
def ringWait (q : Qual) (d a ring : BitVec 6) (op : Ring → Option (Nat × Ring)) (w : Nat → Nat → Wait) (s : State) : Out :=
  ringWord q d a ring s fun k n s =>
    match op (s.ring k n) with
    | some x => .next (s.ringGot s.me k n d x)
    | none =>
      if s.interrupted s.me then .next (s.ringNone s.me d)
      else .next (s.updMe fun c => { c with wait := some (w k n) })

def execRclm (q : Qual) (d a : BitVec 6) (ring : BitVec 6) (e : BitVec 8) (s : State) : Out :=
  ringWait q d a ring Ring.claim (fun k n => .rclm k n (expDeadline s.cycle e) d) s

def execRwf (q : Qual) (d a : BitVec 6) (ring : BitVec 6) (e : BitVec 8) (s : State) : Out :=
  ringWait q d a ring Ring.take (fun k n => .rwf k n (expDeadline s.cycle e) d) s

/-- RPUB and RREL: a release, then the slot that s(D) names. -/
def ringPut (q : Qual) (d a ring : BitVec 6) (op : Ring → Nat → Option Ring) (s : State) : Out :=
  ringWord q d a ring s fun k n s =>
    releasing .dev s fun s =>
      let r := s.ring k n
      match (r.slotOf k (clusOf s.me) (s.myCore.reg d).toNat).bind (op r) with
      | some r => (s.updRing k n fun _ => r).done
      | none => s.trap { cause := cRINGSEQ, addr := (s.myCore.reg d).toNat, aux := n }

def execRpub (q : Qual) (d a : BitVec 6) (ring : BitVec 6) (s : State) : Out := ringPut q d a ring Ring.publish s

def execRrel (q : Qual) (d a : BitVec 6) (ring : BitVec 6) (s : State) : Out := ringPut q d a ring Ring.release s

/-- The value of RINFO. -/
def Ring.info (r : Ring) : Word :=
  packWord [(48, r.claimed.toNat % 2 ^ 16), (32, r.tail.toNat % 2 ^ 16), (16, r.taken.toNat % 2 ^ 16), (0, r.head.toNat % 2 ^ 16)]

def execRinfo (q : Qual) (d a : BitVec 6) (ring : BitVec 6) (s : State) : Out :=
  ringWord q d a ring s fun k n s => .next ((s.putReg s.me d (s.ring k n).info).advance s.me)

/-- The waiting RCLM or RWF of core `g` is served, if it can be. -/
def State.ringTry (s : State) (g : Nat) : Option State :=
  match (s.core g).wait with
  | some (.rclm k n _ d) => (s.ring k n).claim.map (s.ringGot g k n d)
  | some (.rwf k n _ d) => (s.ring k n).take.map (s.ringGot g k n d)
  | _ => none

/-- RING_WAIT_RETURN: a slot is free or published for core `g`'s wait. -/
def execRingWaitReturn (s : State) : Out :=
  match s.arg with
  | .unit g => .next ((s.ringTry g).getD s)
  | _ => .next s

/-- RING_WAIT_TIMEOUT: the deadline of core `g`'s RCLM or RWF has passed. -/
def execRingWaitTimeout (s : State) : Out :=
  match s.arg with
  | .unit g =>
    match s.ringTry g with
    | some s => .next s
    | none =>
      match (s.core g).wait with
      | some (.rclm _ _ dl d) => if passed s.cycle dl then .next (s.ringNone g d) else .next s
      | some (.rwf _ _ dl d) => if passed s.cycle dl then .next (s.ringNone g d) else .next s
      | _ => .next s
  | _ => .next s

/-! ## Barriers (R230 to R234) -/

/-- Arrive of R232: the barrier after it, or the fault. -/
def Barrier.arrive (b : Barrier) (i : Nat) : Except Nat Barrier :=
  if !b.valid then .error cBARINIT
  else if !b.cur.getLsbD i then
    .ok (({ b with cur := b.cur ||| (1#16 <<< i), mem := b.mem ||| (1#16 <<< i) } : Barrier).complete 18)
  else if !b.nxt.getLsbD i then .ok (({ b with nxt := b.nxt ||| (1#16 <<< i) } : Barrier).complete 18)
  else .error cBARTHIRD

/-- BINIT's barrier (R234). -/
def Barrier.init (count : BitVec 8) : Barrier :=
  { cur := 0, nxt := 0, mem := 0, exp := count.setWidth 5, expl := count.setWidth 5, lost := false, valid := true, phase := 0 }

def execBinit (q : Qual) (b : BitVec 4) (count : BitVec 8) (s : State) : Out :=
  scalarWord q [] [] s fun s =>
    releasing .dev s fun s =>
      let k := clusOf s.me
      let x := s.bar k b.toNat
      if x.valid && (x.cur != 0 || x.nxt != 0) then s.trap { cause := cBARBUSY, aux := b.toNat }
      else (s.setBar k b.toNat (.init count)).done

def execBara (q : Qual) (d : BitVec 6) (b : BitVec 4) (s : State) : Out :=
  scalarWord q [d] [] s fun s =>
    releasing .dev s fun s =>
      let k := clusOf s.me
      match (s.bar k b.toNat).arrive (s.me % 16) with
      | .error e => s.trap { cause := e, aux := b.toNat }
      | .ok x => .next (((s.setBar k b.toNat x).putReg s.me d (x.status (s.me % 16) false)).advance s.me)

/-- A BARW returns: status, c1, and the acquire. -/
def State.barReturn (s : State) (g : Nat) (d : BitVec 6) (r : Word × Bool) : State :=
  let s := s.updCore g fun c => { ((c.setReg d r.1).setCreg 1 r.2) with wait := none }
  (s.discardStaging g).advance g

def execBarw (q : Qual) (d : BitVec 6) (b : BitVec 4) (s : State) : Out :=
  scalarWord q [d] [1] s fun s =>
    releasing .dev s fun s =>
      let k := clusOf s.me
      match (s.bar k b.toNat).arrive (s.me % 16) with
      | .error e => s.trap { cause := e, aux := b.toNat }
      | .ok x =>
        let s := s.setBar k b.toNat x
        let i := s.me % 16
        if x.doneFor i then .next (s.barReturn s.me d (x.status i false, x.lost))
        else if s.interrupted s.me then .next (s.barReturn s.me d (x.status i true, x.lost))
        else .next (s.updMe fun c => { c with wait := some (.barw b.toNat d none) })

def execBarq (q : Qual) (d : BitVec 6) (b : BitVec 4) (s : State) : Out :=
  scalarWord q [d] [] s fun s =>
    let x := s.bar (clusOf s.me) b.toNat
    let s := s.putReg s.me d (x.status (s.me % 16) false)
    (if x.doneFor (s.me % 16) then s.discardStaging s.me else s).done

/-- BARRIER_WAIT_RETURN: the phase of core `g`'s arrival has completed. -/
def execBarrierWaitReturn (s : State) : Out :=
  match s.arg with
  | .unit g =>
    match (s.core g).wait with
    | some (.barw _ d (some r)) => .next (s.barReturn g d r)
    | _ => .next s
  | _ => .next s

/-! ## Token queues (R235) -/

def execTkq (q : Qual) (d : BitVec 6) (t : TokQ) (s : State) : Out :=
  scalarTo q d [] [] (fun c => packWord [(0, (c.tok t).vis), (4, (c.tok t).res)]) s

/-! ## Interruption and expiry (R24, R243, R347) -/

/-- WAIT_INTERRUPT: what interrupts a wait has reached core `g`. A JOIN waits on, and every armed WAITA .rlx completes. -/
def execWaitInterrupt (s : State) : Out :=
  match s.arg with
  | .unit g =>
    if s.interrupted g then
      match (s.core g).wait with
      | some (.join _ _) => .next (s.monReturnAll g)
      | _ => .next ((s.interruptWait g).monReturnAll g)
    else .next s
  | _ => .next s

/-- PHASETIME_EXPIRY: the limit of core `g`'s phase or stay in handler mode has passed. -/
def execPhasetimeExpiry (s : State) : Out :=
  match s.arg with
  | .unit g =>
    let c := s.core g
    if c.running && !c.stopped && !c.halted && c.pend.isNone && s.overtime c then .next (s.phaseTrap g) else .next s
  | _ => .next s

/-- Since when core `g` has waited for its engine queues: at handler entry, at a stop point or after its last phase. -/
def Core.waitsSince (c : Core) : Option Nat :=
  match c.pend with
  | some p => if c.olderDone p.seq then none else some p.since
  | none => if c.drained || c.inh || c.halted || !(c.stopped || c.phase = .ended) then none else c.drainSince

/-- TOKDEAD_EXPIRY: core `g`'s queues have not drained 65,536 cycles after it began to wait for them. -/
def execTokdeadExpiry (s : State) : Out :=
  match s.arg with
  | .unit g =>
    let c := s.core g
    match c.waitsSince with
    | some t =>
      if t + 65536 < s.cycle && c.task.isSome then
        let rep := s.report g c.pc c.pc { cause := cTOKDEAD }
        .next ((s.traceCore g evFAULT (BitVec.ofNat 64 cTOKDEAD) c.pc).fatal g rep)
      else .next s
    | none => .next s
  | _ => .next s

end Sys2Proof.Machine
end

