-- ==== Sys2Proof/Machine/Retrieval.lean ====
section
/-!
DEFINITION. Retrieval: indexes and passage stores, appends and merges, searches with their traversals and results
(10_retrieval_attention.md R287 to R301; 08_sync_async.md R229; 01_machine.md R38).
-/

namespace Sys2Proof.Machine

/-! ## Delivering into a ring (08_sync_async.md R229) -/

/-- Location of slot `i` of a ring of cluster `k` (R226: the slots lie in one scratch window). -/
def Ring.slotLoc (r : Ring) (k i : Nat) : Nat :=
  let a := r.base.toNat + i * r.slotsz.toNat
  if r.ownBase then clusLoc k + (a - ownClus) else a

/-- Write the first bytes of a claimed slot and publish it. -/
def State.fillSlot (s : State) (agent k n i : Nat) (bytes : List Byte) : State :=
  let s := s.homeWrite agent ((s.ring k n).slotLoc k i) bytes
  s.updRing k n fun r => (r.publish i).getD r

/-! ## Stores (R288, R333) -/

/-- Store `name` of flash namespace `ns`. -/
def State.store (s : State) (ns name : Nat) : Option Store := (s.stores.get ns []).find name

def State.putStore (s : State) (ns name : Nat) (x : Store) : State :=
  { s with stores := s.stores.set ns ((s.stores.get ns []).set name x) }

/-- The store that an entry of partition `p` names, in a namespace granted to the partition and held by no other since
(11_isolation.md R323, R324, R333; assumption 76). -/
def State.storeOf (s : State) (p : Nat) (e : ObjEntry) : Option Store :=
  if (s.part p).namespaces.contains e.ns && s.spaceOwner.get e.ns p = p then s.store e.ns e.store else none

/-- The controller that owns a store (01_machine.md R38). -/
def storeCtrl (ns name : Nat) : Nat := Config.ownerController ns name % 16

/-- The identifier that is never stored. -/
def noId : Word := BitVec.allOnes 64

def noDups (ids : List Word) : Bool :=
  match ids with
  | [] => true
  | i :: is => !is.contains i && noDups is

/-- The vectors of a generation with their identifiers. -/
def indexVectors (p : IndexProps) (g : IndexGen) : List (Word × List Byte) :=
  if p.graph then g.recs.map fun r => (r.id, r.vec) else g.lists.flatten

/-- The properties' limits of R288. -/
def propsOk (p : IndexProps) : Bool :=
  (p.fmt = .f8a || p.fmt = .f8b || p.fmt = .i8) && 64 ≤ p.d && p.d ≤ 4096 && p.d % 64 = 0 &&
  1024 ≤ p.logcap && p.logcap ≤ 1048576 &&
  (if p.graph then 8 ≤ p.m && p.m ≤ 64 && p.d % p.m = 0 && 8 ≤ p.maxdeg && p.maxdeg ≤ 64
   else 1 ≤ p.nlist && p.nlist ≤ 65536)

/-- A generation that an index of these properties can hold. -/
def genOk (g : IndexGen) (p : IndexProps) : Bool :=
  let vs := indexVectors p g
  vs.all (fun v => v.1 != noId && v.2.length = p.d) && noDups (vs.map (·.1)) &&
  (if p.graph then g.recs.all fun r => r.nbrs.length ≤ p.maxdeg && r.nbrs.all fun n => n.1 != noId && n.2.length = p.m
   else g.centroids.length = p.nlist && g.lists.length = p.nlist && g.centroids.all fun c => c.length = p.d)

def newStoreOk : NewStore → Bool
  | .index p g => propsOk p && genOk g p
  | .passages ps => noDups (ps.map (·.1))

/-- INDEX_CREATE: service firmware, while it runs (R337), makes an index, or a passage store, under a name that is free in a namespace. -/
def execIndexCreate (s : State) : Out :=
  match s.arg with
  | .store ns name st =>
    if s.firmware != .running || (s.store ns name).isSome || !newStoreOk st then .next s
    else
      let x := match st with
        | .index q g => Store.index ⟨q, 0, 0, g, []⟩
        | .passages ps => Store.passages ps
      .next (s.putStore ns name x)
  | _ => .next s

/-- INDEX_REMOVE of store `name` of namespace `ns`. -/
def execIndexRemove (s : State) : Out :=
  match s.arg with
  | .pair ns name =>
    if s.firmware = .running then .next { s with stores := s.stores.set ns ((s.stores.get ns []).del name) } else .next s
  | _ => .next s

/-! ## The append log (R289, R290, R291) -/

/-- For each identifier of the records, the last record that names it. -/
def deciding : List LogRec → List LogRec
  | [] => []
  | r :: rs => if rs.any (·.id = r.id) then deciding rs else r :: deciding rs

/-- Vectors with the log records applied. -/
def applyLog (vs : List (Word × List Byte)) (log : List LogRec) : List (Word × List Byte) :=
  let ds := deciding log
  vs.filter (fun v => !ds.any (·.id = v.1)) ++ (ds.filter fun r => !r.del).map fun r => (r.id, r.vec)

/-- Whether two lists hold the same members. -/
def sameMembers (a b : List (Word × List Byte)) : Bool := a.all b.contains && b.all a.contains

/-- INDEX_MERGE_COMMIT: generation G + 1, which covers the log up to the new merge point, becomes current. -/
def execIndexMergeCommit (s : State) : Out :=
  match s.arg with
  | .merge ns name mg g =>
    match s.store ns name with
    | some (.index x) =>
      let vs := applyLog (indexVectors x.props x.cur) ((x.log.drop x.mg).take (mg - x.mg))
      if s.firmware = .running && x.mg ≤ mg && mg ≤ x.log.length && genOk g x.props && sameMembers vs (indexVectors x.props g) then
        .next (s.putStore ns name (.index { x with gen := x.gen + 1, mg := mg, cur := g }))
      else .next s
    | _ => .next s
  | _ => .next s

/-- The index that an entry of partition `p` names. -/
def State.indexOf (s : State) (p : Nat) (e : ObjEntry) : Option Index :=
  if entRight e.bits 4 then
    match s.storeOf p e with
    | some (.index x) => some x
    | _ => none
  else none

/-- A record in own near scratch, aligned to its size: its bytes. -/
def nearRecord (s : State) (va n : Nat) : Option (Nat × List Byte) :=
  if va % n = 0 && ownNear ≤ va && va < ownNear + nearSize then
    let loc := nearLoc s.me + (va - ownNear)
    some (loc, s.homeBytes loc n)
  else none

/-- The fields of an append record. -/
def appendOk (bs : List Byte) : Bool :=
  wfld (dwordAt bs 0) 17 47 = 0 && dwordAt bs 8 != noId && wfld (dwordAt bs 16) 52 12 = 0 &&
  (!(dwordAt bs 0).getLsbD 16 || dwordAt bs 16 = 0) && (bs.drop 24).all (· = 0)

/-- Where the vector of an append lies; a deletion has none. -/
def appendRuns (s : State) (del : Bool) (va d : Nat) : Except Trap (List (Nat × Nat)) :=
  if del then .ok []
  else
    match resolveRange s (s.whoCore s.me) .rd va d with
    | .error e => .error e.trap
    | .ok rs => .ok rs

/-- The vector of an append, read once. -/
def appendVector (s : State) (del : Bool) (va d : Nat) : Except Trap (List Byte) :=
  match appendRuns s del va d with
  | .error t => .error t
  | .ok rs => if s.runsUnc rs then .error { cause := cMEMUNC, addr := va } else .ok (s.runsBytes rs)

/-- An accepted append: its record takes the next position, visible from now on. -/
def State.append (s : State) (p : Nat) (e : ObjEntry) (x : Index) (r : LogRec) (flag : Nat) : State :=
  let (i, s) := s.newId
  { s.putStore e.ns e.store (.index { x with log := x.log ++ [r] }) with
    appends := s.appends ++ [⟨i, p, s.instOf s.me, clusOf s.me, flag, storeCtrl e.ns e.store⟩] }

def execIxapp (q : Qual) (d a : BitVec 6) (flag : BitVec 10) (s : State) : Out :=
  scalarWord q [d, a] [] s fun s =>
    releasing .dev s fun s =>
      let p := s.partOf s.me
      let va := (s.myCore.reg a).toNat
      match nearRecord s va 64 with
      | none => s.trap { cause := cIXREC, addr := va }
      | some (loc, bs) =>
        let w0 := dwordAt bs 0
        let obj := wfld w0 0 16
        if s.unc loc 64 then s.trap { cause := cMEMUNC, addr := va }
        else if !appendOk bs then s.trap { cause := cIXREC, addr := va }
        else
          match s.obj p obj with
          | none => s.trap { cause := cOBJINV, aux := obj }
          | some e =>
            match s.indexOf p e with
            | none => s.trap { cause := cSRIGHTS, aux := obj }
            | some x =>
              -- the location is checked before the log's room, and the vector is read only on success
              match appendRuns s (w0.getLsbD 16) (dwordAt bs 16).toNat x.props.d with
              | .error t => s.trap t
              | .ok _ =>
                if x.props.logcap ≤ x.log.length - x.mg then s.trap { cause := cIXFULL, aux := obj }
                else
                  match appendVector s (w0.getLsbD 16) (dwordAt bs 16).toNat x.props.d with
                  | .error t => s.trap t
                  | .ok vec =>
                  let s := s.append p e x ⟨w0.getLsbD 16, dwordAt bs 8, vec⟩ flag.toNat
                  .next ((s.putReg s.me d (BitVec.ofNat 64 x.log.length)).advance s.me)

/-- IXAPP_DURABLE: the record is durable, and its flag is signalled. -/
def execIxappDurable (s : State) : Out :=
  match s.arg with
  | .unit i =>
    match s.appends.find? (·.id = i) with
    | some x => .next ({ s with appends := s.appends.filter (·.id != i) }.signal (agCtrl x.ctrl) x.clus x.flag)
    | none => .next s
  | _ => .next s

/-! ## Distances (R294) -/

/-- The exact value of an element. -/
def vecElem (t : Ty) (b : Byte) : FV :=
  if t = .i8 then (let v := signedOf 8 b.toNat; .fin (v < 0) v.natAbs 0) else (fmtOf t).decode b.toNat

/-- A product; the integers have no −0. -/
def vecMul (t : Ty) (a b : FV) : FV :=
  let p := a.mul b
  if t = .i8 && p.isZero then .fin false 0 0 else p

def f32Of (v : FV) : Nat := (fmtF32.deliver .rne 0 false v).1

/-- −x of FP32 bits; a NaN stays the canonical one. -/
def f32Neg (b : Nat) : Nat := if isNanBits .f32 b then b else fmtF32.flipBits b

/-- The distance of a stored vector from the query. -/
def dist (p : IndexProps) (q x : List Byte) : BitVec 32 :=
  let ps := List.zip (q.map (vecElem p.fmt)) (x.map (vecElem p.fmt))
  BitVec.ofNat 32
    (if p.l2 then f32Of (exactSum (ps.map fun y => let e := y.1.add .rne y.2.flip; e.mul e))
     else f32Neg (f32Of (exactSum (ps.map fun y => vecMul p.fmt y.1 y.2))))

/-- The guidance distance of a code. -/
def guide (tab : List Byte) (code : List Byte) : BitVec 32 :=
  BitVec.ofNat 32 (f32Of (exactSum ((enum code).map fun (i, c) => fmtF32.decode (natAt tab (4 * (256 * i + c.toNat)) 4))))

/-- The order of candidates and results: the key of R76, then the identifier. -/
def distBefore (a b : BitVec 32 × Word) : Bool :=
  let x := keyOf .f32 a.1.toNat
  let y := keyOf .f32 b.1.toNat
  x < y || (x = y && a.2.toNat < b.2.toNat)

def insertScored (a : BitVec 32 × Word) : List (BitVec 32 × Word) → List (BitVec 32 × Word)
  | [] => [a]
  | b :: bs => if distBefore a b then a :: b :: bs else b :: insertScored a bs

def sortScored (l : List (BitVec 32 × Word)) : List (BitVec 32 × Word) := l.foldr insertScored []

/-! ## Graph traversal (R295, R297 to R299) -/

def Cand.before (a b : Cand) : Bool := distBefore (a.guide, a.id) (b.guide, b.id)

def insertCand (c : Cand) : List Cand → List Cand
  | [] => [c]
  | d :: ds => if c.before d then c :: d :: ds else d :: insertCand c ds

/-- The neighbours of a record that are new enter in record order. -/
def addNeighbours (tab : List Byte) : List (Word × List Byte) → List Word → List Cand → List Word × List Cand
  | [], seen, cand => (seen, cand)
  | (i, code) :: ns, seen, cand =>
    if seen.contains i then addNeighbours tab ns seen cand
    else addNeighbours tab ns (i :: seen) (insertCand ⟨guide tab code, i, false, 0⟩ cand)

/-- Expand candidate `c`: its record is scored and its neighbours join. An identifier with no record in the generation costs a page and
scores nothing (assumption 30). -/
def Search.expand (x : Search) (c : Cand) : Search :=
  let cand := listUpd x.cand (·.id = c.id) fun d => { d with expanded := true }
  match x.snap.recs.find? (·.id = c.id) with
  | none => { x with cand := cand, done := x.done + 1 }
  | some r =>
    let n := addNeighbours x.guideTab r.nbrs x.seen cand
    { x with
      cand := n.2.take x.beam
      seen := n.1
      scored := x.scored ++ [(dist x.props x.query r.vec, c.id)]
      done := x.done + 1 }

/-- The fifth failed read of a candidate or page drops it; an earlier one puts it back in its place. -/
def Search.readFails (x : Search) (fails : Nat) : Search :=
  if fails = 4 then { x with lost := x.lost + 1 } else { x with req := x.req + 1 }

/-! ## ivf traversal (R296) -/

def centsPerPage (p : IndexProps) : Nat := 16384 / p.d
def recsPerPage (p : IndexProps) : Nat := 16384 / (8 + p.d)

def ceilDiv (a b : Nat) : Nat := (a + b - 1) / b

/-- The members of page `i` of a list of `n` to a page. -/
def pageItems {α : Type} (n i : Nat) (l : List α) : List α := (l.drop (n * i)).take n

def centroidPages (x : IndexProps) : List ListPage :=
  (List.range (ceilDiv x.nlist (centsPerPage x))).map fun i => ⟨x.nlist, i, 0⟩

/-- The pages of the first BEAM lists in the order of their centroids' distances. -/
def Search.chosenPages (x : Search) : List ListPage :=
  (((sortScored x.cents).take x.beam).map fun c =>
    (List.range (ceilDiv (x.snap.lists.getD c.2.toNat []).length (recsPerPage x.props))).map fun i =>
      (⟨c.2.toNat, i, 0⟩ : ListPage)).flatten

/-- A page is scored. -/
def Search.scorePage (x : Search) (p : ListPage) : Search :=
  if p.list = x.props.nlist then
    let cs := pageItems (centsPerPage x.props) p.page (enum x.snap.centroids)
    { x with
      cents := x.cents ++ cs.map fun (i, c) => (dist x.props x.query c, BitVec.ofNat 64 i)
      done := x.done + 1 }
  else
    let rs := pageItems (recsPerPage x.props) p.page (x.snap.lists.getD p.list [])
    { x with
      scored := x.scored ++ rs.map fun (i, v) => (dist x.props x.query v, i)
      done := x.done + 1 }

/-- The centroids are ranked once every centroid page has been read or dropped. -/
def Search.chooseLists (x : Search) : Search :=
  if !x.props.graph && !x.listed && x.todo = [] then { x with todo := x.chosenPages, listed := true } else x

/-! ## One read of a traversal -/

/-- The candidates that wait for their record, in order. -/
def Search.unread (x : Search) : List Cand := x.cand.filter fun c => !c.expanded

/-- The reads that may complete (R299). While every one has completed in the order of issue, the unread candidates in their order, so
that the results are those of DET = 1, then the reads whose candidates the beam dropped; once one has overtaken another, those in
flight in the order of issue, then the unread candidates that are not (assumption 30). -/
def Search.reads (x : Search) : List Cand :=
  if x.ooo then x.flying ++ x.unread.filter fun c => !x.flying.any (·.id = c.id)
  else x.unread ++ x.flying.filter fun c => !x.unread.any (·.id = c.id)

/-- Whether the traversal is over, and whether it needed another page. -/
def Search.judge (x : Search) : Search :=
  let more := if x.props.graph then x.unread != [] || (x.ooo && x.flying != []) else x.todo != []
  if !more then { x with finished := true }
  else if x.pages ≤ x.done then { x with finished := true, short := true }
  else x

/-- Whether read number `i` in the order of choice may complete when `more` after it have been issued: the next one alone in
deterministic mode, else any of the sixteen in flight that the budget allows. -/
def Search.mayRead (x : Search) (i more : Nat) : Bool :=
  !x.finished && (i + more = 0 || (!x.det && i + more < 16 && i + more < x.pages - x.done))

/-- The reads in flight after one of candidate `c`, in the order of issue: those that were, and the first `n` that may complete. -/
def Search.flights (x : Search) (c : Cand) (n : Nat) : List Cand :=
  (x.flying ++ (x.reads.take n).filter fun d => !x.flying.any (·.id = d.id)).filter (·.id != c.id)

/-- Read `i` of a graph traversal completes or fails; those issued before it, and the `more` issued after it, stay in flight, wherever
their candidates then stand (R299), sixteen at most. -/
def Search.readGraph (x : Search) (i more : Nat) (ok : Bool) : Option (Search × Option (Option Word)) :=
  match x.reads[i]? with
  | none => none
  | some c =>
    let x := { x with flying := x.flights c (i + 1 + more), ooo := x.ooo || i != 0 }
    if 16 ≤ x.flying.length then none
    else if ok then some (x.expand c, none)
    else
      let x := x.readFails c.fails
      if c.fails = 4 then some ({ x with cand := x.cand.filter (·.id != c.id) }, none)
      else some ({ x with cand := listUpd x.cand (·.id = c.id) fun d => { d with fails := d.fails + 1 } }, some (some c.id))

/-- Read `i` of an ivf traversal completes or fails. -/
def Search.readList (x : Search) (i : Nat) (ok : Bool) : Option (Search × Option (Option Word)) :=
  match x.todo[i]? with
  | none => none
  | some p =>
    if ok then some ({ x with todo := x.todo.eraseIdx i }.scorePage p, none)
    else
      let x := x.readFails p.fails
      if p.fails = 4 then some ({ x with todo := x.todo.eraseIdx i }, none)
      else some ({ x with todo := x.todo.set i { p with fails := p.fails + 1 } }, some none)

/-! ## Results (R300, R301) -/

/-- Keep the first entry of each identifier. -/
def dedupFrom : List Word → List (BitVec 32 × Word) → List (BitVec 32 × Word)
  | _, [] => []
  | seen, e :: es => if seen.contains e.2 then dedupFrom seen es else e :: dedupFrom (e.2 :: seen) es

/-- The results: the log merged in, in order, no identifier twice, at most K. -/
def Search.results (x : Search) : List (BitVec 32 × Word) :=
  let ds := deciding x.logVis
  let ins := (ds.filter fun r => !r.del).map fun r => (dist x.props x.query r.vec, r.id)
  (dedupFrom [] (sortScored (x.scored.filter (fun e => !ds.any (·.id = e.2)) ++ ins))).take x.k

/-- The result header. -/
def Search.header (x : Search) (status n : Nat) : List Byte :=
  natBytes 8 (packNat [(0, x.snum % 2 ^ 32), (32, status), (35, bit x.det), (36, n)]) ++
  natBytes 8 (x.gen % 2 ^ 32) ++ natBytes 8 x.logPos ++
  natBytes 8 (packNat [(0, x.done), (32, min x.req 65535), (48, min x.lost 65535)]) ++ List.replicate 32 0

def entryBytes (e : BitVec 32 × Word) : List Byte := wordBytes 8 e.2 ++ natBytes 8 e.1.toNat

/-- The bytes that a finished search writes into its slot. -/
def Search.resultBytes (x : Search) : List Byte :=
  let rs := x.results
  x.header (if x.short then 1 else 0) rs.length ++ (rs.map entryBytes).flatten

/-- Claim a result slot for search `n`, if it has none. -/
def State.claimFor (s : State) (n : Nat) : State :=
  match s.searches.find n with
  | none => s
  | some x =>
    if !x.finished || x.slot.isSome then s
    else
      match (s.ring x.ringClus x.ring).claim with
      | none => s
      | some (i, r) =>
        { s.updRing x.ringClus x.ring (fun _ => r) with searches := s.searches.set n { x with slot := some i } }

/-- Add 1 to a search's FLAG or DONEFLAG, its node completing. -/
def State.signalSearch (s : State) (x : Search) : State :=
  let s := if x.flagDie then s.signalDie (agCtrl x.ctrl) x.part x.flagHome x.flag else s.signal (agCtrl x.ctrl) x.flagHome x.flag
  s.nodeEnds x.inst x.node true

/-- Search `n` delivers its results, once it holds a slot. -/
def State.deliverSearch (s : State) (n : Nat) : State :=
  let s := s.claimFor n
  match s.searches.find n with
  | none => s
  | some x =>
    match x.slot with
    | none => s
    | some i =>
      let s := s.fillSlot (agCtrl x.ctrl) x.ringClus x.ring i x.resultBytes
      { s with searches := s.searches.del n }.signalSearch x

/-- A cancel token stops search `n` (R301): a claimed slot is published with STATUS 2 and nothing is signalled. -/
def State.stopSearch (s : State) (n : Nat) : State :=
  match s.searches.find n with
  | none => s
  | some x =>
    let s := match x.slot with
      | some i => s.fillSlot (agCtrl x.ctrl) x.ringClus x.ring i (x.header 2 0)
      | none => s
    { s with searches := s.searches.del n }.nodeEnds x.inst x.node false

/-- The re-queue of a failed read is traced; a page of an ivf index has no identifier to name. -/
def State.traceRequeue (s : State) (x : Search) : Option (Option Word) → State
  | none => s
  | some i =>
    let (v, s) := match i with
      | some v => (v, s)
      | none => s.free
    s.traceAgent (agCtrl x.ctrl) x.part (x.ctrl / 4) evSRCHREQ (BitVec.ofNat 64 x.snum) v

/-- FLASH_READ_COMPLETE of read `i` of search `n`: `ok` says whether its first decode succeeded, `more` how many reads after it have been
issued. -/
def execFlashReadComplete (s : State) : Out :=
  match s.arg with
  | .flash n i ok more =>
    match s.searches.find n with
    | none => .next s
    | some x =>
      if !x.mayRead i more then .next s
      else
        match (if x.props.graph then x.readGraph i more ok else x.readList i ok) with
        | none => .next s
        | some (y, tr) =>
          let s := { s with searches := s.searches.set n y.chooseLists.judge }.traceRequeue x tr
          .next (s.deliverSearch n)
  | _ => .next s

/-! ## Starting a search (R292, R293) -/

/-- The descriptor's fields. -/
def descOk (bs : List Byte) (node : Bool) : Bool :=
  let w0 := dwordAt bs 0
  let w2 := dwordAt bs 16
  wfld w0 27 5 = 0 && wfld w0 40 24 = 0 && wfld (dwordAt bs 8) 52 12 = 0 && wfld (dwordAt bs 8) 0 6 = 0 &&
  wfld w2 34 30 = 0 && (bs.drop 24).all (· = 0) && wfld w2 0 24 != 0 && (!node || wfld w2 24 10 = 0)

def srchRec (va : Nat) : Trap := { cause := cSRCHREC, addr := va }

/-- The descriptor's bytes: in own near scratch, or for a node in any permitted window but the own ones. -/
def readDesc (s : State) (w : Who) (va : Nat) : Except Trap (List Byte) :=
  if va % 64 ≠ 0 then .error (srchRec va)
  else
    match resolve s w .rd va 64 with
    | .error _ => .error (srchRec va)
    | .ok loc =>
      if (match w.own with | some g => !inNear g loc || ownNear + nearSize ≤ va | none => false) then .error (srchRec va)
      else if s.unc loc 64 then .error { cause := cMEMUNC, addr := va }
      else
        let bs := s.homeBytes loc 64
        if descOk bs w.own.isNone then .ok bs else .error (srchRec va)

/-- Searches that a controller holds for a partition, below its intake of 256 (R301). -/
def State.intakeRoom (s : State) (c p : Nat) : Bool := (s.searches.filter fun x => x.2.ctrl = c && x.2.part = p).length < 256

/-- The ring `n` of cluster `k`, when it is partition `p`'s. -/
def State.ringOf (s : State) (p k n : Nat) : Option Nat :=
  if k < 32 && (s.ring k n).valid && (s.ring k n).part.toNat = p && (s.cluster k).part = p then some k else none

/-- Bytes of a query with the guidance table of a graph index. -/
def queryBytes (p : IndexProps) : Nat := if p.graph then 64 * ceilDiv p.d 64 + p.m * 1024 else p.d

/-- The query's location: wholly in a permitted scratch window. -/
def queryLoc (s : State) (w : Who) (va n : Nat) : Except Trap Nat :=
  if va < winBase then .error { cause := cWINBOUND, addr := va }
  else
    match resolve s w .rd va n with
    | .error _ => .error { cause := cWINBOUND, addr := va }
    | .ok loc => .ok loc

/-- What a search that passed its checks comes to: its beginning, and whether its query was readable. -/
structure SearchStart where
  search : Search
  queryOk : Bool
  deriving DecidableEq, Repr

/-- The search that descriptor `bs`, read at address `va`, starts over index `x` of object `obj`. -/
def newSearch (s : State) (w : Who) (va : Nat) (bs : List Byte) (obj : Nat) (e : ObjEntry) (x : Index) (k n loc : Nat) : SearchStart :=
  let w0 := dwordAt bs 0
  let p := x.props
  let q := s.homeBytes loc (queryBytes p)
  { search :=
      { part := w.part, inst := 0, node := none, objs := [obj], snum := 0, ctrl := storeCtrl e.ns e.store, ringClus := k,
        ring := n, flagDie := false, flagHome := 0, flag := wfld (dwordAt bs 16) 24 10, k := wfld w0 16 10 + 1,
        det := w0.getLsbD 26, beam := wfld w0 32 8 + 1, pages := wfld (dwordAt bs 16) 0 24, query := q.take p.d,
        guideTab := q.drop (64 * ceilDiv p.d 64), props := p, gen := x.gen, snap := x.cur, logVis := x.log.drop x.mg,
        logPos := x.log.length, cand := if p.graph then [⟨0, x.cur.entryPoint, false, 0⟩] else [], flying := [],
        seen := if p.graph then [x.cur.entryPoint] else [], scored := [], cents := [],
        todo := if p.graph then [] else centroidPages p, listed := false, done := 0, req := 0, lost := 0, finished := false,
        short := false, slot := none, ooo := false, touched := [(va, 64)] }
    queryOk := !s.unc loc (queryBytes p) }

/-- Steps 1 to 7 of R292: `ring` is the result ring's cluster, if the ring passes, and its number. -/
def checkSearch (s : State) (w : Who) (va : Nat) (ring : Option Nat) (n : Nat) : Except Trap SearchStart :=
  match readDesc s w va with
  | .error t => .error t
  | .ok bs =>
    let obj := wfld (dwordAt bs 0) 0 16
    match s.obj w.part obj with
    | none => .error { cause := cOBJINV, aux := obj }
    | some e =>
      match s.indexOf w.part e with
      | none => .error { cause := cSRIGHTS, aux := obj }
      | some x =>
        match ring with
        | none => .error { cause := cRINGNUM, aux := n }
        | some k =>
          if (s.ring k n).slotsz.toNat < 64 + 16 * (wfld (dwordAt bs 0) 16 10 + 1) then .error { cause := cSRCHCFG, aux := n }
          else
            match queryLoc s w (dwordAt bs 8).toNat (queryBytes x.props) with
            | .error t => .error t
            | .ok loc =>
              if !s.intakeRoom (storeCtrl e.ns e.store) w.part then .error { cause := cSRCHFULL, aux := obj }
              else .ok (newSearch s w va bs obj e x k n loc)

/-- A search begins at its controller; a query with an uncorrectable error cancels the instance instead. -/
def State.beginSearch (s : State) (y : SearchStart) (f : Search → Search) : State :=
  let x := f y.search
  if !y.queryOk then (s.nodeEnds x.inst x.node false).raiseCancel x.inst cMEMUNC
  else
    let (i, s) := s.newId
    { s with searches := s.searches.set i x }

def execSrch (q : Qual) (d a b : BitVec 6) (ring : BitVec 6) (s : State) : Out :=
  scalarWord q [d, a, b] [] s fun s =>
    if s.myCore.inh then s.trap { cause := cHNDENG }
    else
      releasing .dev s fun s =>
        let g := s.me
        match checkSearch s (s.whoCore g) (s.myCore.reg a).toNat (s.ringName g (s.myCore.reg b) ring.toNat) ring.toNat with
        | .error t => s.trap t
        | .ok y =>
          let n := s.searchCount
          let s := { s with searchCount := n + 1 }.beginSearch y fun x =>
            { x with inst := s.instOf g, snum := n.toNat, flagHome := clusOf g }
          .next ((s.putReg g d (n.setWidth 64)).advance g)

/-! ## Search nodes (R293) -/

def nodeDesc (r : BitVec 512) : Nat := rf r 0 0 52
def nodeRing (r : BitVec 512) : Nat := rf r 0x08 0 6
def nodeClus (r : BitVec 512) : Nat := rf r 0x08 6 5

/-- Whether the controller that a search node needs has room; a node whose descriptor fails a check goes ahead, to fail there
(R301). -/
def State.searchRoom (s : State) (p : Nat) (r : BitVec 512) : Bool :=
  match readDesc s ⟨agHost, p, none⟩ (nodeDesc r) with
  | .error _ => true
  | .ok bs =>
    match s.obj p (wfld (dwordAt bs 0) 0 16) with
    | none => true
    | some e => s.intakeRoom (storeCtrl e.ns e.store) p

/-- A search node is dispatched from die `d`. -/
def State.startSearchNode (s : State) (d i n : Nat) (r : BitVec 512) : State :=
  let p := (s.insts.find i).elim 0 (·.part)
  match checkSearch s ⟨agGalliard d, p, none⟩ (nodeDesc r) (s.ringOf p (nodeClus r) (nodeRing r)) (nodeRing r) with
  | .error t => (s.dropNode i n).raiseCancel i t.cause
  | .ok y =>
    s.beginSearch y fun x =>
      { x with inst := i, node := some n, snum := n, flagDie := true, flagHome := d, flag := rf r 0x20 0 12 }

end Sys2Proof.Machine
end

