-- ==== Sys2Proof/Machine/KvTable.lean ====
section
/-!
DEFINITION. The KV block table, passage binding and the prefix index (10_retrieval_attention.md R302 to R311), with SHAKE256 for
the digest of R309.
-/

namespace Sys2Proof.Machine

/-! ## Sequence descriptors and slots (R302, R303) -/

/-- A sequence descriptor that passed its checks: where it and its slot array lie, S, W, P and the pool. -/
structure SeqDesc where
  loc : Nat
  slots : Nat
  sinks : Nat
  window : Nat
  passages : Nat
  poolObj : Nat
  pool : BitVec 512
  deriving DecidableEq, Repr, Inhabited

/-- The location of a record or slot array: `n` bytes in a permitted scratch window other than the own near scratch. -/
def scratchLoc (s : State) (w : Who) (va n : Nat) : Option Nat :=
  if va < dieScr && !(ownClus ≤ va) then none
  else
    match resolve s w .rd va n with
    | .ok loc => some loc
    | .error _ => none

/-- The fields of a sequence descriptor. -/
def seqFieldsOk (bs : List Byte) : Bool :=
  let w1 := dwordAt bs 8
  wfld (dwordAt bs 0) 52 12 = 0 && wfld (dwordAt bs 0) 0 6 = 0 && wfld w1 23 1 = 0 && wfld w1 47 17 = 0 &&
  wfld w1 16 7 ≤ 64 && wfld w1 36 11 ≤ 1024 && (bs.drop 32).all (· = 0)

/-- CheckDescriptor: fields, windows and the pool's rights (R304). A core reads its own buffered bytes (07_ordering.md R195). -/
def checkSeq (s : State) (w : Who) (va : Nat) : Except Trap SeqDesc :=
  let bad : Trap := { cause := cKVDESC, addr := va }
  match scratchLoc s w va 64 with
  | none => .error bad
  | some loc =>
    if s.unc loc 64 then .error { cause := cMEMUNC, addr := va }
    else
      let bs := s.ownBytes w.own loc 64
      let w1 := dwordAt bs 8
      let ns := wfld w1 16 7
      let nw := wfld w1 24 12 + 1
      let np := wfld w1 36 11
      let pool := wfld w1 0 16
      match s.obj w.part pool, scratchLoc s w (dwordAt bs 0).toNat (8 * (ns + nw + np)) with
      | some e, some sl =>
        if seqFieldsOk bs && entRight e.bits 0 && entRight e.bits 1 then .ok ⟨loc, sl, ns, nw, np, pool, e.bits⟩ else .error bad
      | _, _ => .error bad

/-- SlotOf of R303: slot and generation of a block position. -/
def SeqDesc.slotOf (x : SeqDesc) (p : Nat) : Nat × Nat :=
  if p < x.sinks then (p, 0) else (x.sinks + (p - x.sinks) % x.window, (p - x.sinks) / x.window % 2 ^ 24)

/-- Location of slot `i`. -/
def SeqDesc.slotAt (x : SeqDesc) (i : Nat) : Nat := x.slots + 8 * i

/-- Number of the first passage slot. -/
def SeqDesc.firstPassage (x : SeqDesc) : Nat := x.sinks + x.window

/-- A slot entry (R302). -/
def slotEntry (gen blk : Nat) : Nat := 2 ^ 63 + gen * 2 ^ 32 + blk

/-- What a lookup finds: a block, a slot that holds none, or another generation. -/
inductive Found where
  | block (n : Nat)
  | empty
  | stale
  deriving DecidableEq, Repr, Inhabited

def judgeSlot (e : Word) (gen : Nat) : Found :=
  if !e.getLsbD 63 then .empty else if wfld e 32 24 = gen then .block (wfld e 0 32) else .stale

/-- Slot and generation of a lookup in a region, or none for KVRANGE. -/
def SeqDesc.lookupSlot (x : SeqDesc) (psg : Bool) (p : Nat) : Option (Nat × Nat) :=
  if psg then (if p < x.passages then some (x.firstPassage + p, 0) else none)
  else if p < 2 ^ 32 then some (x.slotOf p)
  else none

/-- Address of block `b` of the pool. -/
def SeqDesc.blockVa (x : SeqDesc) (b : Nat) : Nat := addr64 (entAddr x.pool ⟨0, b, 0, 0⟩)

/-- Add 1 to a 64-bit counter at its home. -/
def State.bump (s : State) (agent loc : Nat) : State :=
  (s.homeRead agent loc 8).homeWrite agent loc (natBytes 8 (bytesNat (s.homeBytes loc 8) + 1))

/-- The counter that a failed lookup raises (R305). -/
def SeqDesc.counter (x : SeqDesc) : Found → Option Nat
  | .block _ => none
  | .empty => some (x.loc + 0x18)
  | .stale => some (x.loc + 0x10)

/-- The same for a lookup or insertion of core `g`: its buffered entry of the granule drains first, and its staged copy follows
(07_ordering.md R195, R196). -/
def State.bumpOwn (s : State) (g loc : Nat) : State :=
  let s := (s.drainGran g (loc / 64)).homeRead g loc 8
  s.strongWrite g loc (natBytes 8 (bytesNat (s.homeBytes loc 8) + 1))

def State.bumpIf (s : State) (agent : Nat) (loc : Option Nat) : State := loc.elim s (s.bump agent)

/-! ## KVPOS and KVLOOK (R304, R305) -/

def execKvposPos (q : Qual) (d a b c : BitVec 6) (s : State) : Out :=
  scalarWord q [d, a, b, c] [] s fun s =>
    releasing .dev s fun s =>
      let g := s.me
      let p := (s.myCore.reg b).toNat
      let blk := (s.myCore.reg c).toNat
      match checkSeq s (s.whoCore g) (s.myCore.reg a).toNat with
      | .error t => s.trap t
      | .ok x =>
        if 2 ^ 32 ≤ p || 2 ^ 32 ≤ blk || entExt x.pool 1 ≤ blk then s.trap { cause := cKVRANGE, addr := (s.myCore.reg a).toNat }
        else
          let (i, gen) := x.slotOf p
          let loc := x.slotAt i
          if s.unc loc 8 then s.trap { cause := cMEMUNC, addr := (s.myCore.reg a).toNat }
          else
            let old := bytesWord (s.homeBytes loc 8)
            let s := (s.homeRead g loc 8).strongWrite g loc (natBytes 8 (slotEntry gen blk))
            .next (((s.dropStaged g [(x.loc, 64)]).putReg g d old).advance g)

/-- KVLOOK in the position or the passage region. -/
def kvlookWord (psg : Bool) (q : Qual) (d a b : BitVec 6) (s : State) : Out :=
  scalarWord q [d, a, b] [] s fun s => ownWritesDone s fun s =>
    let g := s.me
    let va := (s.myCore.reg a).toNat
    match checkSeq s (s.whoCore g) va with
    | .error t => s.trap t
    | .ok x =>
      match x.lookupSlot psg (s.myCore.reg b).toNat with
      | none => s.trap { cause := cKVRANGE, addr := va }
      | some (i, gen) =>
        if s.unc (x.slotAt i) 8 || s.unc x.loc 64 then s.trap { cause := cMEMUNC, addr := va }
        else
          let f := judgeSlot (bytesWord (s.coreBytes g (x.slotAt i) 8)) gen
          let v : Word := match f with
            | .block n => BitVec.ofNat 64 (x.blockVa n)
            | _ => 0
          let s := s.homeRead g (x.slotAt i) 8
          let s := (x.counter f).elim s (s.bumpOwn g)
          .next (((s.putReg g d v).discardStaging g).advance g)

def execKvlookPos (q : Qual) (d a b : BitVec 6) (s : State) : Out := kvlookWord false q d a b s
def execKvlookPsg (q : Qual) (d a b : BitVec 6) (s : State) : Out := kvlookWord true q d a b s

/-! ## KVBIND (R306) -/

/-- Bytes of a block of a passage store: K and V, 64 rows each of the entry's row length. -/
def blockSize (e : BitVec 512) : Nat := 128 * entExt e 0 * fmtBytes (entFmt e)

/-- The fields of a passage record. -/
def passageOk (bs : List Byte) : Bool :=
  let n := wfld (dwordAt bs 0) 26 11
  wfld (dwordAt bs 0) 37 27 = 0 && wfld (dwordAt bs 16) 32 32 = 0 && dwordAt bs 24 = 0 && 1 ≤ n && n ≤ 1024

/-- The pieces of `n` pool blocks from block `b`, each writable by the controller. -/
def poolPieces (s : State) (w : Who) (x : SeqDesc) (b size : Nat) : Nat → Except AFault (List (List (Nat × Nat)))
  | 0 => .ok []
  | n + 1 =>
    match resolveRange s w .wr (x.blockVa b) size with
    | .error e => .error e
    | .ok r =>
      match poolPieces s w x (b + 1) size n with
      | .error e => .error e
      | .ok rs => .ok (r :: rs)

/-- Steps 3 to 5 for the passage record `bs` and the sequence `x`: the store's entry. -/
def checkBind (s : State) (x : SeqDesc) (bs : List Byte) : Except Trap ObjEntry :=
  let p := s.partOf s.me
  let obj := wfld (dwordAt bs 0) 0 16
  let n := wfld (dwordAt bs 0) 26 11
  let b := wfld (dwordAt bs 16) 0 32
  match s.obj p obj with
  | none => .error { cause := cOBJINV, aux := obj }
  | some e =>
    match (if entRight e.bits 4 then s.storeOf p e else none) with
    | some (.passages _) =>
      if x.passages < wfld (dwordAt bs 0) 16 10 + n || entExt x.pool 1 < b + n then .error { cause := cKVRANGE, aux := obj }
      else
        match poolPieces s ⟨agCtrl (storeCtrl e.ns e.store), p, none⟩ x b (blockSize e.bits) n with
        | .error f => .error f.trap
        | .ok _ => .ok e
    | _ => .error { cause := cSRIGHTS, aux := obj }

/-- The command that a KVBIND hands to the controller. -/
def newBind (s : State) (id : Nat) (flag : BitVec 10) (x : SeqDesc) (bs : List Byte) (e : ObjEntry) : KvBind :=
  let p := s.partOf s.me
  { id := id, part := p, inst := s.instOf s.me, core := s.me, objs := [wfld (dwordAt bs 0) 0 16, x.poolObj],
    ctrl := storeCtrl e.ns e.store, ns := e.ns, store := e.store, slotLoc := x.slotAt (x.firstPassage + wfld (dwordAt bs 0) 16 10),
    nblk := wfld (dwordAt bs 0) 26 11, pid := dwordAt bs 8, blk0 := wfld (dwordAt bs 16) 0 32, pool := x.pool, flag := flag.toNat }

def execKvbind (q : Qual) (d a b : BitVec 6) (flag : BitVec 10) (s : State) : Out :=
  scalarWord q [d, a, b] [] s fun s =>
    if s.myCore.inh then s.trap { cause := cHNDENG }
    else
      releasing .dev s fun s =>
        let g := s.me
        let va := (s.myCore.reg b).toNat
        match nearRecord s va 32 with
        | none => s.trap { cause := cKVREC, addr := va }
        | some (loc, bs) =>
          if s.unc loc 32 then s.trap { cause := cMEMUNC, addr := va }
          else if !passageOk bs then s.trap { cause := cKVREC, addr := va }
          else
            match checkSeq s (s.whoCore g) (s.myCore.reg a).toNat with
            | .error t => s.trap t
            | .ok x =>
              match checkBind s x bs with
              | .error t => s.trap t
              | .ok e =>
                let (i, s) := s.newId
                let s := { s with binds := s.binds ++ [newBind s i flag x bs e] }
                .next (((s.dropStaged g [(x.loc, 64)]).putReg g d 0).advance g)

/-- The stored blocks of a passage. -/
def State.passage (s : State) (b : KvBind) : Option (List (List Byte)) :=
  match s.store b.ns b.store with
  | some (.passages ps) => (ps.find? (·.1 = b.pid)).map (·.2)
  | _ => none

/-- Stored block `k` goes to pool block BLK0 + k. -/
def State.writeBlock (s : State) (b : KvBind) (k : Nat) (bytes : List Byte) : State :=
  let va := addr64 (entAddr b.pool ⟨0, (b.blk0 + k : Nat), 0, 0⟩)
  match resolveRange (s.viewOf b.part b.id) ⟨agCtrl b.ctrl, b.part, none⟩ .wr va bytes.length with
  | .ok rs => s.runsWrite (agCtrl b.ctrl) rs bytes
  | .error _ => s

/-- The blocks, then the passage slots in order, then the flag. -/
def State.bindDone (s : State) (b : KvBind) (blocks : List (List Byte)) : State :=
  let s := (enum blocks).foldl (fun s (k, x) => s.writeBlock b k x) s
  let s := (List.range b.nblk).foldl (fun s k =>
    s.homeWrite (agCtrl b.ctrl) (b.slotLoc + 8 * k) (natBytes 8 (slotEntry 0 (b.blk0 + k)))) s
  s.signal (agCtrl b.ctrl) (clusOf b.core) b.flag

/-- KVBIND_COMPLETE of command `i`. -/
def execKvbindComplete (s : State) : Out :=
  match s.arg with
  | .unit i =>
    match s.binds.find? (·.id = i) with
    | none => .next s
    | some b =>
      let s' := { s with binds := s.binds.filter (·.id != i) }
      match s.passage b with
      | none => .next (s'.raiseCancel b.inst cKVPSG)
      | some blocks =>
        if blocks.length = b.nblk then .next (s'.bindDone b blocks) else .next (s'.raiseCancel b.inst cKVPSG)
  | _ => .next s

/-! ## SHAKE256 (R309) -/

/-- The sponge's state is 25 lanes, lane 5y + x in row y and column x. The walk (x, y) ↦ (y, 2x + 3y) from (1, 0) visits every lane but
lane 0: each step names the lane it leaves, the lane it reaches, and how far the word that moves turns, by the triangular numbers. -/
def spongeWalk : Nat → Nat → Nat → Nat → List (Nat × Nat × Nat)
  | 0, _, _, _ => []
  | n + 1, t, x, y =>
    let y' := (2 * x + 3 * y) % 5
    (5 * y + x, 5 * y' + y, (t + 1) * (t + 2) / 2 % 64) :: spongeWalk n (t + 1) y y'

/-- Every word turned and moved one step along the walk. -/
def spongeMove (st : List Word) : List Word :=
  (spongeWalk 24 0 1 0).foldl (fun out m => out.set m.2.1 ((st.getD m.1 0).rotateLeft m.2.2)) st

/-- Each word takes in the parity of the column before its own, and of the column after it turned by one. -/
def spongeMix (st : List Word) : List Word :=
  let par := (List.range 5).map fun x => (List.range 5).foldl (fun p y => p ^^^ st.getD (5 * y + x) 0) 0
  (enum st).map fun (i, w) => w ^^^ par.getD ((i + 4) % 5) 0 ^^^ (par.getD ((i + 1) % 5) 0).rotateLeft 1

/-- Each word meets its two right neighbours of the row. -/
def spongeRow (st : List Word) : List Word :=
  (enum st).map fun (i, w) =>
    let nb (k : Nat) := st.getD (i / 5 * 5 + (i + k) % 5) 0
    w ^^^ (nb 2 &&& ~~~(nb 1))

/-- The bits of a round's constant from the register of eight bits that generates them: bit 2^j − 1 is the j-th bit it gives. -/
def spongeConst : Nat → Nat → Nat → Word × Nat
  | 0, _, r => (0, r)
  | n + 1, j, r =>
    let k := spongeConst n (j + 1) (if r < 128 then 2 * r else (2 * r) % 256 ^^^ 0x71)
    (k.1 ||| BitVec.ofNat 64 (r % 2 * 2 ^ (2 ^ j - 1)), k.2)

/-- `n` rounds of the permutation, the register of the constants running on. -/
def spongeRounds : Nat → Nat → List Word → List Word
  | 0, _, st => st
  | n + 1, r, st =>
    let k := spongeConst 7 0 r
    let st := spongeRow (spongeMove (spongeMix st))
    spongeRounds n k.2 (st.set 0 (st.getD 0 0 ^^^ k.1))

/-- A block of 136 bytes is added to the first 17 words, and 24 rounds follow. -/
def spongeTake (st : List Word) (blk : List Byte) : List Word :=
  spongeRounds 24 1 ((enum st).map fun (i, w) => if i < 17 then w ^^^ dwordAt blk (8 * i) else w)

/-- The message with SHAKE256's padding to whole blocks. -/
def shakePad (m : List Byte) : List Byte :=
  let k := 136 - m.length % 136
  m ++ (if k = 1 then [0x9F] else 0x1F :: (List.replicate (k - 2) 0 ++ [0x80]))

/-- The first `n` bytes, at most 136, of SHAKE256. -/
def shake256 (m : List Byte) (n : Nat) : List Byte :=
  let a := (chunks 136 (m.length / 136 + 1) (shakePad m)).foldl spongeTake (List.replicate 25 0)
  ((a.map (wordBytes 8)).flatten).take n

/-! ## The prefix index (R308 to R311) -/

/-- A checked key, the bucket it falls in, and the locations that the checks read. -/
structure PfxKey where
  desc : Nat
  bucket : Nat
  hash : Word
  len : Nat
  digest : List Byte
  runs : List (Nat × Nat)
  deriving DecidableEq, Repr, Inhabited

/-- A prefix index's descriptor: location, BASE and LOG2NB. -/
def checkPfxDesc (s : State) (w : Who) (va : Nat) : Except Trap (Nat × Nat × Nat) :=
  match scratchLoc s w va 64 with
  | none => .error { cause := cKVDESC, addr := va }
  | some loc =>
    let bs := s.ownBytes w.own loc 64
    let base := dwordAt bs 0
    let lg := dwordAt bs 8
    if s.unc loc 64 then .error { cause := cMEMUNC, addr := va }
    else if wfld base 52 12 != 0 || wfld base 0 8 != 0 || 24 < lg.toNat || (bs.drop 48).any (· != 0) then
      .error { cause := cKVDESC, addr := va }
    else .ok (loc, base.toNat, lg.toNat)

/-- A key record: HASH, TOK and LEN. -/
def checkKey (s : State) (va : Nat) : Except Trap (Word × Nat × Nat) :=
  match nearRecord s va 32 with
  | none => .error { cause := cKVREC, addr := va }
  | some (loc, bs) =>
    let tok := dwordAt bs 8
    let len := (dwordAt bs 16).toNat
    if s.unc loc 32 then .error { cause := cMEMUNC, addr := va }
    else if wfld tok 52 12 != 0 || wfld tok 0 2 != 0 || len < 64 || 65536 < len || len % 64 != 0 || dwordAt bs 24 != 0 then
      .error { cause := cKVREC, addr := va }
    else .ok (dwordAt bs 0, tok.toNat, len)

/-- CheckPrefix: descriptor, key and tokens, then the bucket's location. -/
def checkPrefix (s : State) (need : Need) (da ka : Nat) : Except Trap PfxKey :=
  let w := s.whoCore s.me
  match checkPfxDesc s w da with
  | .error t => .error t
  | .ok (loc, base, lg) =>
    match checkKey s ka with
    | .error t => .error t
    | .ok (hash, tok, len) =>
      match resolveRange s w .rd tok (4 * len) with
      | .error e => .error e.trap
      | .ok rs =>
        if s.runsUnc rs then .error { cause := cMEMUNC, addr := tok }
        else
          match resolve s w need (base + 256 * (hash.toNat % 2 ^ lg)) 256 with
          | .error e => .error e.trap
          | .ok b =>
            if s.unc b 256 then .error { cause := cMEMUNC, addr := base + 256 * (hash.toNat % 2 ^ lg) }
            else .ok ⟨loc, b, hash, len, shake256 (natBytes 4 len ++ s.ownRuns w.own rs) 16, (loc, 64) :: (b, 256) :: rs⟩

/-- The four entries of a bucket, 64 bytes each, as the issuing core reads them. -/
def State.bucketOf (s : State) (k : PfxKey) : List (List Byte) := chunks 64 4 (s.coreBytes s.me k.bucket 256)

def pfxValid (e : List Byte) : Bool := (dwordAt e 0x20).getLsbD 32

/-- Whether an entry is the key's. -/
def PfxKey.matches (k : PfxKey) (e : List Byte) : Bool :=
  pfxValid e && dwordAt e 0 = k.hash && natAt e 0x20 4 = k.len && bytesAt e 0x10 16 = k.digest

/-- A new entry. -/
def PfxKey.entry (k : PfxKey) (v : Word) : List Byte :=
  wordBytes 8 k.hash ++ wordBytes 8 v ++ k.digest ++ natBytes 8 (k.len + 2 ^ 32) ++ List.replicate 24 0

def execKvlookPfx (q : Qual) (d a b : BitVec 6) (s : State) : Out :=
  scalarWord q [d, a, b] [] s fun s => ownWritesDone s fun s =>
    let g := s.me
    match checkPrefix s .rd (s.myCore.reg a).toNat (s.myCore.reg b).toNat with
    | .error t => s.trap t
    | .ok k =>
      let es := s.bucketOf k
      let s := s.homeRead g k.bucket 256
      let (v, s) : Word × State := match es.find? k.matches with
        | some e => (dwordAt e 8, s.bumpOwn g (k.desc + 0x10))
        | none =>
          let s := s.bumpOwn g (k.desc + 0x18)
          (0, if es.any fun e => pfxValid e && dwordAt e 0 = k.hash then s.bumpOwn g (k.desc + 0x20) else s)
      .next (((s.putReg g d v).discardStaging g).advance g)

/-- The bucket after an insertion, and the value it gives back (R311). -/
def PfxKey.insert (k : PfxKey) (es : List (List Byte)) (v : Word) : List (List Byte) × Word :=
  match es.findIdx? k.matches with
  | some i => (es.modify i (fun e => e.take 8 ++ wordBytes 8 v ++ e.drop 16), dwordAt (es.getD i []) 8)
  | none =>
    match es.findIdx? (fun e => !pfxValid e) with
    | some i => (es.set i (k.entry v), 0)
    | none => (es.drop 1 ++ [k.entry v], dwordAt (es.headD []) 8)

/-- KVPOS that inserts (R311); a value of 0 is looked at after the checks of the descriptor and the record (assumption 83). -/
def execKvposPfx (q : Qual) (d a b c : BitVec 6) (s : State) : Out :=
  scalarWord q [d, a, b, c] [] s fun s =>
    releasing .dev s fun s =>
      let g := s.me
      match checkPrefix s .both (s.myCore.reg a).toNat (s.myCore.reg b).toNat with
      | .error t => s.trap t
      | .ok k =>
        let v := s.myCore.reg c
        if v = 0 then s.trap { cause := cKVRANGE, addr := (s.myCore.reg b).toNat }
        else
          let (es, old) := k.insert (s.bucketOf k) v
          let s := (s.homeRead g k.bucket 256).strongWrite g k.bucket es.flatten
          .next ((((s.bumpOwn g (k.desc + 0x28)).dropStaged g k.runs).putReg g d old).advance g)

end Sys2Proof.Machine
end

