-- ==== Sys2Proof/Machine/Transcend.lean ====
section
/-!
DEFINITION. The special functions of the exponent unit, correctly rounded (05_vector.md R145, R146). Each function is computed
in fixed point with 640 fraction bits and an error far below the distance of any value of these functions from a rounding
boundary; a result that is not exact carries a sticky bit below.
-/

namespace Sys2Proof.Machine

/-! ## Fixed point -/

/-- Fraction bits. -/
def fxF : Nat := 640

def fxOne : Nat := 2 ^ fxF

/-- A product of two fixed-point numbers, truncated. -/
def fxMul (a b : Nat) : Nat := (a * b) >>> fxF

/-- A finite value as a fixed-point magnitude: exact for every input of these functions. -/
def fxOf (m : Nat) (e : Int) : Nat := if -(fxF : Int) ≤ e then m * 2 ^ (e + fxF).toNat else m >>> (-(e + fxF)).toNat

/-- Σ z^(2i+1) / (2i+1) from `i`, with `p` the power at `i` and alternating signs when asked. -/
def fxOddSum (z2 : Nat) (alt : Bool) : Nat → Nat → Nat → Int
  | 0, _, _ => 0
  | f + 1, i, p =>
    if p = 0 then 0
    else (if alt && i % 2 = 1 then -((p / (2 * i + 1) : Nat) : Int) else ((p / (2 * i + 1) : Nat) : Int)) +
      fxOddSum z2 alt f (i + 1) (fxMul p z2)

/-- atanh z for 0 ≤ z ≤ 1/3. -/
def fxAtanh (z : Nat) : Nat := (fxOddSum (fxMul z z) false 400 0 z).toNat

/-- arctan (1/n). -/
def fxAtanInv (n : Nat) : Nat := (fxOddSum (fxOne / (n * n)) true 400 0 (fxOne / n)).toNat

/-- ln 2 = 2 atanh (1/3). -/
def fxLn2 : Nat := 2 * fxAtanh (fxOne / 3)

/-- π / 2 = 8 arctan (1/5) − 2 arctan (1/239). -/
def fxHalfPi : Nat := 8 * fxAtanInv 5 - 2 * fxAtanInv 239

/-- Σ r^i / i! from term `t` of index `i`. -/
def fxExpSum (r : Nat) : Nat → Nat → Nat → Nat
  | 0, _, _ => 0
  | f + 1, i, t => if t = 0 then 0 else t + fxExpSum r f (i + 1) (fxMul t r / (i + 1))

/-- `x` squared `n` times. -/
def fxSquares : Nat → Nat → Nat
  | 0, x => x
  | n + 1, x => fxSquares n (fxMul x x)

/-- e^r for 0 ≤ r < 1, by the series at r / 2^16. -/
def fxExp (r : Nat) : Nat := fxSquares 16 (fxExpSum (r >>> 16) 100 0 fxOne)

/-- e^x for a signed fixed-point x: a fixed-point number in [1, 2) and the power of two that multiplies it. -/
def fxExpFull (x : Int) : Nat × Int :=
  let k := x / (fxLn2 : Int)
  (fxExp (x - k * fxLn2).toNat, k)

/-- 2^x. -/
def fxExp2Full (x : Int) : Nat × Int :=
  let k := x / (fxOne : Int)
  (fxExp (fxMul (x - k * fxOne).toNat fxLn2), k)

/-- Σ (−1)^i r^(2i + o) / (2i + o)!, from the term of index `n = 2i + o`. -/
def fxTrig (r2 : Nat) : Nat → Nat → Bool → Nat → Int
  | 0, _, _, _ => 0
  | f + 1, n, neg, t =>
    if t = 0 then 0
    else (if neg then -(t : Int) else t) + fxTrig r2 f (n + 2) (!neg) (fxMul t r2 / ((n + 1) * (n + 2)))

/-- sin r and cos r for |r| ≤ π / 4. -/
def fxSin (r : Int) : Int :=
  let a := r.natAbs
  let s := fxTrig (fxMul a a) 100 1 false a
  if r < 0 then -s else s

def fxCos (r : Int) : Int := fxTrig (fxMul r.natAbs r.natAbs) 100 0 false fxOne

/-- sin (x + q π/2). -/
def fxSinQ (x : Int) (q : Int) : Int :=
  let k := (2 * x + fxHalfPi) / (2 * fxHalfPi : Int)
  let r := x - k * fxHalfPi
  match ((k + q) % 4).toNat with
  | 0 => fxSin r
  | 1 => fxCos r
  | 2 => -fxSin r
  | _ => -fxCos r

/-! ## The functions (R145, R146) -/

inductive SpecFn where
  | exp | exp2 | log2 | rcp | rsq | sqrt | sin | cos | tanh
  deriving DecidableEq, Repr, Inhabited

/-- Round a value known to 600 bits and not exact. -/
def roundFx (f : Fmt) (ftz neg : Bool) (m : Nat) (e : Int) : FR := f.round .rne 0 ftz neg (m >>> 32) (e + 32 - fxF) true

/-- A signed fixed-point value that is not exact. -/
def roundSfx (f : Fmt) (ftz : Bool) (x : Int) : FR := roundFx f ftz (x < 0) x.natAbs 0

/-- The signed fixed-point value of a finite input, kept within ±2000. -/
def fxIn (neg : Bool) (m : Nat) (e : Int) : Int :=
  let big := magGt m e 2000 0
  let a : Nat := if big then 2000 * fxOne else fxOf m e
  if neg then -(a : Int) else a

def specExp (f : Fmt) (ftz neg : Bool) (m : Nat) (e : Int) : FR :=
  let y := fxExpFull (fxIn neg m e)
  roundFx f ftz false y.1 y.2

def specExp2 (f : Fmt) (ftz neg : Bool) (m : Nat) (e : Int) : FR :=
  let x := fxIn neg m e
  let y := fxExp2Full x
  if x % (fxOne : Int) = 0 then f.round .rne 0 ftz false 1 y.2 false else roundFx f ftz false y.1 y.2

/-- log2 of m × 2^e, m nonzero. -/
def specLog2 (f : Fmt) (ftz : Bool) (m : Nat) (e : Int) : FR :=
  let k := bitLen m - 1
  let ex : Int := e + k
  if m = 2 ^ k then f.round .rne 0 ftz (ex < 0) ex.natAbs 0 false
  else
    let y := m * fxOne / 2 ^ k
    let z := (y - fxOne) * fxOne / (y + fxOne)
    let l := 2 * fxAtanh z * fxOne / fxLn2
    roundSfx f ftz (ex * fxOne + l)

/-- 1 / √(m × 2^e), m nonzero. -/
def specRsq (f : Fmt) (ftz : Bool) (m : Nat) (e : Int) : FR :=
  let m := if e % 2 = 0 then m else 2 * m
  let e := if e % 2 = 0 then e else e - 1
  let q := 2 ^ 400 / m
  let r := isqrt q
  f.round .rne 0 ftz false r (-200 - e / 2) (r * r * m != 2 ^ 400)

def specTanh (f : Fmt) (ftz neg : Bool) (m : Nat) (e : Int) : FR :=
  let x := if magGt m e 100 0 then 100 * fxOne else fxOf m e
  let y := fxExpFull (2 * x)
  let w := y.1 * 2 ^ y.2.toNat
  roundFx f ftz neg ((w - fxOne) * fxOne / (w + fxOne)) 0

/-- A special function of an element. -/
def special (fn : SpecFn) (f : Fmt) (ftz : Bool) (b : Nat) : FR :=
  let one := f.bias * 2 ^ f.mw
  let x := f.input ftz b
  let out (r : FR) : FR := (r.1, r.2 ||| x.2)
  let nv : FR := (f.nan, fNV)
  match x.1 with
  | .nan q => out (f.nan, raiseIf (!q) fNV)
  | .inf n =>
    match fn with
    | .exp | .exp2 => (if n then 0 else f.infCode, 0)
    | .log2 | .sqrt => if n then nv else (f.infCode, 0)
    | .rcp => (f.signed n 0, 0)
    | .rsq => if n then nv else (0, 0)
    | .sin | .cos => nv
    | .tanh => (f.signed n one, 0)
  | .fin n m e =>
    match fn with
    | .rcp => out (if m = 0 then (f.signed n f.infCode, fDZ) else fDiv f .rne ftz one b)
    | .sqrt => out (fSqrt f .rne ftz b)
    | .exp => out (if m = 0 then (one, 0) else specExp f ftz n m e)
    | .exp2 => out (if m = 0 then (one, 0) else specExp2 f ftz n m e)
    | .log2 => out (if m = 0 then (f.signed true f.infCode, fDZ) else if n then nv else specLog2 f ftz m e)
    | .rsq => out (if m = 0 then (f.signed n f.infCode, fDZ) else if n then nv else specRsq f ftz m e)
    | .sin =>
      out (if m = 0 then (f.signed n 0, 0) else if !magGt (2 ^ 20) 0 m e then (f.nan, fRANGE)
        else roundSfx f ftz (fxSinQ ((fxOf m e : Int) * (if n then -1 else 1)) 0))
    | .cos =>
      out (if m = 0 then (one, 0) else if !magGt (2 ^ 20) 0 m e then (f.nan, fRANGE)
        else roundSfx f ftz (fxSinQ (fxOf m e) 1))
    | .tanh => out (if m = 0 then (f.signed n 0, 0) else specTanh f ftz n m e)

/-- A special-function word: it waits while the cluster's Pavane runs (R39). -/
def vSpecial (fn : SpecFn) (p : Engw) (t : Ty) (d a : BitVec 5) (m : BitVec 3) (s : State) : Out :=
  engineWordIf .arith p State.pavRuns (fun _ s =>
    let c := s.myCore
    vResult t d (onLanes (c.mask m) t.bits t.lanes fun j => special fn (fmtOf t) c.ftz (c.lane t a j)) s) s

def execVexp (p : Engw) (ty : Ty) (d a : BitVec 5) (m : BitVec 3) (s : State) : Out := vSpecial .exp p ty d a m s
def execVexp2 (p : Engw) (ty : Ty) (d a : BitVec 5) (m : BitVec 3) (s : State) : Out := vSpecial .exp2 p ty d a m s
def execVlog2 (p : Engw) (ty : Ty) (d a : BitVec 5) (m : BitVec 3) (s : State) : Out := vSpecial .log2 p ty d a m s
def execVrcp (p : Engw) (ty : Ty) (d a : BitVec 5) (m : BitVec 3) (s : State) : Out := vSpecial .rcp p ty d a m s
def execVrsq (p : Engw) (ty : Ty) (d a : BitVec 5) (m : BitVec 3) (s : State) : Out := vSpecial .rsq p ty d a m s
def execVsqrt (p : Engw) (ty : Ty) (d a : BitVec 5) (m : BitVec 3) (s : State) : Out := vSpecial .sqrt p ty d a m s
def execVsin (p : Engw) (ty : Ty) (d a : BitVec 5) (m : BitVec 3) (s : State) : Out := vSpecial .sin p ty d a m s
def execVcos (p : Engw) (ty : Ty) (d a : BitVec 5) (m : BitVec 3) (s : State) : Out := vSpecial .cos p ty d a m s
def execVtanh (p : Engw) (ty : Ty) (d a : BitVec 5) (m : BitVec 3) (s : State) : Out := vSpecial .tanh p ty d a m s

end Sys2Proof.Machine
end

