-- ==== Sys2Proof/Machine/Pavane.lean ====
section
/-!
DEFINITION. The Pavane: requests and the start of a pass, the micro-words, the operations they launch, ring attention, and the
end of a pass (10_retrieval_attention.md R312 to R320; 01_machine.md R39).
-/

namespace Sys2Proof.Machine

/-! ## A pass and its parts -/

/-- The bits of FP32 −∞ and 1. -/
def f32NegInf : BitVec 32 := 0xFF800000
def f32One : BitVec 32 := 0x3F800000

def State.passOf (s : State) (k : Nat) : Option Pass := (s.cluster k).pav.pass

def State.setPass (s : State) (k : Nat) (p : Option Pass) : State :=
  s.updCluster k fun x => { x with pav := { x.pav with pass := p } }

def State.updPass (s : State) (k : Nat) (f : Pass → Pass) : State :=
  s.updCluster k fun x => { x with pav := { x.pav with pass := x.pav.pass.map f } }

/-- The state as pass `p` translates in it (11_isolation.md R332). -/
def Pass.view (p : Pass) (s : State) : State := s.viewOf p.part p.id

/-- The Pavane of cluster `k` as an agent: it has no own windows (07_ordering.md R182). -/
def pavWho (k part : Nat) : Who := ⟨agPavane k, part, none⟩

/-- Parameter word `i`. -/
def Pass.word (p : Pass) (i : Nat) : Word := p.params.getD i 0

/-- Row length and rows of QOBJ (R314). -/
def Pass.dh (p : Pass) : Nat := entExt p.qent 0
def Pass.rows (p : Pass) : Nat := entExt p.qent 1

/-- Bytes of a row. -/
def Pass.rowBytes (p : Pass) : Nat := p.dh * fmtBytes p.fmt

/-- Whether the pass is a member of a ring. -/
def Pass.ring (p : Pass) : Bool := p.word 6 != 0

/-- A buffer that a KVBLK has just filled, or that none has filled (R316). -/
def freshBuf (filled : Bool) (rows : Nat) (keys vals : List Byte) (masked : BitVec 64) : PavBuf :=
  { filled := filled, keys := keys, vals := vals, masked := masked, scores := List.replicate rows (List.replicate 64 f32NegInf),
    probs := List.replicate rows (List.replicate 64 0) }

def Pass.buf (p : Pass) (b : Nat) : PavBuf := p.bufs.toArray.getD b ⟨false, [], [], 0, [], []⟩

def Pass.setBuf (p : Pass) (b : Nat) (x : PavBuf) : Pass := { p with bufs := p.bufs.setIfInBounds b x }

/-! ## The checks of R314 -/

/-- Location of a parameter block: a multiple of 128 in the cluster's scratch by the own window, or in die scratch. -/
def blockLoc (s : State) (k part pb : Nat) : Option Nat :=
  if pb % 128 ≠ 0 then none
  else if ownClus ≤ pb && pb < ownClus + clusSize then some (clusLoc k + (pb - ownClus))
  else if dieScr ≤ pb && pb < dieScr + 4 * dieScrSize then
    match resolve s (pavWho k part) .rd pb 128 with
    | .ok loc => some loc
    | .error _ => none
  else none

/-- The formats of Q, O and the pool. -/
def pavFmt (t : Ty) : Bool := t = .bf16 || t = .f16 || t = .f8a || t = .f8b

/-- The parameter words' own fields. -/
def paramsOk (ws : List Word) : Bool :=
  let w (i : Nat) : Word := ws.getD i 0
  let m := wfld (w 5) 24 7
  let rank := wfld (w 5) 16 6
  wfld (w 0) 12 52 = 0 && wfld (w 1) 52 12 = 0 && wfld (w 2) 32 32 = 0 && w 5 &&& ~~~0x7F3FFF3F#64 = 0 && wfld (w 6) 52 12 = 0 &&
  (if w 6 = 0 then m = 0 && rank = 0 else 2 ≤ m && m ≤ 64 && rank < m)

/-- The shapes and formats of the three objects. -/
def shapesFit (q o pool : BitVec 512) : Bool :=
  pavFmt (entFmt q) && pavFmt (entFmt o) && pavFmt (entFmt pool) && entFmt q = entFmt pool &&
  32 ≤ entExt q 0 && entExt q 0 ≤ 256 && entExt q 0 % 32 = 0 && 1 ≤ entExt q 1 && entExt q 1 ≤ 128 &&
  ((128 * entExt q 0 * fmtBytes (entFmt q) : Nat) : Int) ≤ entStride pool 1

/-- An object with the matrix right. -/
def matrixObj (s : State) (p i : Nat) : Option (BitVec 512) :=
  match s.obj p i with
  | some e => if entRight e.bits 2 then some e.bits else none
  | none => none

/-- The rows of QOBJ as read at the start. -/
def readQuery (s : State) (w : Who) (q : BitVec 512) : Nat → Except Nat (List (List Byte))
  | 0 => .ok []
  | r + 1 =>
    match readQuery s w q r with
    | .error c => .error c
    | .ok rs =>
      match locatePieces s w .rd (rowPieces q ⟨0, r, 0, 0⟩ (entExt q 0)) with
      | .error e => .error e.cause
      | .ok ps => if (s.piecesUnc ps).isSome then .error cMEMUNC else .ok (rs ++ [s.runsBytes (pieceRuns ps)])

/-- The beginning of a pass, or the cause that its checks give. -/
def checkPass (s : State) (k part pb : Nat) : Except Nat Pass :=
  match blockLoc s k part pb with
  | none => .error cPVREC
  | some loc =>
    if s.unc loc 128 then .error cMEMUNC
    else
      let bs := s.homeBytes loc 128
      let ws := (List.range 16).map fun i => dwordAt bs (8 * i)
      let w2 := dwordAt bs 16
      match checkSeq s (pavWho k part) (wfld (dwordAt bs 8) 0 52), matrixObj s part (wfld w2 0 16), matrixObj s part (wfld w2 16 16) with
      | .ok x, some q, some o =>
        if !paramsOk ws || !shapesFit q o x.pool then .error cPVREC
        else
          match readQuery s (pavWho k part) q (entExt q 1) with
          | .error c => .error c
          | .ok qs =>
            let rows := entExt q 1
            .ok {
              id := s.nextId, part := part, inst := 0, node := none, flag := 0, params := ws,
              objs := [wfld w2 0 16, wfld w2 16 16, x.poolObj], qent := q, oent := o, fmt := entFmt q,
              pc := wfld (dwordAt bs 0) 0 12, stack := [],
              bufs := Vector.replicate 4 (freshBuf false rows [] [] (BitVec.allOnes 64)), qry := qs,
              m := List.replicate rows f32NegInf, l := List.replicate rows 0,
              o := List.replicate rows (List.replicate (entExt q 0) 0), revn := 0, origin := wfld (dwordAt bs 40) 16 6, hop := 0,
              ops := [], mergeDeadline := none }
      | .error t, _, _ => .error (if t.cause = cMEMUNC then cMEMUNC else cPVREC)
      | _, _, _ => .error cPVREC

/-! ## Starting a pass (R313) -/

/-- t2 and t3 of every core of the cluster become +0 of kind Zero (R318). -/
def State.clearTiles (s : State) (k : Nat) : State :=
  (coresOf k).foldl (fun s g => s.updCore g fun c => (c.setTile 2 0 .zero).setTile 3 0 .zero) s

/-- Whether a parameter block that can be read is a ring member's (R314, R320). -/
def ringBlock (s : State) (k part pb : Nat) : Bool :=
  (blockLoc s k part pb).elim false fun loc => !s.unc loc 128 && dwordAt (s.homeBytes loc 128) 48 != 0

/-- Start a pass of cluster `k`, or cancel with the cause that its checks give, a ring member with RINGFAIL (R320). -/
def State.startPass (s : State) (k part inst : Nat) (node : Option Nat) (pb flag : Nat) : State :=
  match checkPass s k part pb with
  | .error c => ((s.clearTiles k).nodeEnds inst node false).raiseCancel inst (if ringBlock s k part pb then cRINGFAIL else c)
  | .ok p =>
    s.updCluster k fun x =>
      { x with pav := { x.pav with passes := x.pav.passes + 1, pass := some { p with inst := inst, node := node, flag := flag } } }

/-- A cluster that is idle adopts the requested power mode (11_isolation.md R346). -/
def State.adoptIdle (s : State) (k : Nat) : State :=
  if (coresOf k).all s.coreIdle && (s.passOf k).isNone then s.updCluster k fun x => { x with mode := s.powerReq } else s

/-- The cores' copy commands of cluster `k` that waited behind the Pavane's own may start (01_machine.md R39). -/
def State.startBehind (s : State) (k : Nat) : State := (s.startCmds false (2 * k) 33).startCmds false (2 * k + 1) 33

/-- The pass of cluster `k` is over: what waited for it goes on. -/
def State.passOver (s : State) (k : Nat) : State := ((s.setPass k none).startBehind k).adoptIdle k

/-- Recorded requests of an instance are cleared (R312). -/
def State.clearReqs (s : State) (k inst : Nat) : State :=
  s.updCluster k fun x => { x with pav := { x.pav with reqs := x.pav.reqs.filter (·.inst != inst) } }

/-- Remove the first request of core `g` in task `t`. -/
def dropFirst (t : Option Nat) (g : Nat) : List PavReq → List PavReq
  | [] => []
  | r :: rs => if r.core = g && r.task = t then rs else r :: dropFirst t g rs

/-- The oldest request of each core of cluster `k` in task `t`, when all sixteen have one. -/
def taskReqs (k : Nat) (rs : List PavReq) (t : Option Nat) : Option (List PavReq) :=
  (coresOf k).foldr (fun g a => match a, rs.find? (fun r => r.core = g && r.task = t) with
    | some l, some r => some (r :: l)
    | _, _ => none) (some [])

/-- The oldest request of each core of a task that has one of all sixteen; requests of a set that is saved do not mix with those of
the set that runs. -/
def firstReqs (k : Nat) (rs : List PavReq) : Option (List PavReq) := rs.findSome? fun r => taskReqs k rs r.task

/-- Requests of core `g` in task `t`. -/
def reqCount (rs : List PavReq) (t : Option Nat) (g : Nat) : Nat := (rs.filter fun r => r.core = g && r.task = t).length

/-- The passes that a task's requests make already. -/
def reqPasses (k : Nat) (rs : List PavReq) (t : Option Nat) : Nat :=
  (coresOf k).foldl (fun n g => min n (reqCount rs t g)) rs.length

/-- The number of the pass that the next request of core `g` in task `t` joins: behind those started, its own, and those that other
tasks have asked for whole (assumption 33). -/
def passNumber (k : Nat) (pav : Pavane) (t : Option Nat) (g : Nat) : Nat :=
  pav.passes + reqCount pav.reqs t g +
  ((((pav.reqs.map (·.task)).eraseDups.filter (· != t)).map (reqPasses k pav.reqs)).foldl (· + ·) 0)

/-- Sixteen requests are there: they start a pass once the Pavane is idle, or disagree and never start one (PVMIS). -/
def State.tryPass (s : State) (k : Nat) : State :=
  match firstReqs k (s.cluster k).pav.reqs with
  | some (r :: rs) =>
    if rs.all (fun x => x.blk = r.blk && x.flag = r.flag) then
      if (s.passOf k).isSome then s
      else
        let s := s.updCluster k fun x => { x with pav := { x.pav with
          reqs := (coresOf k).foldl (fun l g => dropFirst r.task g l) x.pav.reqs } }
        s.startPass k (s.cluster k).part r.inst none r.blk.toNat r.flag.toNat
    else (s.clearReqs k r.inst).raiseCancel r.inst cPVMIS
  | _ => s

/-- The windows that ASTART's block may lie in. -/
def astartPlace (va : Nat) : Bool :=
  va % 128 = 0 && ((ownClus ≤ va && va < ownClus + clusSize) || (dieScr ≤ va && va < dieScr + 4 * dieScrSize))

def execAstart (q : Qual) (d a : BitVec 6) (flag : BitVec 10) (s : State) : Out :=
  scalarWord q [d, a] [] s fun s =>
    let g := s.me
    let k := clusOf g
    let v := s.myCore.reg a
    if s.myCore.inh then s.trap { cause := cHNDENG }
    else if !s.inSixteen g then s.trap { cause := cASTARTSET }
    else if !astartPlace v.toNat || (blockLoc s k (s.partOf g) v.toNat).isNone then s.trap { cause := cPVREC, addr := v.toNat }
    else
      releasing .clus s fun s =>
        let pav := (s.cluster k).pav
        let n := passNumber k pav s.myCore.task g
        let s := s.updCluster k fun x => { x with pav := { x.pav with
          reqs := x.pav.reqs ++ [⟨g, s.instOf g, s.myCore.task, v, flag⟩] } }
        .next (((s.putReg g d (BitVec.ofNat 64 n)).advance g).tryPass k)

/-- Whether the part of core `g` in task `t` has ended; a set that is saved has not ended (R358). -/
def State.partEnded (s : State) (t : Option Nat) (g : Nat) : Bool :=
  t.elim true fun tn =>
    (s.tasks.find tn).isNone || ((s.saved.find tn).isNone && ((s.core g).task != some tn || (s.core g).phase = .ended))

/-- A request of cluster `k` that can join no pass: a core of its set has ended its part without a request of its own. -/
def State.lostReq (s : State) (k : Nat) (rs : List PavReq) (r : PavReq) : Bool :=
  (coresOf k).any fun g => s.partEnded r.task g && !rs.any fun x => x.core = g && x.task = r.task

/-- PVLOST: a core of the set has ended its part without the request that the others of cluster `k` have made. -/
def execPvlost (s : State) : Out :=
  match s.arg with
  | .unit k =>
    let rs := (s.cluster k).pav.reqs
    match rs.find? (s.lostReq k rs) with
    | none => .next s
    | some r => .next ((s.clearReqs k r.inst).raiseCancel r.inst cPVLOST)
  | _ => .next s

/-- An attention node is dispatched to cluster `k` (R39, R313). -/
def State.startAttention (s : State) (k i n : Nat) (r : BitVec 512) : State :=
  let p := (s.insts.find i).elim 0 (·.part)
  s.startPass k p i (some n) (rf r 0 0 52) (rf r 0x08 0 12)

/-! ## The operations (R316, R317) -/

/-- The vectors of a block: row `j` of the bytes given. -/
def Pass.blockRow (p : Pass) (bs : List Byte) (j : Nat) : List FV := rowElems p.fmt p.dh (bytesAt bs (j * p.rowBytes) p.rowBytes)

/-- The score of a query row against key `j`. -/
def Pass.score (p : Pass) (b : PavBuf) (q : List FV) (j : Nat) : BitVec 32 :=
  if b.masked.getLsbD j then f32NegInf
  else
    let dot := (accElem false p.dh (kStep p.fmt) 0 q (p.blockRow b.keys j)).x
    BitVec.ofNat 32 (fMul fmtF32 .rne false (wfld (p.word 3) 0 32) dot).1

def Pass.qk (p : Pass) (i : Nat) : Pass :=
  let b := p.buf i
  p.setBuf i { b with scores := p.qry.map fun q =>
    (List.range 64).map (p.score b (rowElems p.fmt p.dh q)) }

/-- RoundToFP32 (a − b), then Exp, correctly rounded. -/
def expDiff (a b : BitVec 32) : BitVec 32 :=
  BitVec.ofNat 32 (special .exp fmtF32 false (fSub fmtF32 .rne false a.toNat b.toNat).1).1

def f32Max (a b : BitVec 32) : BitVec 32 := BitVec.ofNat 32 (fMinMax .f32 true a.toNat b.toNat).1

/-- The column tree of R92 over 64 values. -/
def treeSum (ps : List (BitVec 32)) : Nat := (tree (fAdd fmtF32 .rne false) 6 (ps.map fun x => (x.toNat, 0))).1

/-- One row of SOFT: the probabilities, and the new m, l and O. -/
def softRow (m l : BitVec 32) (o scores : List (BitVec 32)) : List (BitVec 32) × BitVec 32 × BitVec 32 × List (BitVec 32) :=
  let mb := scores.tail.foldl f32Max (scores.headD f32NegInf)
  let m2 := f32Max m mb
  let alpha := if m2 = f32NegInf then f32One else if m = f32NegInf then 0 else expDiff m m2
  let ps := if m2 = f32NegInf then scores.map fun _ => 0 else scores.map fun x => expDiff x m2
  (ps, m2, BitVec.ofNat 32 (fFma fmtF32 .rne false false alpha.toNat l.toNat (treeSum ps)).1,
    o.map fun e => BitVec.ofNat 32 (fMul fmtF32 .rne false alpha.toNat e.toNat).1)

def Pass.soft (p : Pass) (i : Nat) : Pass :=
  let b := p.buf i
  let rs := (List.range p.rows).map fun r => softRow (p.m.getD r 0) (p.l.getD r 0) (p.o.getD r []) (b.scores.getD r [])
  { p.setBuf i { b with probs := rs.map (·.1) } with
    m := rs.map (·.2.1), l := rs.map (·.2.2.1), o := rs.map (·.2.2.2) }

/-- The value of row `j`, +0 in a buffer that no KVBLK has filled. -/
def Pass.valueRow (p : Pass) (b : PavBuf) (j : Nat) : List FV :=
  if b.filled then p.blockRow b.vals j else List.replicate p.dh (.fin false 0 0)

def Pass.pv (p : Pass) (i : Nat) : Pass :=
  let b := p.buf i
  let vs := (List.range 64).map (p.valueRow b)
  { p with o := (enum p.o).map fun (r, o) =>
      let ps := (b.probs.getD r []).map fun x => (fmtOf p.fmt).decode ((fmtOf p.fmt).deliver .rne 0 false (fmtF32.decode x.toNat)).1
      (enum o).map fun (e, a) =>
        BitVec.ofNat 32 (accElem false 64 (kStep p.fmt) a.toNat ps (vs.map fun v => v.getD e (.fin false 0 0))).x }

/-- O ÷ l rounded once to a format; +0 when l = 0. -/
def outElem (f : Fmt) (o l : BitVec 32) : Nat :=
  match fmtF32.decode o.toNat, fmtF32.decode l.toNat with
  | _, .fin _ 0 _ => 0
  | .nan _, _ => f.nan
  | _, .nan _ => f.nan
  | .inf _, .inf _ => f.nan
  | .inf s, .fin t _ _ => (f.infRes (s != t)).1
  | .fin s _ _, .inf t => f.signed (s != t) 0
  | .fin s m e, .fin t n d =>
    let k := bitLen n + 32
    (f.round .rne 0 false (s != t) (m * 2 ^ k / n) (e - d - k) (m * 2 ^ k % n != 0)).1

/-- Row `r` of the output. -/
def Pass.outRow (p : Pass) (r : Nat) : List Byte :=
  let n := min p.dh (entExt p.oent 0)
  (((p.o.getD r []).take n).map fun x =>
    natBytes (fmtBytes (entFmt p.oent)) (outElem (fmtOf (entFmt p.oent)) x (p.l.getD r 0))).flatten

/-- The pieces of the output rows. -/
def Pass.outPieces (p : Pass) : List (Nat × Nat) :=
  ((List.range (min p.rows (entExt p.oent 1))).map fun (r : Nat) =>
    rowPieces p.oent ⟨0, r, 0, 0⟩ (min p.dh (entExt p.oent 0))).flatten

/-- The group record of a ring member (R319), at the address of word 6, 0 included (assumption 84). -/
def groupLoc (s : State) (k : Nat) (p : Pass) (need : Need) : Except Nat Nat :=
  match resolve (p.view s) (pavWho k p.part) need (wfld (p.word 6) 0 52) 64 with
  | .ok loc => if s.unc loc 8 then .error cMEMUNC else .ok loc
  | .error e => .error e.cause

/-- FINAL: the output, and LASTREV of a ring member. -/
def State.final (s : State) (k : Nat) (p : Pass) : Except Nat State :=
  match locatePieces (p.view s) (pavWho k p.part) .wr p.outPieces with
  | .error e => .error e.cause
  | .ok ps =>
    let out := ((List.range (min p.rows (entExt p.oent 1))).map p.outRow).flatten
    let s' := s.runsWrite (agPavane k) (pieceRuns ps) out
    if p.ring then
      match groupLoc s k p .wr with
      | .error c => .error c
      | .ok loc => .ok (s'.homeWrite (agPavane k) loc (natBytes 4 p.revn.toNat))
    else .ok s'

/-- A lookup of KVBLK as KVLOOK makes it: descriptor, slot location and generation. -/
def kvblkSlot (s : State) (k : Nat) (p : Pass) (psg : Bool) (pos : Word) : Except Nat (SeqDesc × Nat × Nat) :=
  match checkSeq (p.view s) (pavWho k p.part) (wfld (p.word 1) 0 52) with
  | .error t => .error t.cause
  | .ok x =>
    match x.lookupSlot psg pos.toNat with
    | none => .error cKVRANGE
    | some (i, g) => if s.unc (x.slotAt i) 8 then .error cMEMUNC else .ok (x, x.slotAt i, g)

/-- The keys that LIMIT masks in block position `pos`. -/
def limitMask (limit : Nat) (psg : Bool) (pos : Nat) : BitVec 64 :=
  if psg || limit = 0xFFFFFFFF then 0
  else (List.range 64).foldl (fun m j => if limit < 64 * pos + j then m ||| (1#64 <<< j) else m) 0

/-- KVBLK: the first slot read (made now unless it was made at launch), the block, the second slot read (R316). -/
def State.kvblk (s : State) (k : Nat) (p : Pass) (o : PavOp) : Except Nat (State × PavBuf) :=
  match kvblkSlot s k p o.psg o.p with
  | .error c => .error c
  | .ok (x, loc, g) =>
    let now := bytesWord (s.homeBytes loc 8)
    let first := o.first.getD now
    let f := judgeSlot first g
    let masked := freshBuf true p.rows [] [] (BitVec.allOnes 64)
    match f with
    | .block n =>
      match resolveRange (p.view s) (pavWho k p.part) .rd (x.blockVa n) (128 * p.rowBytes) with
      | .error e => .error e.cause
      | .ok rs =>
        if s.runsUnc rs then .error cMEMUNC
        else
          let bs := s.runsBytes rs
          let keys := bs.take (64 * p.rowBytes)
          let vals := bs.drop (64 * p.rowBytes)
          if now = first then .ok (s, freshBuf true p.rows keys vals (limitMask (wfld (p.word 3) 32 32) o.psg o.p.toNat))
          else .ok (s.bumpIf (agPavane k) (x.counter .stale), freshBuf true p.rows keys vals (BitVec.allOnes 64))
    | f => .ok (s.bumpIf (agPavane k) (x.counter f), masked)

/-- TRIPLE's payload: the header, the query rows, m and l of each row, then O (R319). -/
def Pass.triple (p : Pass) : List Byte :=
  natBytes 8 (packNat [(0, p.revn.toNat), (32, p.origin), (38, p.hop + 1)]) ++ List.replicate 56 0 ++ p.qry.flatten ++
  ((List.range p.rows).map fun r => natBytes 4 (p.m.getD r 0).toNat ++ natBytes 4 (p.l.getD r 0).toNat).flatten ++
  (p.o.flatten.map fun x => natBytes 4 x.toNat).flatten

/-- The payload of TRIPLE goes to word 4's ring, as SEND's does; `none` while a member of a domain sends nothing (12_recovery.md
R374). -/
def State.sendTriple (s : State) (k : Nat) (p : Pass) : Except Nat (Option (Nat × State)) :=
  let d := p.word 4
  if !desigOk s p.part d then .error cRINGNUM
  else if s.quiesced && s.inDomain then .ok none
  else if desigRemote d then
    match s.sendLink (desigDev d) p.inst none
      { emptyPayload s p.part p.inst with ring := desigRing d, clus := desigClus d, data := p.triple } with
    | none => .error cLINKDOWN
    | some s' => .ok (some (s.nextId, s'))
  else if (s.ring (desigClus d) (desigRing d)).slotsz.toNat < p.triple.length then .error cPVREC
  else
    let (i, s) := s.newId
    .ok (some (i, { s with deliveries := s.deliveries ++
      [⟨i, p.part, desigClus d, desigRing d, p.triple, none, some k, 0x10000 + k⟩] }))

/-! ## Running the operations -/

def PavOp.usesBuf (o : PavOp) : Bool := 0x10 ≤ o.op && o.op ≤ 0x13

/-- SOFT, PV, FINAL and TRIPLE access the working state. -/
def PavOp.usesState (o : PavOp) : Bool := 0x12 ≤ o.op && o.op ≤ 0x15

/-- The engine group of a launch word (R315): 0 matrix, 1 exponent, 2 copy, 3 link. -/
def opGroup (op : Nat) : Nat :=
  if op = 0x11 || op = 0x13 then 0 else if op = 0x12 then 1 else if op = 0x10 || op = 0x14 then 2 else 3

/-- Whether operation `i` may act: every earlier one on its buffer has ended, and every earlier use of the working state is
over. -/
def Pass.mayRun (p : Pass) (i : Nat) : Bool :=
  match p.ops[i]? with
  | none => false
  | some o =>
    o.sent.isNone &&
    (p.ops.take i).all fun e =>
      !(e.usesBuf && o.usesBuf && e.buf = o.buf) && !(e.usesState && o.usesState && e.sent.isNone)

/-- Whether the working state is still in use by an operation. -/
def Pass.stateBusy (p : Pass) : Bool := p.ops.any fun o => o.usesState && o.sent.isNone

/-- Whether MERGE must wait: the query that it loads is part of the working state, and a QK still scores against the old one (R287,
R316). -/
def Pass.mergeBusy (p : Pass) : Bool := p.stateBusy || p.ops.any fun o => o.op = 0x11

/-- Operation `i` of the pass acts, and ends unless it is a TRIPLE, which ends when its payload is published. -/
def State.runOp (s : State) (k : Nat) (p : Pass) (i : Nat) (o : PavOp) : Except Nat State :=
  let p' := { p with ops := p.ops.eraseIdx i }
  match o.op with
  | 0x10 =>
    match s.kvblk k p o with
    | .error c => .error c
    | .ok (s, b) => .ok (s.setPass k (some (p'.setBuf o.buf b)))
  | 0x11 => .ok (s.setPass k (some (p'.qk o.buf)))
  | 0x12 => .ok (s.setPass k (some (p'.soft o.buf)))
  | 0x13 => .ok (s.setPass k (some (p'.pv o.buf)))
  | 0x14 =>
    match s.final k p with
    | .error c => .error c
    | .ok s => .ok (s.setPass k (some p'))
  | _ =>
    match s.sendTriple k p with
    | .error c => .error c
    | .ok none => .ok s
    | .ok (some (n, s)) => .ok (s.setPass k (some { p with ops := p.ops.set i { o with sent := some n } }))

/-- Operations already begun complete when a pass stops (R318); one that fails is dropped. -/
def State.runAll (s : State) (k : Nat) : Nat → State
  | 0 => s
  | f + 1 =>
    match s.passOf k with
    | none => s
    | some p =>
      match p.ops with
      | [] => s
      | o :: rest =>
        let dropped := s.setPass k (some { p with ops := rest })
        if o.sent.isSome then dropped.runAll k f
        else
          match s.runOp k p 0 o with
          | .error _ => dropped.runAll k f
          | .ok s => s.runAll k f

/-- A pass stops: what has begun completes, t2 and t3 are cleared, no flag is signalled, a node is terminated (R318). -/
def State.stopPass (s : State) (k : Nat) : State :=
  match s.passOf k with
  | none => s
  | some p =>
    let s := (((s.runAll k 64).clearTiles k).passOver k)
    (s.nodeEnds p.inst p.node false).tryPass k

/-- A fault in a pass, of the word at control-store address `pc`, is reported, stops the pass and cancels the instance: with RINGFAIL
for a ring member (R318, R320). -/
def State.passFault (s : State) (k pc cause : Nat) : State :=
  match s.passOf k with
  | none => s
  | some p =>
    let s := s.updCluster k fun x => { x with pav := { x.pav with report := some ⟨cause, pc, x.pav.store.get pc 0⟩ } }
    ((s.clearReqs k p.inst).stopPass k).raiseCancel p.inst (if p.ring then cRINGFAIL else cause)

/-! ## Micro-words (R315) -/

/-- Whether a FINAL has not ended: its writes are released before any later word (R317). -/
def Pass.finals (p : Pass) : Bool := p.ops.any fun o => o.op = 0x14

/-- A micro-word of the moving cluster's pass; it waits for an earlier FINAL. -/
def pavWord (s : State) (f : Nat → Pass → Out) : Out :=
  match s.passOf s.clus with
  | none => .next s
  | some p => if p.finals then .next s else f s.clus p

/-- The word of the pass that stands at its pc faults. -/
def pavFault (s : State) (k cause : Nat) : Out := .next (s.passFault k ((s.passOf k).elim 0 (·.pc)) cause)

/-- Continue `off` words on: a flow outside the control store faults PVILL. -/
def pavGo (s : State) (k : Nat) (p : Pass) (off : Int) : Out :=
  let n : Int := p.pc + off
  if 0 ≤ n && n < 4096 then .next (s.setPass k (some { p with pc := n.toNat })) else pavFault s k cPVILL

/-- A word that takes the stack to another: none for PVSTACK. -/
def pavStack (s : State) (f : Pass → Option (List Word)) : Out :=
  pavWord s fun k p =>
    match f p with
    | none => pavFault s k cPVSTACK
    | some st => if 8 < st.length then pavFault s k cPVSTACK else pavGo s k { p with stack := st } 1

def execPavaneLit (n : BitVec 11) (s : State) : Out := pavStack s fun p => some (n.setWidth 64 :: p.stack)

def execPavaneLith (n : BitVec 11) (s : State) : Out :=
  pavStack s fun p => match p.stack with
    | x :: st => some ((x * 2048 + n.setWidth 64) :: st)
    | [] => none

def execPavaneParm (k : BitVec 4) (s : State) : Out := pavStack s fun p => some (p.word k.toNat :: p.stack)

def execPavaneDup (s : State) : Out :=
  pavStack s fun p => match p.stack with
    | x :: st => some (x :: x :: st)
    | [] => none

def execPavaneDrop (s : State) : Out :=
  pavStack s fun p => match p.stack with
    | _ :: st => some st
    | [] => none

def execPavaneSwap (s : State) : Out :=
  pavStack s fun p => match p.stack with
    | b :: a :: st => some (a :: b :: st)
    | _ => none

def execPavaneOver (s : State) : Out :=
  pavStack s fun p => match p.stack with
    | b :: a :: st => some (a :: b :: a :: st)
    | _ => none

/-- a b → a op b. -/
def pavBinary (s : State) (f : Word → Word → Word) : Out :=
  pavStack s fun p => match p.stack with
    | b :: a :: st => some (f a b :: st)
    | _ => none

def execPavaneAdd (s : State) : Out := pavBinary s fun a b => a + b
def execPavaneSub (s : State) : Out := pavBinary s fun a b => a - b
def execPavaneMul (s : State) : Out := pavBinary s fun a b => a * b

def execPavaneJmp (off : BitVec 11) (s : State) : Out := pavWord s fun k p => pavGo s k p off.toInt

def execPavaneBz (off : BitVec 11) (s : State) : Out :=
  pavWord s fun k p =>
    match p.stack with
    | [] => pavFault s k cPVSTACK
    | x :: st => pavGo s k { p with stack := st } (if x = 0 then off.toInt else 1)

def execPavaneDjnz (off : BitVec 11) (s : State) : Out :=
  pavWord s fun k p =>
    match p.stack with
    | [] => pavFault s k cPVSTACK
    | x :: st =>
      if x = 1 then pavGo s k { p with stack := st } 1 else pavGo s k { p with stack := (x - 1) :: st } off.toInt

/-- Whether group `g` has no unfinished operation. -/
def Pass.groupIdle (p : Pass) (g : Nat) : Bool := !p.ops.any fun o => opGroup o.op = g

def execPavaneWait (g : BitVec 4) (s : State) : Out :=
  pavWord s fun k p => if (List.range 4).all fun i => !g.getLsbD i || p.groupIdle i then pavGo s k p 1 else .next s

def execPavaneSig (f : BitVec 10) (s : State) : Out :=
  pavWord s fun k p => if p.ops != [] then .next s else pavGo (s.signal (agPavane k) k f.toNat) k p 1

/-- The flag of a pass that ends, with its node completing (R318). -/
def State.signalPass (s : State) (k : Nat) (p : Pass) : State :=
  let s := if p.node.isSome then s.signalDie (agPavane k) p.part (dieOfClus k) p.flag else s.signal (agPavane k) k p.flag
  s.nodeEnds p.inst p.node true

def execPavaneHalt (s : State) : Out :=
  pavWord s fun k p =>
    if p.ops != [] then .next s else .next ((((s.clearTiles k).passOver k).signalPass k p).tryPass k)

/-- A launch word (R315, R318): a cancel token stops the pass before it; it waits while its group holds four unfinished
operations. -/
def pavLaunch (s : State) (op : Nat) (f : Nat → Pass → Out) : Out :=
  pavWord s fun k p =>
    if s.tokenAt p.inst then .next (s.stopPass k)
    else if 4 ≤ (p.ops.filter fun o => opGroup o.op = opGroup op).length then .next s
    else f k p

/-- Enter an operation. -/
def pavEnter (s : State) (k : Nat) (p : Pass) (o : PavOp) : Out := pavGo s k { p with ops := p.ops ++ [o] } 1

def execPavaneKvblk (region : BitVec 1) (b : BitVec 2) (s : State) : Out :=
  pavLaunch s 0x10 fun k p =>
    match p.stack with
    | [] => pavFault s k cPVSTACK
    | x :: st =>
      let psg := region = 1
      let p := { p with stack := st }
      let o : PavOp := ⟨p.pc, 0x10, b.toNat, psg, x, none, none⟩
      if p.ops.any fun e => e.usesBuf && e.buf = b.toNat then pavEnter s k p o
      else
        match kvblkSlot s k p psg x with
        | .error c => pavFault s k c
        | .ok (_, loc, _) => pavEnter s k p { o with first := some (bytesWord (s.homeBytes loc 8)) }

/-- A launch word without stack operands. -/
def pavOp (s : State) (op buf : Nat) : Out := pavLaunch s op fun k p => pavEnter s k p ⟨p.pc, op, buf, false, 0, none, none⟩

def execPavaneQk (b : BitVec 2) (s : State) : Out := pavOp s 0x11 b.toNat
def execPavaneSoft (b : BitVec 2) (s : State) : Out := pavOp s 0x12 b.toNat
def execPavanePv (b : BitVec 2) (s : State) : Out := pavOp s 0x13 b.toNat
def execPavaneFinal (s : State) : Out := pavOp s 0x14 0
def execPavaneTriple (s : State) : Out := pavOp s 0x15 0

/-- REV: REVN := LASTREV + 1, once the working state is not in use. -/
def execPavaneRev (s : State) : Out :=
  pavWord s fun k p =>
    if p.stateBusy then .next s
    else
      match groupLoc s k p .rd with
      | .error c => pavFault s k c
      | .ok loc => pavGo s k { p with revn := BitVec.ofNat 32 (bytesNat (s.homeBytes loc 4) + 1) } 1

/-! ## MERGE (R319) -/

/-- The ring of word 5 on the pass's own cluster. -/
def Pass.inRing (p : Pass) : Nat := wfld (p.word 5) 0 6

/-- The working state held in a slot. -/
def Pass.load (p : Pass) (bs : List Byte) : Pass :=
  let h := dwordAt bs 0
  let q := 64
  let ml := q + p.rows * p.rowBytes
  let os := ml + 8 * p.rows
  { p with
    origin := wfld h 32 6
    hop := wfld h 38 7
    qry := (List.range p.rows).map fun r => bytesAt bs (q + r * p.rowBytes) p.rowBytes
    m := (List.range p.rows).map fun r => BitVec.ofNat 32 (natAt bs (ml + 8 * r) 4)
    l := (List.range p.rows).map fun r => BitVec.ofNat 32 (natAt bs (ml + 8 * r + 4) 4)
    o := (List.range p.rows).map fun r => (List.range p.dh).map fun e => BitVec.ofNat 32 (natAt bs (os + 4 * (r * p.dh + e)) 4)
    mergeDeadline := none }

/-- Bytes that a MERGE takes of a slot. -/
def Pass.tripleBytes (p : Pass) : Nat := 64 + p.rows * (p.rowBytes + 8 + 4 * p.dh)

/-- Count one discarded slot in the group record. -/
def State.discard (s : State) (k : Nat) (p : Pass) : Except Nat State :=
  match groupLoc s k p .both with
  | .error c => .error c
  | .ok loc => .ok (s.homeWrite (agPavane k) (loc + 4) (natBytes 4 (bytesNat (s.homeBytes (loc + 4) 4) + 1)))

/-- Take slots until one matches REVN: the loaded pass, or none while the ring is empty. -/
def State.mergeFrom (s : State) (k : Nat) (p : Pass) : Nat → Except Nat (Option Pass × State)
  | 0 => .ok (none, s)
  | f + 1 =>
    let r := s.ring k p.inRing
    match r.take with
    | none => .ok (none, s)
    | some (i, r') =>
      let loc := r.slotLoc k i
      if s.unc loc p.tripleBytes then .error cMEMUNC
      else
        let bs := (s.homeBytes loc p.tripleBytes)
        let s := (s.homeRead (agPavane k) loc p.tripleBytes).updRing k p.inRing fun _ => (r'.release i).getD r'
        if wfld (dwordAt bs 0) 0 32 = p.revn.toNat then .ok (some (p.load bs), s)
        else
          match s.discard k p with
          | .error c => .error c
          | .ok s => s.mergeFrom k p f

/-- MERGE: without a slot it waits, for 2^e cycles at most, whatever the eight bits of e in word 5 hold (assumption 82). -/
def execPavaneMerge (s : State) : Out :=
  pavLaunch s 0x16 fun k p =>
    if p.mergeBusy then .next s
    else if 8 ≤ p.stack.length then pavFault s k cPVSTACK
    else if (s.ringOf p.part k p.inRing).isNone then pavFault s k cRINGNUM
    else
      match s.mergeFrom k p ((s.ring k p.inRing).count.toNat + 1) with
      | .error c => pavFault s k c
      | .ok (some q, s) => pavGo s k { q with stack := BitVec.ofNat 64 q.hop :: q.stack } 1
      | .ok (none, s) =>
        .next (s.setPass k (some { p with mergeDeadline := some (p.mergeDeadline.getD (s.cycle + 2 ^ wfld (p.word 5) 8 8)) }))

/-- PAVANE_MERGE_TIMEOUT: the MERGE of cluster `k` has waited 2^e cycles; the member fails (R320). -/
def execPavaneMergeTimeout (s : State) : Out :=
  match s.arg with
  | .unit k =>
    match s.passOf k with
    | some p => if passed s.cycle p.mergeDeadline then .next (s.passFault k p.pc cRINGFAIL) else .next s
    | none => .next s
  | _ => .next s

/-! ## PAVANE_OPERATION_COMPLETE -/

/-- The first operation that may act. -/
def Pass.nextOp (p : Pass) : Option Nat := (List.range p.ops.length).find? p.mayRun

/-- Operation `i` of cluster `k`'s pass completes. -/
def State.completeOp (s : State) (k i : Nat) : State :=
  match s.passOf k with
  | none => s
  | some p =>
    if !p.mayRun i then s
    else
      match p.ops[i]? with
      | none => s
      | some o =>
        match s.runOp k p i o with
        | .ok s => s.startBehind k
        | .error c => s.passFault k o.pc c

/-- The message that a TRIPLE of cluster `k` sent has been published: the operation ends. -/
def State.tripleEnds (s : State) (k n : Nat) : State :=
  s.updPass k fun p => { p with ops := p.ops.filter fun o => o.sent != some n }

/-- The answer to a TRIPLE sent over a link: published, or rejected, which cancels the instance (08_sync_async.md R241). -/
def State.tripleAnswer (s : State) (k : Nat) (ok : Bool) : State :=
  match s.passOf k with
  | none => s
  | some p =>
    match p.ops.find? fun o => o.sent.elim false fun n => s.links.any (·.id = n) with
    | some o =>
      let n := o.sent.getD 0
      let s := { s with links := s.links.filter (·.id != n) }.tripleEnds k n
      if ok then s else s.raiseCancel p.inst cREMOTEREJ
    | none => s

/-- PAVANE_OPERATION_COMPLETE of cluster `k`: its first operation that may act, or operation `i`; or the answer to a TRIPLE. -/
def execPavaneOperationComplete (s : State) : Out :=
  match s.arg with
  | .unit k => .next ((s.passOf k).bind Pass.nextOp |>.elim s (s.completeOp k))
  | .pair k i => .next (s.completeOp k i)
  | .flag k ok => .next (s.tripleAnswer k ok)
  | _ => .next s

end Sys2Proof.Machine
end

