-- ==== Sys2Proof/Machine/Graph.lean ====
section
/-!
DEFINITION. Task graphs: TSUB, TDEP, TCAN and TQRY, the Galliard's dispatch, offers and pre-emption, the start and the completion of
a tile task, cancel tokens, and the end of an instance (01_machine.md R23, R24, R27, R28, R39, R40; 09_progress_scheduling.md R254
to R268, R282; 10_retrieval_attention.md R301, R320; 12_recovery.md R358).
-/

namespace Sys2Proof.Machine

/-! ## TSUB, TDEP, TCAN, TQRY (R255, R257, R267, R268) -/

/-- A child of an instance that is already cancelled is cancelled with it (R265). -/
def State.followParent (s : State) (parent child : Nat) : State :=
  if (s.insts.find parent).elim false (·.cancelled.isSome) then s.raiseCancel child cPARENTCAN else s

def execTsub (q : Qual) (d a b : BitVec 6) (flag : BitVec 10) (s : State) : Out :=
  scalarWord q [d, a, b] [] s fun s =>
    releasing .dev s fun s =>
      let g := s.me
      let c := s.myCore
      let p := s.instOf g
      match s.submit (s.partOf g) (dieOf g) (c.reg a).toNat (c.reg b).toNat (some p) (.flag (clusOf g) flag.toNat) with
      | .error e => s.trap { cause := e.1, addr := e.2 }
      | .ok (i, s) => .next (((s.followParent p i).putReg g d (BitVec.ofNat 64 i)).advance g)

/-- The instance that a register names, when it is live in partition `p`. -/
def State.liveInst (s : State) (p i : Nat) : Option Instance :=
  match s.insts.find i with
  | some x => if x.part = p then some x else none
  | none => none

/-- The count of a node as TDEP sees it: 0 once it has become ready. -/
def Node.count (n : Node) : Nat := if n.st = .waiting then n.cnt else 0

def execTdep (q : Qual) (d a b : BitVec 6) (nm1 : BitVec 8) (s : State) : Out :=
  scalarWord q [d, a, b] [] s fun s =>
    releasing .dev s fun s =>
      let g := s.me
      let i := (s.myCore.reg a).toNat
      let k := (s.myCore.reg b).toNat
      let n := nm1.toNat + 1
      match (if i < 2 ^ 24 then s.liveInst (s.partOf g) i else none) with
      | none => s.trap { cause := cTINST }
      | some x =>
        if x.cancelled.isSome then .next ((s.putReg g d (BitVec.allOnes 64)).advance g)
        else
          match x.nodes[k]? with
          | none => s.trap { cause := cTNODE }
          | some y =>
            if y.count < n then (s.raiseCancel i cDEPUNDER).trap { cause := cDEPUNDER }
            else
              let s := s.updNode i k fun z => { z with cnt := y.count - n }
              let s := if y.count = n then s.makeReady i k else s
              .next ((s.putReg g d (BitVec.ofNat 64 (y.count - n))).advance g)

def execTcan (q : Qual) (d a : BitVec 6) (s : State) : Out :=
  scalarWord q [d, a] [] s fun s =>
    let g := s.me
    let i := (fld (s.myCore.reg a) 0 24).toNat
    match s.liveInst (s.partOf g) i with
    | some x =>
      if x.cancelled.isSome then .next ((s.putReg g d 0).advance g)
      else .next (((s.raiseCancel i cUSERCAN).putReg g d 1).advance g)
    | none => .next ((s.putReg g d 0).advance g)

/-- Selector 0: an instance. -/
def tqryInst (s : State) (p i : Nat) : Word :=
  match s.liveInst p i with
  | none => 0
  | some x =>
    packWord [(0, if x.cancelled.isSome then 2 else 1), (16, (x.nodes.filter (·.st != .complete)).length),
      (32, x.cancelled.getD 0)]

/-- Selector 1: an expert queue. -/
def tqryQueue (s : State) (p n : Nat) (x : XQueue) : Word :=
  let due := if x.ageDue s.cycle then 2 else if x.fillDue s.cycle then 1 else 0
  let flying := s.insts.filter fun y => y.2.part = p && y.2.batch.elim false fun b => b.1 = n
  packWord [(0, x.descs.length), (32, due), (34, flying.length)]

/-- Selector 2: the partition's pooled nodes on a die. -/
def tqryPool (s : State) (p d : Nat) : Word :=
  BitVec.ofNat 64 ((s.die d).pool.filter fun x => (s.insts.find x.2.1).elim false fun y => decide (y.part = p)).length

def execTqry (q : Qual) (d a : BitVec 6) (obj : BitVec 10) (sel : BitVec 8) (s : State) : Out :=
  scalarWord q [d, a] [] s fun s =>
    let g := s.me
    let p := s.partOf g
    let put (v : Word) : Out := .next ((s.putReg g d v).advance g)
    if sel = 0 then put (tqryInst s p (fld (s.myCore.reg a) 0 24).toNat)
    else if sel = 1 then
      match s.xq p obj.toNat with
      | none => s.trap { cause := cXQNUM, aux := obj.toNat }
      | some x => put (tqryQueue s p obj.toNat x)
    else if sel = 2 then put (tqryPool s p (dieOf g))
    else put (BitVec.ofNat 64 (s.spillFree p))

/-! ## The start of a tile task (R24, R27, R29, R79) -/

/-- The three generators are loaded from STOCH_SEED (03_numbers.md R79). -/
def Core.loadGens (c : Core) : Core :=
  { c with
    genS := genLoad c.seed
    genV := genLoad (c.seed ^^^ 0x5555555555555555)
    genM := genLoad (c.seed ^^^ 0xAAAAAAAAAAAAAAAA) }

/-- Core `g` with what a task of partition `p` finds there: the values its previous task left, or those of reset. FAULT_REP0 to 7, of
which R27 does not speak, are 0 (assumption 77). -/
def Core.carried (c : Core) (g p : Nat) : Core :=
  let b := if c.lastPart = some p then c else .reset g
  { Core.reset g with
    v := b.v, t := b.t, tkind := b.tkind, ftz := b.ftz, nten := b.nten, seed := b.seed, cmpdSeg := b.cmpdSeg, cmpdOfs := b.cmpdOfs
    cmpdN := b.cmpdN, cmpdValid := b.cmpdValid, cmpdErr := b.cmpdErr, joinTimeout := b.joinTimeout, xqStride := b.xqStride
    xqWidth := b.xqWidth, hndCtl := b.hndCtl, hndBase := b.hndBase, wp := b.wp, traceCtl := b.traceCtl, lastPart := some p }

/-- The scalar registers at the start of a task. -/
def startRegs (t : Task) (rank : Nat) : Vector Word 64 :=
  let put (v : Vector Word 64) (i x : Nat) := v.setIfInBounds i (BitVec.ofNat 64 x)
  put (put (put (put (put (put (Vector.replicate 64 0) 1 t.inst) 2 t.node) 3 rank) 4 t.size) 5 t.recAddr) 63 (ownNear + nearSize)

/-- The stream registers: the record's operands bound, each to its entry now (06_streams_matrix.md R162). -/
def startStreams (s : State) (p : Nat) (r : BitVec 512) : Vector StreamReg 16 :=
  Vector.ofFn fun i =>
    if i.val < rf r 0x18 40 4 then
      match s.obj p (recOpnd r i.val) with
      | some e => ⟨true, BitVec.ofNat 16 (recOpnd r i.val), e.bits, 0, 0, 0, 0⟩
      | none => .reset
    else .reset

/-- The first phase of a task, the address it starts at, and the loop state there. -/
def firstPhase (t : Task) : Phase × Word × LoopState :=
  if t.pro != 0 then (.prologue, t.pro, .reset)
  else if t.trip != 0 then (.kernel, t.kern, kernelLoops .reset t)
  else if t.epi != 0 then (.epilogue, t.epi, .reset)
  else (.ended, 0, .reset)

/-- One core of the set at the start of its task. -/
def Core.begin (c : Core) (g p tn rank now : Nat) (t : Task) (qs : Vector StreamReg 16) : Core :=
  let (ph, pc, lp) := firstPhase t
  { (c.carried g p).loadGens with
    s := startRegs t rank, q := qs, loops := lp, pc := pc, task := some tn, phase := ph, rank := rank, phaseStart := now
    att := t.size = 16 }

/-- The Quadrille at the start of a sixteen-core task. -/
def startQuad (t : Task) : Quad :=
  let (ph, pc, lp) := firstPhase t
  { Quad.reset with run := .running, dpc := pc, loops := lp, phase := ph }

/-- The task of a record. -/
def recTask (r : BitVec 512) (i n p k g addr now : Nat) : Task :=
  { inst := i, node := n, part := p, clus := k, first := g, size := recSetSize r, recAddr := addr, pro := BitVec.ofNat 64 (rf r 0 0 64)
    kern := BitVec.ofNat 64 (rf r 0x08 0 64), epi := BitVec.ofNat 64 (rf r 0x10 0 64), trip := BitVec.ofNat 32 (rf r 0x18 0 32)
    nst := BitVec.ofNat 3 (rf r 0x18 32 3), since := now, preReq := false, haltReq := false, saving := false, preBytes := 0 }

/-- A trace record of a task's start or end, by the Galliard of its die. -/
def State.traceTask (s : State) (t : Task) (ev : Nat) : State :=
  let d := dieOfClus t.clus
  s.traceAgent (agGalliard d) t.part d ev (BitVec.ofNat 64 t.inst) (BitVec.ofNat 64 t.node)

/-- A tile task starts on the set of cluster `k` whose first core is `g`. -/
def State.startTile (s : State) (i n k g : Nat) (r : BitVec 512) (addr : Nat) : State :=
  let p := (s.cluster k).part
  let t := recTask r i n p k g addr s.cycle
  let (tn, s) := (s.adoptIdle k).newId
  let qs := startStreams s p r
  let s := (s.updNode i n fun x => { x with st := .running, task := some tn }).traceTask t evTASKSTART
  let s := { s with tasks := s.tasks.set tn t }
  let s := t.cores.foldl (fun s h => s.updCore h fun c => c.begin h p tn (h - g) s.cycle t qs) s
  let s := if t.size = 16 then s.updCluster k fun x => { x with quad := startQuad t } else s
  if (firstPhase t).1 = .ended then t.cores.foldl (fun s h => s.endPart h) s else s

/-! ## Dispatch (R259, R260) -/

def State.nodeAt (s : State) (i n : Nat) : Option Node := (s.insts.find i).bind fun x => x.nodes[n]?

/-- The clusters of a die. -/
def clustersOf (d : Nat) : List Nat := upFrom (8 * d) 8

/-- The sets of a record's size that stand idle on die `d`, as (cluster, first core). -/
def State.idleSets (s : State) (p d : Nat) (r : BitVec 512) : List (Nat × Nat) :=
  ((clustersOf d).map fun k =>
    if s.clusAllowed p r k then
      ((setStarts k (recSetSize r)).filter fun g => s.setIdle k g (recSetSize r)).map fun g => (k, g)
    else []).flatten

/-- The clusters of die `d` that an attention node may use: sixteen idle cores and an idle Pavane. -/
def State.idleClusters (s : State) (p d : Nat) (r : BitVec 512) : List (Nat × Nat) :=
  ((clustersOf d).filter fun k => s.clusAllowed p r k && (coresOf k).all s.coreIdle && (s.passOf k).isNone).map fun k => (k, 16 * k)

/-- The set of a saved task, when it is idle: it resumes there and only there (12_recovery.md R358). -/
def State.savedSet (s : State) (tn : Nat) : List (Nat × Nat) :=
  match s.tasks.find tn with
  | some t =>
    if s.setIdle t.clus t.first t.size && (s.cluster t.clus).part = t.part && !s.swapped.any (fun x => x.1 = 32 * t.part + t.clus) then
      [(t.clus, t.first)]
    else []
  | none => []

/-- The idle executors of die `d` for a node, as (cluster, first core); one entry stands for a controller or a copy engine. -/
def State.executors (s : State) (d p : Nat) (x : Node) : List (Nat × Nat) :=
  match recKind x.record with
  | 0 =>
    match x.task with
    | some tn => s.savedSet tn
    | none => s.idleSets p d x.record
  | 1 => if s.searchRoom p x.record then [(0, 0)] else []
  | 2 => if (upFrom (4 * d) 4).any fun e => (s.cmdsOf true e).length < 32 then [(0, 0)] else []
  | _ => s.idleClusters p d x.record

/-- A pooled node with what its place in the order needs. -/
structure Pooled where
  i : Nat
  n : Nat
  part : Nat
  x : Node
  deriving DecidableEq, Repr

def State.pooled (s : State) (d : Nat) : List Pooled :=
  (s.die d).pool.filterMap fun (_, i, n) =>
    match s.insts.find i with
    | none => none
    | some y => (y.nodes[n]?).map fun x => ⟨i, n, y.part, x⟩

/-- Whether `a` comes before `b`: promoted nodes oldest first, over all partitions; then within a partition the roles, oldest
first. -/
def Pooled.before (a b : Pooled) : Bool :=
  match a.x.promoted, b.x.promoted with
  | true, false => true
  | true, true => a.x.readyAt < b.x.readyAt
  | false, true => false
  | false, false =>
    a.part = b.part &&
    (recRole a.x.record < recRole b.x.record || (recRole a.x.record = recRole b.x.record && a.x.readyAt < b.x.readyAt))

/-- The pooled nodes of a die that an idle executor can take; while a partition is being reset, none of its own
(11_isolation.md R325). -/
def State.candidates (s : State) (d : Nat) : List Pooled :=
  (s.pooled d).filter fun a => !(s.part a.part).resetting && s.executors d a.part a.x != []

/-- The candidates that a slot may choose: none of the others comes before. -/
def firsts (l : List Pooled) : List Pooled := l.filter fun a => !l.any fun b => b.before a

/-- Every pooled node of die `d` whose age has reached AGE is promoted (NODE_PROMOTE). -/
def Node.promoteDue (x : Node) (now age : Nat) : Node := if x.readyAt + age ≤ now then { x with promoted := true } else x

def State.promoteAll (s : State) (d : Nat) : State :=
  (s.die d).pool.foldl (fun s (_, i, n) => s.updNode i n fun x => x.promoteDue s.cycle (s.die d).age.toNat) s

/-- A pool entry of a cancelled instance is dropped. -/
def State.dropPooled (s : State) (d i n : Nat) : State := (s.leavePool d i n).dropNode i n

/-- The sweep examines one pool entry, in entry order, and goes on to the next of the 4,096 (R266). -/
def State.sweepOne (s : State) (d : Nat) : State :=
  let j := (s.die d).sweep
  let s := match (s.die d).pool.find j with
    | some (i, n) => if s.tokenAt i then s.dropPooled d i n else s
    | none => s
  s.updDie d fun x => { x with sweep := (j + 1) % 4096 }

/-- Every pooled node of die `d` notes since when no executor has been idle for it (R262, R263; assumption 39). -/
def State.noteBlocked (s : State) (d : Nat) : State :=
  (s.pooled d).foldl (fun s a => s.updNode a.i a.n fun x =>
    { x with blocked := if s.executors d a.part a.x = [] then some (x.blocked.getD s.cycle) else none }) s

/-- A saved task is put back on its cores; CONTEXT_RESUME restores it there. -/
def State.reserveSaved (s : State) (i n tn : Nat) : State :=
  match s.tasks.find tn with
  | none => s
  | some t =>
    t.cores.foldl (fun s g => s.updCore g fun c => { c with task := some tn })
      (s.updNode i n fun x => { x with st := .running })

/-- A node is dispatched from die `d` to the set or cluster `k`, `g`; one of a cancelled instance is dropped instead. -/
def State.dispatch (s : State) (d : Nat) (a : Pooled) (k g : Nat) : State :=
  if s.tokenAt a.i then s.dropPooled d a.i a.n
  else
    let s := (s.leavePool d a.i a.n).updNode a.i a.n fun x => { x with st := .running }
    match recKind a.x.record with
    | 0 =>
      match a.x.task with
      | some tn => s.reserveSaved a.i a.n tn
      | none => s.startTile a.i a.n k g a.x.record a.x.addr
    | 1 => s.startSearchNode d a.i a.n a.x.record
    | 2 => s.startCopyNode d a.i a.n a.x.record
    | _ => s.startAttention k a.i a.n a.x.record

/-- One slot of die `d`: the sweep, then the dispatch that `pick` finds among the nodes that may be chosen. Who waits with no
executor idle is noted before the dispatch and after it. -/
def State.slotOnce (s : State) (d : Nat) (pick : List Pooled → Option (Pooled × Nat × Nat)) : State :=
  let s := ((s.sweepOne d).promoteAll d).noteBlocked d
  if s.quiesced then s
  else
    match pick (firsts (s.candidates d)) with
    | none => s
    | some (a, k, g) => if (s.executors d a.part a.x).contains (k, g) then (s.dispatch d a k g).noteBlocked d else s

/-- The first choice with its first executor. -/
def State.anyPick (s : State) (d : Nat) (l : List Pooled) : Option (Pooled × Nat × Nat) :=
  match l with
  | [] => none
  | a :: _ => (s.executors d a.part a.x).head?.map fun e => (a, e.1, e.2)

/-- DISPATCH_SLOT of die `d` with a choice of node and executor, or of every die in turn with the first of each. -/
def execDispatchSlot (s : State) : Out :=
  match s.arg with
  | .slot d _ ch =>
    .next (s.slotOnce d fun l => (l.find? fun a => a.i = ch.inst && a.n = ch.node).map fun a =>
      if recKind a.x.record = 1 || recKind a.x.record = 2 then (a, 0, 0) else (a, ch.clus, ch.core))
  | .unit d => .next (s.slotOnce d (s.anyPick d))
  | .none => .next ((List.range 4).foldl (fun s d => if (s.die d).pool = [] then s else s.slotOnce d (s.anyPick d)) s)
  | _ => .next s

/-- NODE_PROMOTE of node `n` of instance `i`. -/
def execNodePromote (s : State) : Out :=
  match s.arg with
  | .pair i n =>
    match s.nodeAt i n with
    | some x => if x.st = .pooled then .next (s.updNode i n fun x => x.promoteDue s.cycle (s.die x.die).age.toNat) else .next s
    | none => .next s
  | _ => .next s

/-! ## Offers (R262) -/

/-- Nodes on their way to the pool of die `d`. -/
def State.incoming (s : State) (d : Nat) : Nat :=
  (s.insts.map fun x => (x.2.nodes.filter fun n => (n.inTransit.map (·.1)) = some d).length).foldl (· + ·) 0

/-- Whether a node has waited `n` cycles with no executor idle for it, the first of them not before `from_` (R262, R263). -/
def Node.waited (x : Node) (from_ n now : Nat) : Bool := x.blocked.elim false fun b => max b from_ + n ≤ now

/-- Whether a node may move from its die to die `t` now. -/
def State.mayOffer (s : State) (p : Nat) (x : Node) (t : Nat) : Bool :=
  x.st = .pooled && x.inTransit.isNone && !x.moved && x.task.isNone && t < 4 && t != x.die &&
  x.waited 0 (s.die x.die).xchg.toNat s.cycle && s.executors x.die p x = [] &&
  (recKind x.record != 0 || (clustersOf t).any fun k => s.clusAllowed p x.record k) &&
  (s.die t).pool.length + s.incoming t < 4096

/-- NODE_OFFER of node `n` of instance `i` to die `t`: it leaves the pool, and arrives 160 cycles later. -/
def execNodeOffer (s : State) : Out :=
  match s.arg with
  | .node i n t =>
    match s.insts.find i, s.nodeAt i n with
    | some y, some x =>
      if s.mayOffer y.part x t then
        .next ((s.leavePool x.die i n).updNode i n fun x => { x with moved := true, inTransit := some (t, s.cycle + 160) })
      else .next s
    | _, _ => .next s
  | _ => .next s

/-- NODE_TRANSFER_ARRIVE of node `n` of instance `i`. -/
def execNodeTransferArrive (s : State) : Out :=
  match s.arg with
  | .pair i n =>
    match (s.nodeAt i n).bind (·.inTransit) with
    | some (t, due) => if due ≤ s.cycle && (s.die t).pool.length < 4096 then .next (s.enterPool t i n) else .next s
    | none => .next s
  | _ => .next s

/-! ## Pre-emption requests (R263, R272) -/

/-- A pre-emption request to task `tn`; it is withdrawn at once when it can find no stop point. -/
def State.requestPreempt (s : State) (tn : Nat) : State :=
  match s.tasks.find tn with
  | none => s
  | some t =>
    if t.trip = 0 || t.saving || t.cores.any (fun g => let c := s.core g; c.phase = .epilogue || c.phase = .ended || c.phase = .idle) then s
    else s.updTask tn fun x => { x with preReq := true }

/-- Whether a set of task `t` serves the node: a saved task resumes on its own set only (12_recovery.md R358). -/
def State.servesSaved (s : State) (x : Node) (t : Task) : Bool :=
  match x.task.bind s.tasks.find with
  | some u => u.clus = t.clus && t.first ≤ u.first && u.first + u.size ≤ t.first + t.size
  | none => true

/-- Running tile tasks that a promoted node may take the set of: the partition's, of its size or larger, on its own die. -/
def State.victims (s : State) (p : Nat) (x : Node) : List (Nat × Task) :=
  s.tasks.filter fun y =>
    y.2.part = p && dieOfClus y.2.clus = x.die && s.clusAllowed p x.record y.2.clus && recSetSize x.record ≤ y.2.size &&
    s.servesSaved x y.2 && !y.2.preReq && !y.2.saving && y.2.cores.any fun g => (s.core g).task = some y.1 && (s.core g).running

/-- The one dispatched last. -/
def latest : List (Nat × Task) → Option (Nat × Task)
  | [] => none
  | x :: xs =>
    match latest xs with
    | none => some x
    | some y => some (if y.2.since ≤ x.2.since then x else y)

/-- GALLIARD_PREEMPT_REQUEST for the waiting node `n` of instance `i`, which asks once in a wait: it has waited AGE cycles more with no
executor idle since it was promoted. Tile nodes alone ask (assumption 81). -/
def execGalliardPreemptRequest (s : State) : Out :=
  match s.arg with
  | .pair i n =>
    match s.insts.find i, s.nodeAt i n with
    | some y, some x =>
      let age := (s.die x.die).age.toNat
      if x.st = .pooled && x.inTransit.isNone && x.promoted && recKind x.record = 0 && !x.asked &&
          x.waited (x.readyAt + age) age s.cycle && s.executors x.die y.part x = [] then
        match latest (s.victims y.part x) with
        | some (tn, _) => .next ((s.updNode i n fun x => { x with asked := true }).requestPreempt tn)
        | none => .next s
      else .next s
    | _, _ => .next s
  | _ => .next s

/-! ## The completion of a tile task (R28, R282) -/

/-- The token queues of a core are empty. -/
def Core.noTokens (c : Core) : Bool := c.toks.toList.all fun t => t.vis = 0 && t.res = 0

/-- A command that a round holds: it has left its engine. -/
def State.inRound (s : State) (c : Cmd) : Bool := s.rounds.any fun r => r.held.any (·.cmd = some c.id)

/-- Whether R28 waits for a command: XLAT is not in its list. -/
def CmdKind.counts : CmdKind → Bool
  | .xlat _ _ => false
  | _ => true

/-- Whether core `g` has work of task `tn` outstanding at an engine (R28); for a cancelled task, what a round holds does not count. -/
def State.coreWork (s : State) (tn : Nat) (lost : Bool) (g : Nat) : Bool :=
  s.cmds.any (fun c => c.core = some g && c.task = some tn && c.kind.counts && !(lost && s.inRound c)) ||
  s.binds.any (fun b => b.core = g && b.inst = s.instOf g) || (s.cluster (clusOf g)).pav.reqs.any (fun r => r.core = g && r.task = some tn)

/-- R28 holds for task `tn`; tokens that a cancelled task leaves behind do not count. -/
def State.taskDone (s : State) (tn : Nat) (t : Task) : Bool :=
  t.cores.all (fun g =>
    let c := s.core g
    c.task = some tn && c.phase = .ended && !c.inh && c.pend.isNone && !c.halted && c.drained && (c.noTokens || s.taskLost t) && !s.coreWork tn (s.taskLost t) g) &&
  !((s.passOf t.clus).elim false fun p => p.node.isNone && p.inst = t.inst)

/-- A dump left open for a nested fault of the task is closed. -/
def State.taskDump (s : State) (tn : Nat) : State :=
  match (List.range 8).find? fun p => (s.part p).dump.openTask = some tn with
  | some p => (s.closeDump p [] 0).flushDumps
  | none => s

/-- A core leaves its task. -/
def Core.release (c : Core) : Core := { c with task := none, phase := .idle, drainSince := none }

/-- Task `tn` completes: its writes are released, its node completes, and a fired task sets its arrival bits; the node of a
cancelled instance is terminated. -/
def State.completeTask (s : State) (tn : Nat) (t : Task) : State :=
  let ok := !s.taskLost t
  let s := t.cores.foldl (fun s g => (s.flushCore g).updCore g Core.release) s
  let s := (s.taskDump tn).traceTask t evTASKEND
  let s := { s with tasks := s.tasks.del tn }.adoptIdle t.clus
  if ok then (s.completeNode t.inst t.node).arrivalBits t.inst else s.dropNode t.inst t.node

/-- TASK_COMPLETE of task `tn`, or of the first that is done. -/
def execTaskComplete (s : State) : Out :=
  match s.arg with
  | .unit tn =>
    match s.tasks.find tn with
    | some t => if s.taskDone tn t then .next (s.completeTask tn t) else .next s
    | none => .next s
  | .none =>
    match s.tasks.find? fun x => s.taskDone x.1 x.2 with
    | some (tn, t) => .next (s.completeTask tn t)
    | none => .next s
  | _ => .next s

/-! ## Cancel tokens (R265, R266) -/

/-- The token reaches core `g` of a running task: its waits return, and a core that has stopped ends its part unless a halt is still to
take effect on it (12_recovery.md R362). -/
def State.tokenCore (s : State) (g : Nat) : State :=
  let c := s.core g
  if !c.running then s
  else if c.stopped && !c.halted then s.stoppedEnds g
  else
    match c.wait with
    | some (.join _ _) => s.monReturnAll g
    | _ => (s.interruptWait g).monReturnAll g

/-- The token reaches task `tn`: a saved context is discarded and its node terminated; a running set ends. -/
def State.tokenTask (s : State) (tn : Nat) (t : Task) : State :=
  if (s.saved.find tn).isSome then
    let s := { s with saved := s.saved.del tn }
    if (s.core t.first).task = some tn then
      t.cores.foldl (fun s g => s.updCore g fun c => { c with phase := .ended }) s
    else { s with tasks := s.tasks.del tn }.updNode t.inst t.node fun x => { x with task := none }
  else t.cores.foldl (fun s g => s.tokenCore g) (s.updTask tn fun x => { x with saving := false })

/-- The engines that hold commands of instance `i`. -/
def State.enginesOf (s : State) (i : Nat) : List (Bool × Nat) :=
  (s.cmds.filter fun c => c.inst = i).map fun c => (c.die, c.engine)

def CmdKind.isCombine : CmdKind → Bool
  | .combine _ _ _ _ _ _ => true
  | _ => false

/-- Waiting XQCOMB commands are dropped, and commands at the queue heads (R266). -/
def State.tokenCmds (s : State) (i : Nat) : State :=
  let es := s.enginesOf i
  let s := (s.cmds.filter fun c => c.inst = i && c.kind.isCombine).foldl State.dropCmd s
  es.foldl (fun s e => s.startCmds e.1 e.2 33) s

/-- Nodes that wait for their count never become ready. -/
def State.tokenNodes (s : State) (i : Nat) : State :=
  s.updInst i fun x => { x with nodes := x.nodes.map fun n => if n.st = .waiting then { n with st := .dropped } else n }

/-- CANCEL_TOKEN: the token of instance `i` reaches its holders. -/
def State.token (s : State) (i : Nat) (x : Instance) (cause : Nat) : State :=
  let s := { s with tokens := s.tokens.filter (· != i) }.updInst i fun y => { y with delivered := true }
  let s := s.traceAgent (agGalliard x.die) x.part x.die evCANCEL (BitVec.ofNat 64 i) (BitVec.ofNat 64 cause)
  let s := s.tokenNodes i
  let s := (s.tasks.filter fun t => t.2.inst = i).foldl (fun s t => s.tokenTask t.1 t.2) s
  let s := s.tokenCmds i
  let s := (s.searches.filter fun y => y.2.inst = i).foldl (fun s y => s.stopSearch y.1) s
  let s := { s with binds := s.binds.filter fun b => b.inst != i }
  let s := (List.range 32).foldl (fun s k => if (s.cluster k).pav.reqs = [] then s else s.clearReqs k i) s
  (s.insts.filter fun y => y.2.parent = some i).foldl (fun s y => s.raiseCancel y.1 cPARENTCAN) s

/-- CANCEL_TOKEN of instance `i`, or of the first on its way. -/
def execCancelToken (s : State) : Out :=
  let go (i : Nat) : Out :=
    match s.insts.find i with
    | some x =>
      match x.cancelled with
      | some c => if s.tokens.contains i then .next (s.token i x c) else .next s
      | none => .next s
    | none => .next { s with tokens := s.tokens.filter (· != i) }
  match s.arg with
  | .unit i => go i
  | .none =>
    match s.tokens with
    | i :: _ => go i
    | [] => .next s
  | _ => .next s

/-! ## The end of an instance (R258, R320) -/

/-- Every node is complete, and the searches and appends of the instance's tasks are done. -/
def State.instComplete (s : State) (i : Nat) (x : Instance) : Bool :=
  x.cancelled.isNone && x.nodes.all (·.st = .complete) && !s.searches.any (fun y => y.2.inst = i) && !s.appends.any (·.inst = i)

/-- Nothing of a cancelled instance is left. -/
def State.instDrained (s : State) (i : Nat) (x : Instance) : Bool :=
  x.cancelled.isSome && x.delivered && x.nodes.all (fun n => n.st = .complete || n.st = .dropped) &&
  !s.cmds.any (fun c => c.inst = i && !s.inRound c) && !s.searches.any (fun y => y.2.inst = i) &&
  !s.parts.any fun p => p.2.xqs.any fun q => q.2.descs.any (·.inst = i)

/-- Whether an instance that ended with RINGFAIL is submitted again. -/
def Instance.restartable (x : Instance) : Bool :=
  x.cancelled = some cRINGFAIL && x.restarts < 3 && x.nodes.any fun n => recKind n.record = 3 && rf n.record 0x08 12 1 = 1

/-- A node as it was at submission. -/
def Node.again (n : Node) (d : Nat) : Node := newNode d n.addr (n.record, n.succ) 0

/-- The instance leaves the table. -/
def State.removeInst (s : State) (i : Nat) : State :=
  { s with
    insts := (s.insts.del i).map fun (j, y) => (j, if y.parent = some i then { y with parent := none } else y)
    tokens := s.tokens.filter (· != i) }

def State.relaunched (s : State) (p i : Nat) (j : List Nat) : State :=
  if (s.part p).cmdq.launched.contains i then
    s.updCmdq p fun q => { q with launched := (q.launched.map fun a => if a = i then j else [a]).flatten }
  else s

/-- Who waits for the instance learns of its end: a flag of a cluster that its partition no longer owns, or whose partition is being
reset, is left alone (11_isolation.md R322, R325). -/
def State.notifyEnd (s : State) (i : Nat) (x : Instance) : State :=
  match x.notify with
  | .none => s
  | .flag k f => if (s.cluster k).part = x.part && !(s.part x.part).resetting then s.signal (agGalliard x.die) k f else s
  | .packet seq vec cpl => s.answer x.part seq vec cpl i (bit x.cancelled.isSome) (x.cancelled.getD 0)

/-- Instance `i` ends, or is resubmitted under RESTART. -/
def State.endInst (s : State) (i : Nat) (x : Instance) : State :=
  let s := s.removeInst i
  if x.restartable then
    let (j, s) := s.addInstance { x with
      nodes := x.nodes.map (·.again x.die), cancelled := none, delivered := false, restarts := x.restarts + 1 }
    s.relaunched x.part i [j]
  else (s.relaunched x.part i []).notifyEnd i x

def State.instEnds (s : State) (i : Nat) (x : Instance) : Bool := s.instComplete i x || s.instDrained i x

/-- INSTANCE_END of instance `i`, or of the first that has nothing left. -/
def execInstanceEnd (s : State) : Out :=
  match s.arg with
  | .unit i =>
    match s.insts.find i with
    | some x => if s.instEnds i x then .next (s.endInst i x) else .next s
    | none => .next s
  | .none =>
    match s.insts.find? fun y => s.instEnds y.1 y.2 with
    | some (i, x) => .next (s.endInst i x)
    | none => .next s
  | _ => .next s

end Sys2Proof.Machine
end

