-- ==== Sys2Proof/Machine/Links.lean ====
section
/-!
DEFINITION. Deliveries into rings, and the peer links: payloads that arrive, ports that fail (07_ordering.md R207, R208;
08_sync_async.md R229, R240, R241; 11_isolation.md R343, R344).
-/

namespace Sys2Proof.Machine

/-! ## Deliveries (R229) -/

/-- A local SEND claims a slot, writes its payload, publishes the slot and ends; it waits behind the same core's earlier SENDs to
the ring, while no slot is free, and while its domain takes a checkpoint (12_recovery.md R374). -/
def State.sendLocal (s : State) (c : Cmd) (src : Region) (desig : Word) : State :=
  if !c.started || desigRemote desig || s.sendBehind c desig || (s.quiesced && s.inDomain) then s
  else
    let k := desigClus desig
    let n := desigRing desig
    match (s.ring k n).claim with
    | none => s
    | some (i, r) =>
      match s.cmdRead c (cmdPieces s c .rd src.runs) with
      | none => s.failCmd c cMEMUNC
      | some (bs, s) => ((s.updRing k n fun _ => r).fillSlot c.agent k n i bs).endCmd c

/-- The agent that makes a delivery: a Pavane, or a link's port. -/
def Delivery.agent (x : Delivery) : Nat := x.pav.elim (agPort (x.sender % 16)) agPavane

/-- An earlier payload of the same sender to the same ring is not yet published (R208). -/
def State.deliveryBehind (s : State) (x : Delivery) : Bool :=
  s.deliveries.any fun y => y.id < x.id && y.sender = x.sender && y.pav = x.pav && y.clus = x.clus && y.ring = x.ring

/-- A payload that waits is published. -/
def State.publishDelivery (s : State) (x : Delivery) : State :=
  if s.deliveryBehind x then s
  else
    match (s.ring x.clus x.ring).claim with
    | none => s
    | some (i, r) =>
      let s := ((s.updRing x.clus x.ring fun _ => r).fillSlot x.agent x.clus x.ring i x.bytes)
      let s := { s with deliveries := s.deliveries.filter (·.id != x.id) }
      match x.pav with
      | some k => s.tripleEnds k x.id
      | none => s

def State.isSend (c : Cmd) : Bool :=
  match c.kind with
  | .send _ _ => true
  | _ => false

/-- A local SEND with a number. -/
def State.deliverCmd (s : State) (i : Nat) : State :=
  match s.cmd i with
  | none => s
  | some c =>
    match c.kind with
    | .send src desig => s.sendLocal c src desig
    | _ => s

/-- RING_DELIVERY: of a SEND command by its number, of search `n` (`0`, or `1` for the claim alone), of a waiting payload
(`2`); unnamed, of the first SEND that has started. -/
def execRingDelivery (s : State) : Out :=
  match s.arg with
  | .unit i => .next (s.deliverCmd i)
  | .pair 0 n => .next (s.deliverSearch n)
  | .pair 1 n => .next (s.claimFor n)
  | .pair 2 i => .next ((s.deliveries.find? (·.id = i)).elim s s.publishDelivery)
  | .none => .next ((s.cmds.find? fun c => c.started && State.isSend c).elim s fun c => s.deliverCmd c.id)
  | _ => .next s

/-! ## Payloads from peers (R241, R344) -/

/-- A payload for a ring is accepted: the ring is valid, takes deliveries, belongs to the partition that holds the DTAG, and the
payload fits. -/
def State.takesPayload (s : State) (pl : Payload) : Bool :=
  let r := s.ring pl.clus pl.ring
  pl.clus < 32 && pl.ring < 64 && r.valid && r.dlv && (s.cluster pl.clus).part = r.part.toNat &&
  pl.dtag.isSome && (s.part r.part.toNat).dtag = pl.dtag && pl.data.length ≤ r.slotsz.toNat

/-- The partition that holds a DTAG. -/
def State.dtagPart (s : State) (dtag : Option (BitVec 16)) : Option Nat :=
  if dtag.isSome then (List.range 8).find? fun p => (s.part p).dtag = dtag else none

/-- A payload is rejected: nothing is written, and a cancel token goes back to its sender (08_sync_async.md R240, R241). -/
def State.reject (s : State) (pl : Payload) (cause : Nat) : State := { s with rejects := s.rejects ++ [⟨pl.srcDev, pl.inst, cause⟩] }

/-- A remote RED as it arrives: none when a check of its destination fails. -/
def redPayload (s : State) (pl : Payload) : Option RedIn :=
  match s.dtagPart pl.dtag with
  | none => none
  | some p =>
    match s.obj p pl.obj with
    | none => none
    | some e =>
      let n := boxBytes e.bits pl.box
      if entRight e.bits 3 && entFmt e.bits = pl.rtype && boxIn e.bits pl.pos pl.box && pl.data.length = n &&
          (!pl.ordered || pl.rank < pl.srcs) then
        let x : RedIn :=
          { who := ⟨agPort pl.port, p, none⟩, obj := BitVec.ofNat 16 pl.obj, entry := e.bits, pos := pl.pos, box := pl.box,
            ty := pl.rtype, op := pl.rop, ordered := pl.ordered, srcs := pl.srcs, rank := pl.rank, dflag := pl.dflag,
            data := pl.data, ftz := false, cmd := none }
        match locatePieces s x.who .both (boxRuns e.bits pl.pos pl.box none) with
        | .ok _ => some x
        | .error _ => none
      else none

/-- A remote contribution: rejected, held in its round, or applied; one that must wait stays with its sender, and one that meets an
uncorrectable error is not applied, its sender's instance being cancelled with MEMUNC (12_recovery.md R354). -/
def State.redArrives (s : State) (pl : Payload) : State :=
  match redPayload s pl with
  | none => s.reject pl cREMOTEREJ
  | some x =>
    if x.mixed s then s.reject pl cREDMIX
    else if x.waits s then s
    else if (s.piecesUnc (x.pieces s)).isSome then s.reject pl cMEMUNC
    else
      match x.applied s with
      | none => x.hold s
      | some cs => x.apply s cs

/-- PEER_PAYLOAD_ARRIVAL: of a payload that fails its checks nothing is written; the rejection goes back to its sender. -/
def execPeerPayloadArrival (s : State) : Out :=
  match s.arg with
  | .payload pl =>
    if !s.inDomain || !s.ports.getLsbD pl.port then .next s
    else if pl.red then .next (s.redArrives pl)
    else if s.takesPayload pl then
      let (i, s) := s.newId
      .next { s with deliveries := s.deliveries ++
        [⟨i, (s.ring pl.clus pl.ring).part.toNat, pl.clus, pl.ring, pl.data, none, none, pl.port + 16 * (pl.srcDev + 64 * pl.inst)⟩] }
    else .next (s.reject pl cREMOTEREJ)
  | _ => .next s

/-! ## Ports (R343, R344) -/

/-- A message with no route left is dropped: its command, or the pass that sent it, is cancelled with LINKDOWN. -/
def State.dropMsg (s : State) (m : LinkMsg) : State :=
  let s := { s with links := s.links.filter (·.id != m.id) }
  match m.cmd.bind s.cmd with
  | some c => s.failCmd c cLINKDOWN
  | none => ((List.range 32).foldl (fun s k => s.tripleEnds k m.id) s).raiseCancel m.inst cLINKDOWN

/-- A message of a failed port moves to another route, or is dropped. -/
def State.reroute (s : State) (port : Nat) (m : LinkMsg) : State :=
  if m.port ≠ port then s
  else
    match s.route m.dev with
    | some q => { s with links := listUpd s.links (·.id = m.id) fun m => { m with port := q } }
    | none => s.dropMsg m

/-- LINK_PORT_FAIL of a port. -/
def execLinkPortFail (s : State) : Out :=
  match s.arg with
  | .unit port =>
    let s := { s with ports := s.ports &&& ~~~(1#16 <<< port) }
    .next (s.links.foldl (fun s m => s.reroute port m) s)
  | _ => .next s

/-- FLIT_REPLAY: programs never see flits. -/
def execFlitReplay (s : State) : Out := .next s

end Sys2Proof.Machine
end

