-- ==== Sys2Proof/Machine/System.lean ====
section
/-!
DEFINITION. CSRR and CSRW, and the calls of trusted firmware: SYSC with its objects, rings, queues, mappings, partition resets,
context switches and attestation, and the writes that service firmware asks for (03_numbers.md R79 to R86; 06_streams_matrix.md
R160, R165; 08_sync_async.md R226; 09_progress_scheduling.md R263, R264, R275; 11_isolation.md R322 to R339, R346;
12_recovery.md R355, R360, R370, R372).
-/

namespace Sys2Proof.Machine

/-! ## Control registers (R355) -/

/-- Whether a CSRR of `n` must still wait: FP_STATUS for every engine (03_numbers.md R83), MX_STATE for the matrix engine. -/
def Core.csrWaits (c : Core) (n : Nat) : Bool :=
  if n = 0x011 then !c.drained
  else if n = 0x070 then (c.getEng .matrix).queue != [] || (c.getEng .matrix).inflight != []
  else false

def execCsrr (d : BitVec 6) (csr : BitVec 16) (s : State) : Out :=
  if !s.myCore.ready [d] [] || s.myCore.csrWaits csr.toNat then .next s
  else .next ((s.putReg s.me d ((csrValue s s.me csr.toNat).getD 0)).advance s.me)

/-- A write to a register of the core: fields follow their access, read-only ones keep their values (R11). -/
def Core.csrWrite (c : Core) (n : Nat) (v : Word) : Core :=
  if n = 0x011 then { c with fpstat := c.fpstat &&& ~~~(v.setWidth 8) }
  else if n = 0x060 then { c with joinTimeout := v.setWidth 32 }
  else if n = 0x080 then { c with xqWidth := v.setWidth 16, xqStride := fld v 16 24 }
  else if n = 0x0A0 then { c with hndCtl := v.setWidth 4 }
  else if n = 0x0A1 then { c with hndBase := v.setWidth 52 }
  else if n = 0x0A2 then (if c.inh then { c with skip := v.getLsbD 0 } else c)
  else if n = 0x0B8 then { c with wpHit := c.wpHit &&& ~~~(v.setWidth 4) }
  else if n = 0x0C0 then { c with traceCtl := v.setWidth 16 }
  else c

/-- TRACE_STAT: the dropped records of the core's partition on its die. -/
def State.traceStatWrite (s : State) (g : Nat) (v : Word) : State :=
  s.updDie (dieOf g) fun x =>
    { x with dropped := x.dropped.set (s.partOf g) (x.dropped.get (s.partOf g) 0 &&& ~~~(v.setWidth 32)) }

def State.csrWrite (s : State) (g n : Nat) (v : Word) : State :=
  if n = 0x0C1 then s.traceStatWrite g v else s.updCore g (·.csrWrite n v)

def execCsrw (a : BitVec 6) (csr : BitVec 16) (s : State) : Out :=
  if !s.myCore.ready [a] [] then .next s
  else .next ((s.csrWrite s.me csr.toNat (s.myCore.reg a)).advance s.me)

/-- A write that waits until every engine of the core has drained (03_numbers.md R83). -/
def drainedWrite (a : BitVec 6) (s : State) (f : Core → Word → Core) : Out :=
  if !s.myCore.ready [a] [] || !s.myCore.drained then .next s
  else .next (s.updMe fun c => (f c (c.reg a)).advance)

/-- FP_CTRL (03_numbers.md R81). -/
def Core.writeFpCtrl (c : Core) (v : Word) : Core := { c with ftz := v.getLsbD 0, nten := v.getLsbD 1 }

def execFpCtrlWrite (a : BitVec 6) (s : State) : Out := drainedWrite a s Core.writeFpCtrl

/-- STOCH_SEED: the three generators are loaded (03_numbers.md R79). -/
def Core.writeSeed (c : Core) (v : Word) : Core := ({ c with seed := v } : Core).loadGens

def execStochSeedWrite (a : BitVec 6) (s : State) : Out := drainedWrite a s Core.writeSeed

/-- CMPD_SEG and CMPD_OFS: VALID is cleared (03_numbers.md R86). -/
def Core.writeCmpd (n : Nat) (c : Core) (v : Word) : Core :=
  if n < 0x040 then { c with cmpdSeg := c.cmpdSeg.setIfInBounds (n - 0x030) (v.setWidth 40), cmpdValid := false }
  else { c with cmpdOfs := c.cmpdOfs.setIfInBounds (n - 0x040) (v.setWidth 32), cmpdValid := false }

def execCmpdTableWrite (a : BitVec 6) (csr : BitVec 16) (s : State) : Out := drainedWrite a s (Core.writeCmpd csr.toNat)

/-- CMPD_CTRL: NSEG, then the validation that ARM asks for (03_numbers.md R86). -/
def Core.writeCmpdCtrl (c : Core) (v : Word) : Core :=
  let c := { c with cmpdN := v.setWidth 4, cmpdValid := false }
  if v.getLsbD 8 then { c with cmpdValid := c.cmpd.valid, cmpdErr := !c.cmpd.valid } else c

def execCmpdArm (a : BitVec 6) (s : State) : Out := drainedWrite a s Core.writeCmpdCtrl

/-- A register that a context holds or a debugger writes takes its value with no wait. -/
def State.csrPut (s : State) (g n : Nat) (v : Word) : State :=
  if n = 0x010 then s.updCore g (·.writeFpCtrl v)
  else if n = 0x012 then s.updCore g (·.writeSeed v)
  else if n = 0x020 then s.updCore g (·.writeCmpdCtrl v)
  else if 0x030 ≤ n ∧ n ≤ 0x04F then s.updCore g fun c => Core.writeCmpd n c v
  else s.csrWrite g n v

/-! ## System calls (R370) -/

def stOK : Nat := 0
def stBADCALL : Nat := 1
def stDENIED : Nat := 2
def stBADARG : Nat := 3
def stBUSY : Nat := 4
def stNOMEM : Nat := 5
def stSIGEXHAUST : Nat := 6

/-- What a call comes to: it waits in a state, or it returns a status and perhaps a result for s2. -/
inductive SysRes where
  | stall (s : State)
  | ret (status : Nat) (res : Option Word) (s : State)

/-- A call: the core it acts for, its arguments by register number, and the state it finds. -/
abbrev SysFn := Nat → (Nat → Nat) → State → SysRes

/-- Arguments s2 to s8 of core `g`. -/
def State.sysArgs (s : State) (g r : Nat) : Nat := ((s.core g).reg (BitVec.ofNat 6 r)).toNat

/-- A core's call, the word `i`: the release, the arguments' readiness, the call, its status, the acquire. A call that has
begun and waits is in progress (R24, R350); one that still waits for its registers or in its release is not (assumption 68). -/
def sysCore (i : Instr) (f : SysFn) (s : State) : Out :=
  if !s.myCore.ready [1, 2, 3, 4, 5, 6, 7, 8] [] then .next s
  else
    releasing .dev s fun s =>
      match f s.me (s.sysArgs s.me) s with
      | .stall s => .next (s.updMe fun c => { c with wait := some (.sysc i) })
      | .ret st v s =>
        let s := (s.updMe fun c => { c with wait := none }).putReg s.me 1 (BitVec.ofNat 64 st)
        let s := match v with
          | some v => s.putReg s.me 2 v
          | none => s
        .next ((s.discardStaging s.me).advance s.me)

/-- A call of service firmware for core `g`: its status and result stand in the state; one that waits is made again. -/
def sysService (f : SysFn) (g : Nat) (a : Nat → Nat) (s : State) : Out :=
  if s.firmware = .running then
    match f g a s with
    | .stall s => .next s
    | .ret st v s => .next { s with svcStatus := BitVec.ofNat 64 st, svcResult := v.getD s.svcResult }
  else .next s

/-- A call whose caller is any (`Arg.service` for service firmware, else a core). -/
def sysCall (i : Instr) (f : SysFn) (s : State) : Out :=
  match s.arg with
  | .service g a2 a3 a4 a5 =>
    sysService f g (fun r => match r with | 2 => a2.toNat | 3 => a3.toNat | 4 => a4.toNat | 5 => a5.toNat | _ => 0) s
  | _ => sysCore i f s

/-- A task asks for what only service firmware may. -/
def taskDenied : SysFn := fun _ _ s => .ret stDENIED none s

/-- A call that only service firmware may make: a task's is denied. -/
def sysSvc (i : Instr) (f : SysFn) (s : State) : Out :=
  match s.arg with
  | .service .. => sysCall i f s
  | _ => sysCore i taskDenied s

def execSyscBadcall (n : BitVec 16) (s : State) : Out := sysCall (.syscBadcall n) (fun _ _ s => .ret stBADCALL none s) s

def execSyscVersion (s : State) : Out := sysCall .syscVersion (fun _ _ s => .ret stOK (some Config.firmwareVersion) s) s

/-- `n` bytes of a call's argument area. -/
def sysBytes (s : State) (g va n : Nat) : Option (List Byte) :=
  match resolveRange s (s.whoCore g) .rd va n with
  | .ok rs => if s.runsUnc rs then none else some (s.runsBytes rs)
  | .error _ => none

/-! ## Objects (06_streams_matrix.md R160, R165; 11_isolation.md R333, R334) -/

/-- The element width of R160. -/
def entryWidth (t : Ty) : Nat := fmtBytes t

/-- A stride field of dimension `d`, 1 to 3. -/
def rawStride (e : BitVec 512) (d : Nat) : Int := (fld e (128 + 64 * d) 48).toInt

/-- The conditions of R160 on dimension `d`. -/
def dimOk (e : BitVec 512) (d : Nat) : Bool :=
  entLv e d != 6 &&
  (if d < entDims e then entExtField e d != 0
   else entExtField e d = 0 && (d = 0 || rawStride e d = 0) && entLv e d = 7 && entStep e d = 0)

/-- R160, and R333 for an entry that grants the search right. -/
def entryOk (e : BitVec 512) : Bool :=
  let w : Int := entryWidth (entFmt e)
  fld e 52 12 = 0 && fld e 92 36 = 0 && fld e 240 16 = 0 && fld e 304 16 = 0 && fld e 368 16 = 0 && fld e 448 64 = 0 &&
  (List.range 4).all (dimOk e) &&
  (if entFmt e = .mx4 then entExtField e 0 % 32 = 0 && 17 ≤ entBstr e else entBstr e = 0) &&
  (entBase e : Int) % w = 0 && rawStride e 1 % w = 0 && rawStride e 2 % w = 0 && rawStride e 3 % w = 0 &&
  (!entCmpd e || entFmt e = .bf16 || entFmt e = .f16 || entFmt e = .f8a || entFmt e = .f8b || entFmt e = .mx4) &&
  (!entRight e 4 || !(entRight e 0 || entRight e 1 || entRight e 2 || entRight e 3))

/-- The entry as trusted firmware installs it for partition `p`: VALID and PART set. -/
def entInstalled (e : BitVec 512) (p : Nat) : BitVec 512 :=
  (e &&& ~~~((0xF : BitVec 512) <<< 69)) ||| (BitVec.ofNat 512 (1 + 2 * (p % 8)) <<< 69)

/-- Whether a queued word captured entry `i`. -/
def QEntry.captured (h : QEntry) (i : Nat) : Bool :=
  (h.sa.bound && h.sa.index.toNat = i) || (h.sb.bound && h.sb.index.toNat = i)

def Region.names (r : Region) (i : Nat) : Bool := r.obj.toNat = i

def CmdKind.names (k : CmdKind) (i : Nat) : Bool :=
  match k with
  | .copy a b | .transpose a b | .gather a b _ | .reduce a b _ _ _ _ => a.names i || (!b.remote && b.names i)
  | .send a _ => a.names i
  | .xlat _ _ | .combine _ _ _ _ _ _ => false

/-- Whether anything of partition `p` still uses entry `i`: a queued engine word, a command, a round, a search, a KVBIND, a
pass. -/
def State.objUsed (s : State) (p i : Nat) : Bool :=
  s.cores.any (fun (g, c) => s.partOf g = p && c.engs.any fun e => e.queue.any (·.captured i)) ||
  s.cmds.any (fun c => c.part = p && c.kind.names i) || s.rounds.any (fun r => r.part = p && r.obj.toNat = i) ||
  s.searches.any (fun x => x.2.part = p && x.2.objs.contains i) || s.binds.any (fun b => b.part = p && b.objs.contains i) ||
  (List.range 32).any fun k => (s.passOf k).elim false fun x => x.part = p && x.objs.contains i

/-- Stream registers bound to entry `i` become unbound. -/
def Core.unbind (c : Core) (i : Nat) : Core :=
  { c with q := c.q.map fun x => if x.bound && x.index.toNat = i then { x with bound := false } else x }

/-- Whether a saved context is of partition `p`. -/
def State.savedOf (s : State) (p tn : Nat) : Bool := (s.tasks.find tn).elim false fun t => t.part = p

/-- Every stream register of partition `p` that is bound to `i`, saved contexts included, becomes unbound. -/
def State.unbindAll (s : State) (p i : Nat) : State :=
  { s with
    cores := s.cores.map fun (g, c) => (g, if s.partOf g = p then c.unbind i else c)
    saved := s.saved.map fun (tn, x) =>
      (tn, if s.savedOf p tn then { x with cores := x.cores.map fun (g, c) => (g, c.unbind i) } else x) }

/-- An entry of the object table is written or removed. -/
def State.setObj (s : State) (p i : Nat) (e : Option ObjEntry) : State :=
  (s.updPart p fun x => { x with objs := match e with
    | some e => x.objs.set i e
    | none => x.objs.del i }).unbindAll p i

/-- The image of OBJSET: 64 bytes in the caller's own near scratch. -/
def objImage (s : State) (g va : Nat) : Option (BitVec 512) :=
  if ownNear ≤ va && va + 64 ≤ ownNear + nearSize then (sysBytes s g va 64).map granOf else none

def objsetCall : SysFn := fun g a s =>
  let p := s.partOf g
  let i := a 2
  match objImage s g (a 3) with
  | none => .ret stBADARG none s
  | some e =>
    if 65536 ≤ i || !entryOk e then .ret stBADARG none s
    else if s.objUsed p i then .stall s
    else
      let old := (s.part p).objs.find i
      .ret stOK none (s.setObj p i (some ⟨entInstalled e p, old.elim 0 (·.ns), old.elim 0 (·.store), old.elim 0 (·.guard)⟩))

def execSyscObjset (s : State) : Out := sysCall .syscObjset objsetCall s

def objdelCall : SysFn := fun g a s =>
  let p := s.partOf g
  let i := a 2
  match (s.part p).objs.find i with
  | none => .ret stBADARG none s
  | some _ => if s.objUsed p i then .stall s else .ret stOK none (s.setObj p i none)

def execSyscObjdel (s : State) : Out := sysCall .syscObjdel objdelCall s

/-! ## Rings (08_sync_async.md R226) -/

/-- The conditions of R226 on descriptor words 0x00 and 0x08 for a ring of cluster `k` of partition `p`. -/
def ringImageOk (s : State) (p k : Nat) (w0 w1 : Word) : Bool :=
  let base := wfld w0 0 52
  let sz := wfld w1 0 16
  let n := wfld w1 16 11
  wfld w0 52 12 = 0 && wfld w1 27 5 = 0 && wfld w1 37 27 = 0 && base % 64 = 0 && sz % 64 = 0 && 64 ≤ sz && sz ≤ 32768 &&
  1 ≤ n && n ≤ 1024 && ownClus ≤ base &&
  (match resolve s ⟨agHost, p, some (16 * k)⟩ .rd base (n * sz) with
   | .ok _ => true
   | .error _ => false)

/-- The descriptor installed: the four counts are 0. -/
def newRing (p : Nat) (w0 w1 : Word) : Ring :=
  { Ring.reset with
    base := w0.setWidth 52, slotsz := w1.setWidth 16, count := fld w1 16 11, valid := true, part := BitVec.ofNat 3 p, dlv := w1.getLsbD 36 }

/-- Installation: BADARG for a defect, BUSY over a ring whose CLAIMED differs from its HEAD. -/
def State.installRing (s : State) (p k n : Nat) (w0 w1 : Word) : Nat × State :=
  if !ringImageOk s p k w0 w1 then (stBADARG, s)
  else if (s.ring k n).claimed != (s.ring k n).head then (stBUSY, s)
  else (stOK, s.updCluster k fun x => { x with rings := x.rings.set n (newRing p w0 w1) })

def ringsetCall : SysFn := fun g a s =>
  let p := s.partOf g
  let sel := a 2
  let n := a 3
  let k := if sel = 0 then clusOf g else sel - 1
  if 32 < sel || 64 ≤ n then .ret stBADARG none s
  else if (s.cluster k).part != p then .ret stDENIED none s
  else
    match sysBytes s g (a 4) 16 with
    | none => .ret stBADARG none s
    | some bs =>
      let (st, s) := s.installRing p k n (dwordAt bs 0) (dwordAt bs 8)
      .ret st none s

def execSyscRingset (s : State) : Out := sysCall .syscRingset ringsetCall s

/-! ## Expert queues (09_progress_scheduling.md R275) -/

/-- The conditions of R275 on a configuration, its bound tile-task record validated under R22; no graph limits its successors. -/
def xqConfigOk (s : State) (p : Nat) (x : BitVec 128) : Bool :=
  let fill := (fld x 0 13).toNat
  let batch := (fld x 13 10).toNat
  let va := (fld x 64 52).toNat
  fld x 31 1 = 0 && fld x 116 12 = 0 && 1 ≤ fill && fill ≤ 4096 && 1 ≤ batch && batch ≤ 512 && va % 64 = 0 &&
  (match readRecord s ⟨agGalliard (fld x 25 2).toNat, p, none⟩ va 65536 with
   | .ok (r, _) => recKind r = 0
   | .error _ => false)

/-- The queue installed: empty, VALID and PART set. -/
def xqOf (p : Nat) (x : BitVec 128) : XQueue :=
  { cfg := (x &&& ~~~((0xF : BitVec 128) <<< 27)) ||| (BitVec.ofNat 128 (p % 8 + 8) <<< 27), descs := [], near := 0
    firedAt := none, fillSince := none }

def State.installXq (s : State) (p n : Nat) (x : BitVec 128) : Nat × State :=
  if !xqConfigOk s p x then (stBADARG, s)
  else if (s.xq p n).elim false (fun q => q.descs != []) then (stBUSY, s)
  else (stOK, s.setXq p n (xqOf p x))

def xqsetCall : SysFn := fun g a s =>
  let p := s.partOf g
  let n := a 2
  if 1024 ≤ n then .ret stBADARG none s
  else
    match sysBytes s g (a 3) 16 with
    | none => .ret stBADARG none s
    | some bs =>
      let (st, s) := s.installXq p n (BitVec.ofNat 128 (bytesNat bs))
      .ret st none s

def execSyscXqset (s : State) : Out := sysCall .syscXqset xqsetCall s

/-! ## Mappings (11_isolation.md R327 to R332) -/

/-- Level of the leaves of a page of size code `z`, and how many leaves join into one page. -/
def sizeLevel (z : Nat) : Nat × Nat :=
  match z with
  | 0 => (3, 1)
  | 1 => (3, 16)
  | 2 => (2, 1)
  | 3 => (2, 32)
  | _ => (1, 1)

def pageSize (z : Nat) : Nat := leafSize (sizeLevel z).1 * (sizeLevel z).2

/-- The LPDDR that the page-table tree occupies: the level-0 table, and the table that each entry above a leaf names (R328, R329). -/
def Partition.tables (p : Partition) : List PageMap :=
  p.root.toList.map (fun a => ⟨0, 65536, a, 0⟩) ++
  p.pages.filterMap fun x =>
    if pteV x.2 && !pteLeaf x.2 && x.1 / 0x10000000000000 < 3 then some ⟨0, 4096, pteAddr x.2, 0⟩ else none

/-- Whether two ranges overlap. -/
def PageMap.meets (m : PageMap) (va n : Nat) : Bool := m.va < va + n && va < m.va + m.size

/-- A leaf (R329). -/
def leafEntry (pa : Nat) (rights : Nat) (cont : Bool) : Word := BitVec.ofNat 64 (pa + 3 + 4 * rights + 16 * bit cont)

/-- Every entry at or below level `l` that covers a byte of the range is removed. -/
def clearRange (pages : Tab (BitVec 64)) (l va n : Nat) : Tab (BitVec 64) :=
  pages.filter fun (k, _) =>
    let j := k / 0x10000000000000
    let a := k % 0x10000000000000 * leafSize j
    !(l ≤ j && va ≤ a && a < va + n)

/-- The leaves of one page of size code `z` at `va`. -/
def mapPage (pages : Tab (BitVec 64)) (z va pa rights : Nat) : Tab (BitVec 64) :=
  let (l, n) := sizeLevel z
  (List.range n).foldl
    (fun t i => t.set (pteKey l (va + i * leafSize l)) (leafEntry (pa + i * leafSize l) rights (n != 1))) pages

/-- LPDDR in use: pages that a partition maps or has unmapped in a change that still waits, and the page tables (R328, R332). -/
def State.usedPages (s : State) : List PageMap :=
  (s.parts.map fun x => x.2.mapped ++ x.2.remap.elim [] (·.old) ++ x.2.tables).flatten

def roundUp (a n : Nat) : Nat := (a + n - 1) / n * n

/-- Whether `n` bytes at physical address `a` are LPDDR that nobody maps (R327). -/
def freeAt (used : List PageMap) (n a : Nat) : Bool :=
  a / 0x8000000000 < 4 && a % 0x8000000000 + n ≤ 0x4800000000 && !used.any fun m => m.pa < a + n && a < m.pa + m.size

/-- A free physical page of `n` bytes: where the firmware looks first, else the lowest place after a die's start or a page in
use; none when no such page is free. -/
def findPage (used : List PageMap) (first n : Nat) : Option Nat :=
  ((first :: [0, 0x8000000000, 0x10000000000, 0x18000000000] ++ used.map fun m => m.pa + m.size).map fun a => roundUp a n).find?
    (freeAt used n)

/-- The tables above level `l` on the way to `va` are there: each one that is missing takes a free 4 KiB of LPDDR, which its entry names
(R328, R329). Answers the entries and the LPDDR then in use. -/
def openTables (va : Nat) (pages : Tab (BitVec 64)) (used : List PageMap) : Nat → Option (Tab (BitVec 64) × List PageMap)
  | 0 => some (pages, used)
  | l + 1 =>
    match openTables va pages used l with
    | none => none
    | some (t, used) =>
      if pteV (t.get (pteKey l va) 0) then some (t, used)
      else (findPage used (Config.freePage used.length 0) 4096).map fun pa => (t.set (pteKey l va) (BitVec.ofNat 64 (pa + 1)), ⟨0, 4096, pa, 0⟩ :: used)

/-- The physical page of `va`: a page mapped already in this size keeps its own, any other takes a free one. -/
def choosePage (z va : Nat) (used old : List PageMap) : Option PageMap :=
  match old.find? fun m => m.va = va && m.size = pageSize z && m.lv = (sizeLevel z).1 with
  | some m => some m
  | none => (findPage used (Config.freePage used.length z) (pageSize z)).map fun pa => ⟨va, pageSize z, pa, (sizeLevel z).1⟩

/-- The pages of a call, one by one. Answers the tables and the new pages; none when LPDDR runs out. -/
def mapPages (z rights : Nat) (used old : List PageMap) (pages : Tab (BitVec 64)) : List Nat → Option (Tab (BitVec 64) × List PageMap)
  | [] => some (pages, [])
  | va :: vs =>
    match choosePage z va used old with
    | none => none
    | some m =>
      match openTables va (clearRange pages (sizeLevel z).1 va (pageSize z)) (m :: used) (sizeLevel z).1 with
      | none => none
      | some (t, used) =>
        match mapPages z rights used old (mapPage t z va m.pa rights) vs with
        | none => none
        | some (t, ms) => some (t, if old.contains m then ms else m :: ms)

/-- Where the level-0 table of partition `p` lies, or takes a free 64 KiB (R328). -/
def State.rootOf (s : State) (p : Nat) : Option Nat :=
  match (s.part p).root with
  | some a => some a
  | none => findPage s.usedPages (Config.freePage s.usedPages.length 1) 65536

/-- Storage of a physical range becomes 0. -/
def State.zeroPages (s : State) (ms : List PageMap) : State :=
  let inside (a : Nat) : Bool := ms.any fun m => physBase + m.pa ≤ a && a < physBase + m.pa + m.size
  { s with mem := s.mem.filter fun c => !inside c.1, memunc := s.memunc.filter fun a => !inside a }

/-- TLB entries of partition `p` that cover a byte of the range are invalidated on every die. -/
def State.dropTlb (s : State) (p va n : Nat) : State :=
  (List.range 4).foldl (fun s d => s.updDie d fun x => { x with tlb := x.tlb.filter fun e => !(e.1 = p && e.2.1 < va + n && va < e.2.1 + e.2.2) }) s

/-- Whether a run of locations reaches one of the pages. -/
def touchesPages (ms : List PageMap) (loc n : Nat) : Bool := ms.any fun m => overlaps loc n (physBase + m.pa) m.size

/-- Whether a range of addresses reaches one of the pages. -/
def rangeMeets (ms : List PageMap) (va n : Nat) : Bool := ms.any fun m => m.meets va n

/-- The address ranges of a command. -/
def CmdKind.ranges (k : CmdKind) : List (Nat × Nat) :=
  match k with
  | .copy a b => a.runs ++ b.runs
  | .transpose a b => a.runs ++ transRuns b.entry b.pos b.box
  | .gather a b is => boxRuns a.entry a.pos a.box (some is) ++ b.runs
  | .reduce a b _ _ _ _ => a.runs ++ (if b.remote then [] else b.runs)
  | .send a _ => a.runs
  | .xlat va n => [(va, n)]
  | .combine ty row dst k stride width => (row - 8, 8) :: (dst, width * (ty.bits / 8)) ::
    (List.range k).map fun j => (row + (j + 1) * stride, width * (ty.bits / 8))

/-- Whether core `c` of the partition still holds an access that went through one of the pages. -/
def Core.usesPages (c : Core) (ms : List PageMap) : Bool :=
  c.engs.any (fun e => e.inflight != []) || c.smb.any (fun e => touchesPages ms (64 * e.gran) 64) ||
  c.out.any fun o => match o with
    | .store loc bs _ => touchesPages ms loc bs.length
    | _ => false

/-- Whether anything of partition `p` that began under number `r.since` or below still goes through the pages of the old mapping. -/
def State.pagesUsed (s : State) (p : Nat) (r : Remap) : Bool :=
  r.old != [] &&
  (s.cores.any (fun (g, c) => s.partOf g = p && c.usesPages r.old) ||
   s.cmds.any (fun c => c.part = p && c.id ≤ r.since && (c.kind.ranges ++ c.reads).any fun x => rangeMeets r.old x.1 x.2) ||
   s.rounds.any (fun x => x.part = p && x.held.any (fun c => c.cmd.elim true (· ≤ r.since)) &&
     (boxRuns x.entry x.pos x.box none).any fun y => rangeMeets r.old y.1 y.2) ||
   s.searches.any (fun (i, x) => x.part = p && i ≤ r.since && x.touched.any fun y => rangeMeets r.old y.1 y.2) ||
   s.binds.any (fun b => b.part = p && b.id ≤ r.since) ||
   (List.range 32).any fun k => (s.passOf k).elim false fun x => x.part = p && x.id ≤ r.since)

/-- Who makes a call: the core, or 512 and the core for which service firmware calls. -/
def State.caller (s : State) (g : Nat) : Nat :=
  match s.arg with
  | .service .. => 512 + g
  | _ => g

/-- A WAITA whose word lies in one of the pages returns, as R218 allows, before the page is used again. -/
def State.freeMonitors (s : State) (ms : List PageMap) (g : Nat) : State :=
  (List.range 4).foldl (fun s m =>
    match (s.core g).monitors.toArray.getD m none with
    | some x =>
      if touchesPages ms x.loc 8 then (if (s.core g).wait = some (.waita m) then s.interruptWait g else s.monReturn g m) else s
    | none => s) s

/-- Whether a unit of exposed LPDDR is backed by a page of the partition (R341). -/
def Partition.backs (p : Partition) (page : Nat) : Bool :=
  p.mapped.any fun m => m.pa ≤ page * 0x40000000 && page * 0x40000000 + 0x40000000 ≤ m.pa + m.size

/-- The exposed units that pages of the partition back. -/
def Partition.exposed (p : Partition) : Tab Nat := p.hdm.filter fun u => p.backs u.2

/-- Steps 3 and 4 of R332: the call waits for the users of the old mapping, then the monitors and the exposed units that reach its pages
are let go, and it returns. -/
def State.remapWait (s : State) (p caller : Nat) (r : Remap) : SysRes :=
  if r.caller ≠ caller || s.pagesUsed p r then .stall s
  else
    let s := s.cores.foldl (fun s x => if s.partOf x.1 = p then s.freeMonitors r.old x.1 else s) s
    .ret stOK r.res (s.updPart p fun x => { x with remap := none, hdm := if r.old = [] then x.hdm else x.exposed })

/-- Steps 1 and 2 of R332: the entries become `t`, the new pages are 0, the TLB entries of the range go; then the call waits. -/
def State.remapBegin (s : State) (p caller : Nat) (t : Tab (BitVec 64)) (root : Option Nat) (ms old : List PageMap) (va n : Nat) (res : Option Word) :
    SysRes :=
  let r : Remap := ⟨caller, old, (s.part p).pages, s.nextId, res⟩
  let s := (({ s with nextId := s.nextId + 1 }.updPart p fun x => { x with pages := t, root := root, remap := some r }).zeroPages ms).dropTlb p va n
  s.remapWait p caller r

def mapCall : SysFn := fun g a s =>
  let p := s.partOf g
  let va := a 2
  let z := a 4
  let rights := a 5
  match (s.part p).remap with
  | some r => s.remapWait p (s.caller g) r
  | none =>
    if 4 < z || 4 ≤ rights || va % pageSize z ≠ 0 || a 3 = 0 then .ret stBADARG none s
    else
      let n := roundUp (a 3) (pageSize z)
      let old := (s.part p).mapped.filter fun m => m.meets va n
      if winBase < va + n || old.any (fun m => pageSize z < m.size) then .ret stBADARG none s
      else
        match s.rootOf p with
        | none => .ret stNOMEM none s
        | some root =>
          match mapPages z rights (⟨0, 65536, root, 0⟩ :: s.usedPages) old (s.part p).pages
              ((List.range (n / pageSize z)).map fun i => va + i * pageSize z) with
          | none => .ret stNOMEM none s
          | some (t, ms) => s.remapBegin p (s.caller g) t (some root) ms old va n (some (BitVec.ofNat 64 n))

def execSyscMap (s : State) : Out := sysCall .syscMap mapCall s

def unmapCall : SysFn := fun g a s =>
  let p := s.partOf g
  let va := a 2
  let n := a 3
  match (s.part p).remap with
  | some r => s.remapWait p (s.caller g) r
  | none =>
    let old := (s.part p).mapped.filter fun m => m.meets va n
    if va % 4096 ≠ 0 || n % 4096 ≠ 0 || n = 0 || winBase < va + n || old.any (fun m => m.va < va || va + n < m.va + m.size) then
      .ret stBADARG none s
    else
      let t := old.foldl (fun t m => clearRange t m.lv m.va m.size) (s.part p).pages
      s.remapBegin p (s.caller g) t (s.part p).root [] old va n none

def execSyscUnmap (s : State) : Out := sysCall .syscUnmap unmapCall s

/-! ## PREEMPT, POWER, CKPT (09_progress_scheduling.md R263; 11_isolation.md R346; 12_recovery.md R372) -/

/-- The running task of node `n` of instance `i`. -/
def State.taskNamed (s : State) (i n : Nat) : Option Nat :=
  (s.tasks.find? fun x => x.2.inst = i && x.2.node = n && x.2.cores.any fun g => (s.core g).task = some x.1).map (·.1)

def preemptCall : SysFn := fun _ a s =>
  match s.taskNamed (a 2) (a 3) with
  | some tn => .ret stOK none (s.requestPreempt tn)
  | none => .ret stBADARG none s

def execSyscPreempt (s : State) : Out := sysSvc .syscPreempt preemptCall s

def powerCall : SysFn := fun _ a s =>
  if 2 < a 2 then .ret stBADARG none s
  else .ret stOK none ((List.range 32).foldl State.adoptIdle { s with powerReq := BitVec.ofNat 2 (a 2) })

def execSyscPower (s : State) : Out := sysSvc .syscPower powerCall s

/-- A checkpoint of epoch `e` begins: no packet is read, no queue fires, and every tile task is asked to stop. -/
def State.beginCheckpoint (s : State) (e : Nat) : State :=
  s.tasks.foldl (fun s t => s.requestPreempt t.1) { s with ckpt := some e, quiesced := true }

/-- The epoch after the newest image. -/
def State.nextEpoch (s : State) : Nat := (s.images.foldl (fun e x => max e x.epoch) 0) + 1

def ckptCall : SysFn := fun _ _ s =>
  if s.ckpt.isSome then .ret stBUSY none s else .ret stOK none (s.beginCheckpoint s.nextEpoch)

def execSyscCkpt (s : State) : Out := sysSvc .syscCkpt ckptCall s

/-! ## Clusters between partitions (11_isolation.md R324; 12_recovery.md R360) -/

/-- Key of a byte of a partition's baseline image. -/
def baseKey (p loc : Nat) : Nat := p * 2 ^ 60 + loc

/-- Whether a location is in the near or cluster scratch of cluster `k`. -/
def inCluster (k loc : Nat) : Bool :=
  (nearLoc (16 * k) ≤ loc && loc < nearLoc (16 * k + 16)) || (clusLoc k ≤ loc && loc < clusLoc k + clusSize)

/-- The near and cluster scratch of cluster `k`, as runs of locations. -/
def clusRuns (k : Nat) : List (Nat × Nat) := [(nearLoc (16 * k), 16 * nearSize), (clusLoc k, clusSize)]

/-- Whether something that acts on storage by its location still names the runs: a ring with slots there, a KVBIND whose passage slots
lie there, an armed monitor. `other` says which clusters' rings and monitors count (R226, R322; assumption 67). -/
def State.storageHeld (s : State) (other : Nat → Bool) (runs : List (Nat × Nat)) : Bool :=
  let meets (loc n : Nat) : Bool := runs.any fun x => overlaps loc n x.1 x.2
  s.clusters.any (fun x => other x.1 && x.2.rings.any fun r => r.2.valid && meets (r.2.slotLoc x.1 0) (r.2.count.toNat * r.2.slotsz.toNat)) ||
  s.binds.any (fun b => meets b.slotLoc (8 * b.nblk)) ||
  s.cores.any fun x => other (clusOf x.1) && x.2.monitors.toList.any fun m => m.elim false fun m => meets m.loc 8

/-- Whether a core waits for a flag or a ring of cluster `k`. -/
def Core.waitsOn (c : Core) (k : Nat) : Bool :=
  match c.wait with
  | some (.fwait false h ..) | some (.rclm h ..) | some (.rwf h ..) => h = k
  | _ => false

/-- The cluster stands idle: no task, pass, request or command of its own, nothing on its way that signals its flags or fills its
rings, no core that waits for one of them, and nothing elsewhere that names its scratch (R322, R324; assumption 67). -/
def State.clusIdle (s : State) (k : Nat) : Bool :=
  (coresOf k).all s.coreIdle && (s.passOf k).isNone && (s.cluster k).pav.reqs = [] &&
  !s.cmds.any (fun c => (!c.die && c.engine / 2 = k) || c.kind.sendsTo k) && !s.deliveries.any (·.clus = k) && !s.appends.any (·.clus = k) &&
  !s.binds.any (fun b => clusOf b.core = k) &&
  !s.searches.any (fun x => x.2.ringClus = k || (!x.2.flagDie && x.2.flagHome = k)) &&
  !s.cores.any (·.2.waitsOn k) && !s.storageHeld (· != k) (clusRuns k)

/-- Whether a core's store-merge buffer or an outstanding strong store reaches storage. -/
def Core.storesTo (c : Core) (inside : Nat → Bool) : Bool :=
  c.smb.any (fun e => inside (64 * e.gran)) || c.out.any fun o => match o with
    | .store loc _ _ => inside loc
    | _ => false

/-- Stores that still wait for storage that is about to change hands perform first (R324). -/
def State.drainInto (s : State) (inside : Nat → Bool) : State :=
  s.cores.foldl (fun s x => if (s.core x.1).storesTo inside then (s.settleAll x.1 16).drainAll x.1 else s) s

/-- The scratch of cluster `k` with nothing on its way to it. -/
def State.settleCluster (s : State) (k : Nat) : State := s.drainInto (inCluster k)

/-- Key of a switched-out cluster. -/
def swapKey (p k : Nat) : Nat := 32 * p + k

/-- Whether a dirty-region number belongs to cluster `k`. -/
def regionIn (k r : Nat) : Bool := inCluster k (4096 * r)

/-- The dirty regions of cluster `k` for its partition. -/
def State.swapOut (s : State) (k : Nat) : State :=
  let ds := s.dirty.filter (regionIn k)
  let x : Saved :=
    { cores := [], clus := k, scratch := s.mem.filter fun c => ds.contains (c.1 / 4096), dirty := ds
      unc := s.memunc.filter fun a => ds.contains (a / 4096) }
  { s with swapped := s.swapped.set (swapKey (s.cluster k).part k) x }

/-- The scratch of cluster `k` becomes 0, its cores and control space take their reset values. -/
def State.wipeCluster (s : State) (k : Nat) : State :=
  let s := { s with
    mem := s.mem.filter fun c => !inCluster k c.1
    memunc := s.memunc.filter fun a => !inCluster k a
    dirty := s.dirty.filter fun r => !regionIn k r }
  let s := (coresOf k).foldl (fun s g => s.setCore g (.reset g)) s
  s.updCluster k fun x => { Cluster.reset with part := x.part, mode := x.mode }

/-- The bytes of a baseline in the cells that `f` accepts. -/
def State.baseCells (s : State) (p : Nat) (f : Nat → Bool) : List Host.Cell :=
  s.baseline.filterMap fun c => if c.1 / 2 ^ 60 = p && f (c.1 % 2 ^ 60) then some (c.1 % 2 ^ 60, c.2) else none

/-- Cells are written over storage. -/
def putCells (m : Memory) (cs : List Host.Cell) : Memory := cs.foldl (fun m c => memPut m c.1 c.2) m

/-- Restore writes the baseline, and then the saved regions over it. -/
def State.restoreScratch (s : State) (p : Nat) (x : Saved) (f : Nat → Bool) : State :=
  let base := (s.baseCells p f).filter fun c => !x.dirty.contains (c.1 / 4096)
  { s with
    mem := putCells (putCells (s.mem.filter fun c => !f c.1) base) x.scratch
    memunc := (s.memunc.filter fun a => !f a) ++ x.unc.filter (· < hostBase)
    dirty := (s.dirty.filter fun r => !f (4096 * r)) ++ x.dirty }

/-- A cluster that comes back to a partition finds its scratch again. -/
def State.swapIn (s : State) (p k : Nat) : State :=
  match s.swapped.find (swapKey p k) with
  | some x => { s.restoreScratch p x (inCluster k) with swapped := s.swapped.del (swapKey p k) }
  | none => s

/-- SWITCH: cluster `k` moves to partition `p`. -/
def State.switchCluster (s : State) (k p : Nat) : State :=
  let s := ((s.settleCluster k).swapOut k).wipeCluster k
  (s.updCluster k fun x => { x with part := p }).swapIn p k

def switchCall : SysFn := fun _ a s =>
  if 32 ≤ a 2 || 8 ≤ a 3 then .ret stBADARG none s
  else if !s.clusIdle (a 2) then .ret stBUSY none s
  else if (s.cluster (a 2)).part = a 3 then .ret stOK none s
  else .ret stOK none (s.switchCluster (a 2) (a 3))

def execSyscSwitch (s : State) : Out := sysSvc .syscSwitch switchCall s

/-! ## Partition reset (11_isolation.md R325) -/

/-- A core of a partition that is reset stops at once with the values of reset; its task goes on to its completion. -/
def Core.preset (c : Core) (g : Nat) : Core :=
  { Core.reset g with task := c.task, rank := c.rank, phase := if c.task.isSome then .ended else .idle }

/-- The work of partition `p` is dropped at every engine and controller. -/
def State.dropWork (s : State) (p : Nat) : State :=
  let s := (s.cmds.filter fun c => c.part = p).foldl State.dropCmd s
  let s := (s.searches.filter fun x => x.2.part = p).foldl
    (fun s x => { s with searches := s.searches.del x.1 }.nodeEnds x.2.inst x.2.node false) s
  let s := (List.range 32).foldl (fun s k =>
    match s.passOf k with
    | some x => if x.part = p then (s.passOver k).nodeEnds x.inst x.node false else s
    | none => s) s
  { s with
    binds := s.binds.filter fun b => b.part != p
    deliveries := s.deliveries.filter fun x => x.part != p
    rounds := s.rounds.filter fun r => r.part != p
    appends := s.appends.filter fun a => a.part != p }

/-- The clusters of partition `p`: cores, flags, rings, barriers and Pavane take their reset values; scratch is kept. -/
def State.presetClusters (s : State) (p : Nat) : State :=
  (List.range 32).foldl (fun s k =>
    if (s.cluster k).part = p then
      ((coresOf k).foldl (fun s g => s.updCore g (·.preset g)) s).updCluster k fun x =>
        { Cluster.reset with part := x.part, mode := x.mode }
    else s) s

/-- The partition's own set of die flags, its TLB entries and its count of dropped records, on every die. -/
def State.presetDies (s : State) (p : Nat) : State :=
  (List.range 4).foldl (fun s d => s.updDie d fun x =>
    { x with flags := x.flags.filter fun f => f.1 / 4096 != p, tlb := x.tlb.filter fun e => e.1 != p, dropped := x.dropped.set p 0 }) s

/-- A ring member that is reset in the middle of a revolution fails: its instance is cancelled with RINGFAIL (10_retrieval_attention.md
R320). -/
def State.failMembers (s : State) (p : Nat) : State :=
  (List.range 32).foldl (fun s k =>
    match s.passOf k with
    | some x => if x.part = p && x.ring then s.raiseCancel x.inst cRINGFAIL else s
    | none => s) s

/-- The command processor of a partition that is reset: its registers take their reset values, and it serves on at the current HEAD
(09_progress_scheduling.md R250, R252; 12_recovery.md R366). -/
def CmdQ.preset (q : CmdQ) : CmdQ :=
  { CmdQ.reset with slots := q.slots, tail := q.tail, head := q.head, en := q.en, launched := q.launched }

/-- A partition reset: steps 1 to 3 of R325. A change of the mapping in progress loses its caller, so the units that its pages backed
are let go here (R341). -/
def State.partitionReset (s : State) (p : Nat) : State :=
  let s := s.failMembers p
  let s := (s.insts.filter fun x => x.2.part = p).foldl (fun s x => s.raiseCancel x.1 cPARTRESET) s
  let s := ((s.dropWork p).presetClusters p).presetDies p
  s.updPart p fun x => { x with
    xqs := [], resetting := true, remap := none, hdm := x.exposed, cmdq := x.cmdq.preset }

def presetCall : SysFn := fun _ a s =>
  if 8 ≤ a 2 then .ret stBADARG none s else .ret stOK none (s.partitionReset (a 2))

def execSyscPreset (s : State) : Out := sysSvc .syscPreset presetCall s

/-! ## Attestation (11_isolation.md R338, R339) -/

/-- The partition assignment as bytes: the partition of each cluster, then of each die-scratch granule. -/
def State.assignment (s : State) : List Byte :=
  ((List.range 32).map fun k => BitVec.ofNat 8 (s.cluster k).part) ++
  ((List.range 4).map fun d => (List.range 256).map fun i => BitVec.ofNat 8 (s.granuleOwner d i)).flatten

def digestBytes : List Byte := (List.range 32).map Config.firmwareDigestByte

def State.report339 (s : State) (nonce : List Byte) : List Byte :=
  (List.range Config.reportSize).map (Config.reportByte digestBytes s.assignment nonce s.sigNext)

def attestCall : SysFn := fun g a s =>
  if 1048576 ≤ s.sigNext then .ret stSIGEXHAUST none s
  else
    match sysBytes s g (a 2) 32, resolveRange s (s.whoCore g) .wr (a 3) Config.reportSize with
    | some nonce, .ok rs => .ret stOK none ({ s with sigNext := s.sigNext + 1 }.runsWrite g rs (s.report339 nonce))
    | _, _ => .ret stBADARG none s

def execSyscAttest (s : State) : Out := sysCall .syscAttest attestCall s

/-! ## Writes on request of service firmware (09_progress_scheduling.md R264; 11_isolation.md R326) -/

/-- GALLIARD_CTL_WRITE of `v` to die `d`. -/
def execGalliardCtlWrite (s : State) : Out :=
  match s.arg with
  | .word d _ v => if d < 4 && s.firmware = .running then .next (s.updDie d fun x => { x with age := v.setWidth 32, xchg := fld v 32 16 }) else .next s
  | _ => .next s

/-- The locations of granule `i` of die `d` (R326). -/
def granuleRun (d i : Nat) : Nat × Nat := (dieLoc d + i * 0x100000, 0x100000)

/-- DIE_SCRATCH_GRANT of granule `i` of die `d` to partition `p`: a granule that changes partition becomes 0 first; the firmware
grants none that something still names (assumption 67). -/
def execDieScratchGrant (s : State) : Out :=
  match s.arg with
  | .node d i p =>
    if s.firmware = .loader || 4 ≤ d || 256 ≤ i || 8 ≤ p || s.granuleOwner d i = p ||
        s.storageHeld (fun _ => true) [granuleRun d i] then .next s
    else
      let inside (a : Nat) : Bool := (granuleRun d i).1 ≤ a && a < (granuleRun d i).1 + (granuleRun d i).2
      let s := s.drainInto inside
      .next { s with
        mem := s.mem.filter fun c => !inside c.1
        memunc := s.memunc.filter fun a => !inside a
        granules := s.granules.set (256 * d + i) p }
  | _ => .next s

end Sys2Proof.Machine
end

