-- ==== Sys2Proof/Machine/Debug.lean ====
section
/-!
DEFINITION. HRET, DBRK, TRMARK, watchpoints, debug sessions and halts, pre-emption's stop, save and resumption (03_numbers.md R79;
06_streams_matrix.md R175; 09_progress_scheduling.md R272; 12_recovery.md R349 to R368).
-/

namespace Sys2Proof.Machine

/-! ## HRET, DBRK, TRMARK (R351, R365, R368) -/

def execHret (s : State) : Out :=
  if !s.myCore.inh then s.trap { cause := cHRETMODE } else .next (s.leaveHandler s.me)

def execDbrk (tag : BitVec 16) (s : State) : Out := s.trap { cause := cDBRK, aux := tag.toNat }

def execTrmark (a : BitVec 6) (imm : BitVec 16) (s : State) : Out :=
  if !s.myCore.ready [a] [] then .next s
  else .next ((s.traceCore s.me evTRMARK (s.myCore.reg a) (imm.setWidth 64)).advance s.me)

/-! ## Watchpoints (R363) -/

def wpNeed : WpKind → Need
  | .read => .rd
  | .write => .wr
  | _ => .both

/-- First byte past the page of `va`, whose leaf `e` has level `l`; a CONT group is one page. -/
def pageEnd (e : Word) (l va : Nat) : Nat :=
  let n := if pteCont e then contCount l * leafSize l else leafSize l
  alignDown va n + n

/-- The location of a range that lies in one window, control space among them (R181, R185), or in one page. -/
def wpLocate (s : State) (w : Who) (need : Need) (va n : Nat) : Except AFault Nat :=
  match window s w va n with
  | .error e => .error e
  | .ok (some loc) => .ok loc
  | .ok none =>
    match translate s w.part va need, walk (s.part w.part) va with
    | .error e, _ => .error e
    | _, .error _ => .error ⟨cTRMISS, va, 0⟩
    | .ok loc, .ok (e, l) => if pageEnd e l va < va + n then .error ⟨cWINBOUND, pageEnd e l va, 0⟩ else .ok loc

def wpKindCode : WpKind → BitVec 2
  | .off => 0
  | .read => 1
  | .write => 2
  | .rw => 3

def scopeCode : Scope → BitVec 3
  | .near => 0
  | .clus => 1
  | .die => 2
  | .dev => 3
  | .sys => 4

def Core.setWp (c : Core) (i : BitVec 2) (w : WpSlot) : Core := { c with wp := c.wp.setIfInBounds i.toNat w }

def execWpset (a d : BitVec 6) (slot : BitVec 2) (sc : Scope) (kind : WpKind) (s : State) : Out :=
  let c := s.myCore
  if !c.ready [a, d] [] || c.engs.any (fun e => e.queue != []) then .next s
  else if kind = .off then (s.updMe fun c => c.setWp slot ⟨0, 0, 0, 0, 0⟩).done
  else
    let va := (c.reg a).toNat
    let n := (c.reg d).toNat
    if n = 0 || 1048576 < n then s.trap { cause := cWINBOUND, addr := va, aux := slot.toNat }
    else
      match wpLocate s (s.whoCore s.me) (wpNeed kind) va n with
      | .error e => s.trap e.trap
      | .ok loc => (s.updMe fun c => c.setWp slot ⟨BitVec.ofNat 52 va, BitVec.ofNat 21 n, scopeCode sc, wpKindCode kind, loc⟩).done

/-! ## Debug sessions (R349, R352, R359) -/

def execDebugSessionAttach (s : State) : Out :=
  match s.arg with
  | .unit p => .next (s.updPart p fun x => { x with debug := true })
  | _ => .next s

def execDebugSessionDetach (s : State) : Out :=
  match s.arg with
  | .unit p => .next (s.updPart p fun x => { x with debug := false })
  | _ => .next s

/-- DEBUG_HALT_REQUEST for task `tn`. -/
def execDebugHaltRequest (s : State) : Out :=
  match s.arg with
  | .unit tn =>
    match s.tasks.find tn with
    | some t =>
      if (s.part t.part).debug then .next ((s.updTask tn fun x => { x with haltReq := true }).settleHalt tn) else .next s
    | none => .next s
  | _ => .next s

/-- A stream register from 96 bytes of its record. -/
def streamOf (bs : List Byte) : StreamReg :=
  let p := natAt bs 72 8
  { bound := natAt bs 0 1 % 2 = 1, index := BitVec.ofNat 16 (bitsOf (natAt bs 0 8) 1 16), entry := BitVec.ofNat 512 (natAt bs 8 64)
    p0 := BitVec.ofNat 24 (bitsOf p 0 24), p1 := BitVec.ofNat 24 (bitsOf p 24 24), p2 := BitVec.ofNat 8 (bitsOf p 48 8)
    p3 := BitVec.ofNat 8 (bitsOf p 56 8) }

/-- A register's bytes. -/
def Core.dbgRead (c : Core) (r : DbgReg) : List Byte :=
  match r with
  | .s r => wordBytes 8 (if r = 0 then 0 else c.s.toArray.getD r.toNat 0)
  | .shadow r => wordBytes 8 (c.shadow.toArray.getD r.toNat 0)
  | .c => natBytes 1 (c.c ||| 1).toNat
  | .v r => natBytes 4096 (c.vreg r).toNat
  | .m r => natBytes 128 (c.mask r).toNat
  | .stack => stackBytes c
  | .t r => natBytes 65536 (c.tile r).toNat
  | .kind r => natBytes 1 (c.tk r.toNat).code
  | .q r => streamBytes (c.stream r)
  | .pc => wordBytes 8 c.pc
  | .loop v => wordBytes 8 (loopIWord c.loops v.toNat)
  | .loopCtl => wordBytes 8 (loopCtlWord c.loops)

/-- The kind of a code of MX_STATE (06_streams_matrix.md R167). -/
def tkindOf (k : Nat) : Option TKind :=
  match k with
  | 0 => some .zero
  | 1 => some .float
  | 2 => some .int
  | _ => none

/-- The mask stack from the bytes of its depth and sixteen entries, bottom first; a depth that no stack has changes nothing (assumption 47). -/
def Core.dbgStack (c : Core) (bs : List Byte) : Core :=
  let n := natAt bs 0 8
  if n = 0 || 16 < n then c
  else { c with mstack := ((List.range n).map fun i => BitVec.ofNat 1024 (natAt bs (8 + 128 * i) 128)).reverse }

/-- A loop level written in the layout of LOOPI (04_scalar_control.md R119). -/
def LoopState.dbgLevel (l : LoopState) (v : Nat) (w : Word) : LoopState :=
  l.set v { l.get v with trip := fld w 32 32, k := wfld w 0 32 }

/-- The stage window, the break bits and which levels are active and pipelined, written in the layout of LOOP_CTL (R119). The start of a
body and whether PLOOP opened the level have no field there, and stay (assumption 47). -/
def LoopState.dbgCtl (l : LoopState) (w : Word) : LoopState :=
  let l := (List.range 6).foldl (fun l v =>
    l.set v { l.get v with active := w.getLsbD v, brk := w.getLsbD (6 + v), pipelined := w.getLsbD 12 && wfld w 13 3 = v }) l
  { l with sp := fld w 24 8, nst := fld w 16 3 }

/-- A register written from bytes; s0 and c0 keep their constants. A tile keeps its kind, except that one of kind Zero, whose elements are
+0, becomes Float; a tile whose kind becomes Zero is cleared (assumption 47). -/
def Core.dbgWrite (c : Core) (r : DbgReg) (bs : List Byte) : Core :=
  match r with
  | .s r => c.putBank false r (bytesWord bs)
  | .shadow r => { c with shadow := c.shadow.setIfInBounds r.toNat (bytesWord bs) }
  | .c => { c with c := BitVec.ofNat 8 (bytesNat bs) &&& 0xFE }
  | .v r => c.setVreg r (BitVec.ofNat 32768 (bytesNat bs))
  | .m r => c.setMask r (BitVec.ofNat 1024 (bytesNat bs))
  | .stack => c.dbgStack bs
  | .t r => c.setTile r (BitVec.ofNat 524288 (bytesNat bs)) (if c.tk r.toNat = .zero then .float else c.tk r.toNat)
  | .kind r =>
    match tkindOf (bytesNat bs) with
    | some .zero => c.setTile r 0 .zero
    | some k => c.setTile r (c.tile r) k
    | none => c
  | .q r => c.setStream r (streamOf bs)
  | .pc => { c with pc := bytesWord bs }
  | .loop v => { c with loops := c.loops.dbgLevel v.toNat (bytesWord bs) }
  | .loopCtl => { c with loops := c.loops.dbgCtl (bytesWord bs) }

/-- A debug session of partition `p` may reach core `g`. -/
def State.dbgOk (s : State) (p g : Nat) : Bool := (s.part p).debug && s.partOf g = p && (s.core g).halted

/-- Destinations of a command. -/
def CmdKind.dests (k : CmdKind) : List (Nat × Nat) :=
  match k with
  | .copy _ b | .gather _ b _ => b.runs
  | .transpose _ b => transRuns b.entry b.pos b.box
  | .reduce _ b _ _ _ _ => if b.remote then [] else b.runs
  | .combine ty _ dst _ _ width => [(dst, width * (ty.bits / 8))]
  | .send _ _ | .xlat _ _ => []

/-- Whether a write by the debugger overlaps the destination of a command of the set that has not signalled. -/
def State.shadowed (s : State) (g : Nat) (rs : List (Nat × Nat)) : Bool :=
  match s.taskOf g with
  | none => false
  | some t =>
    s.cmds.any fun c => c.core.elim false (fun h => t.cores.contains h) &&
      (cmdPieces s c .wr c.kind.dests).any fun p => rs.any fun r => overlaps r.1 r.2 p.2.1 p.2.2

/-- Bit 31 of word 0 of the halt report. -/
def Core.markShadowed (c : Core) : Core :=
  { c with haltRep := c.haltRep.setIfInBounds 0 (repWord c.haltRep 0 ||| (1 <<< 31)) }

/-- A write of memory by the debugger: an overlap with a command is marked. -/
def State.dbgStore (s : State) (g va : Nat) (bs : List Byte) : State :=
  match resolveRange s (s.whoCore g) .wr va bs.length with
  | .error _ => s
  | .ok rs =>
    let mark := s.shadowed g rs
    let s := s.runsWrite agHost rs bs
    if mark then s.updCore g Core.markShadowed else s

/-- The 32 bytes of a trace record (R367). -/
def TraceRec.bytes (r : TraceRec) : List Byte := wordBytes 8 r.time ++ wordBytes 8 r.what ++ wordBytes 8 r.arg0 ++ wordBytes 8 r.arg1

/-- The trace buffer of partition `p` on die `d`, which the host reads through the debug service. -/
def State.traceBytes (s : State) (d p : Nat) : List Byte := (((s.die d).traces.get p []).map TraceRec.bytes).flatten

/-- DEBUG_SESSION_ACCESS: what is read stands in `dbgValue`. -/
def execDebugSessionAccess (s : State) : Out :=
  match s.arg with
  | .debug p acc =>
    match acc with
    | .readReg g r => if s.dbgOk p g then .next { s with dbgValue := (s.core g).dbgRead r } else .next s
    | .writeReg g r bs => if s.dbgOk p g then .next (s.updCore g fun c => c.dbgWrite r bs) else .next s
    | .readCsr g n =>
      if s.dbgOk p g then .next { s with dbgValue := wordBytes 8 ((csrValue s g n.toNat).getD 0) } else .next s
    | .writeCsr g n v => if s.dbgOk p g then .next (s.csrPut g n.toNat v) else .next s
    | .readMem g va n =>
      if s.dbgOk p g then .next { s with dbgValue := (sysBytes s g va n).getD [] } else .next s
    | .writeMem g va bs => if s.dbgOk p g then .next (s.dbgStore g va bs) else .next s
    | .readTrace d => .next { s with dbgValue := s.traceBytes d p }
  | _ => .next s

/-- A halted or stopped core goes on: after a class-D fault under R351, after a requested halt where it stands. Cycles spent
halted do not count toward the limit of its phase. -/
def Core.unhalt (c : Core) (skip : Bool) (now : Nat) : Core :=
  let c' := if c.halted && repCause c.haltRep != 0 then c.resume c.haltRep skip else c
  { c' with
    halted := false, stopped := false, phaseStart := if c.halted then c.phaseStart + (now - c.haltStart) else c.phaseStart
    drainSince := if c.halted && c.phase = .ended then some now else c.drainSince }

/-- One core of the set resumes, with its record. -/
def State.unhaltCore (s : State) (g : Nat) (skip : Bool) : State :=
  let c := s.core g
  let s := s.updCore g fun c => c.unhalt skip s.cycle
  if c.halted then s.traceStage g 0 evRESUME 0 0 else s

/-- DEBUG_RESUME of task `tn`. -/
def execDebugResume (s : State) : Out :=
  match s.arg with
  | .flag tn skip =>
    match s.tasks.find tn with
    | none => .next s
    | some t =>
      if t.saving || !(t.cores.any fun g => (s.core g).halted) then .next s
      else
        let s := t.cores.foldl (fun s g => s.unhaltCore g skip) (s.updTask tn fun x => { x with haltReq := false })
        .next (if t.size = 16 then s.updCluster t.clus fun x => { x with quad := x.quad.unstop } else s)
  | _ => .next s

/-! ## Pre-emption (09_progress_scheduling.md R272; R358 to R361) -/

/-- Every core of the set has stopped with its queues empty, for a pre-emption that has not taken effect. -/
def State.preemptReady (s : State) (tn : Nat) (t : Task) : Bool :=
  t.preReq && !t.haltReq && !t.saving && !s.taskLost t &&
  t.cores.all fun g => let c := s.core g; c.task = some tn && c.stopped && !c.halted && c.drained

/-- PREEMPT_STOP of task `tn`: a pending halt takes effect before a pre-emption (R362). -/
def execPreemptStop (s : State) : Out :=
  match s.arg with
  | .unit tn =>
    match s.tasks.find tn with
    | none => .next s
    | some t =>
      if t.haltReq then .next (s.settleHalt tn)
      else if s.preemptReady tn t then
        let s := t.cores.foldl (fun s g => s.settleCore g) s
        .next (s.updTask tn fun x => { x with saving := true, preBytes := savedBytes s t })
      else .next s
  | _ => .next s

/-- Whether a location is in the near scratch of a core of the set. -/
def Task.nearOf (t : Task) (loc : Nat) : Bool := t.cores.any fun g => inNear g loc

/-- The context of a stopped task. -/
def State.saveTask (s : State) (t : Task) : Saved :=
  let ds := s.dirty.filter fun r => t.nearOf (4096 * r)
  { cores := t.cores.map fun g => (g, s.core g), clus := t.clus, scratch := s.mem.filter fun c => ds.contains (c.1 / 4096)
    dirty := ds, unc := s.memunc.filter fun a => ds.contains (a / 4096) }

/-- The cores of a set that has been saved are free. -/
def State.freeSet (s : State) (t : Task) : State :=
  (t.cores.foldl (fun s g => s.updCore g fun c => { c.release with att := false, stopped := false }) s).quadSettle t.clus

/-- The node of a saved task goes back to its die's pool, with its role and age. -/
def State.nodeBack (s : State) (t : Task) (tn : Nat) : State :=
  let d := dieOfClus t.clus
  (s.updNode t.inst t.node fun x => { x with st := .ready, die := d, task := some tn, moved := false }).fillPool d

/-- CONTEXT_SAVE_COMPLETE of task `tn`: the context of a cancelled instance is discarded. -/
def execContextSaveComplete (s : State) : Out :=
  match s.arg with
  | .unit tn =>
    match s.tasks.find tn with
    | none => .next s
    | some t =>
      if !t.saving then .next s
      else if s.taskLost t then
        .next (t.cores.foldl (fun s g => s.endPart g) (s.updTask tn fun x => { x with saving := false, preReq := false }))
      else
        let s := { s with saved := s.saved.set tn (s.saveTask t) }
        let s := s.updTask tn fun x => { x with saving := false, preReq := false }
        .next (((s.freeSet t).nodeBack t tn).adoptIdle t.clus)
  | _ => .next s

/-- A core as it was saved, in the core that it finds now: what no context holds keeps its value (R358). -/
def Core.restored (saved now : Core) (tn : Nat) (cycle : Nat) : Core :=
  { saved with
    task := some tn, fpstat := now.fpstat, faultRep := now.faultRep, wp := now.wp, lines := [], refills := [], staging := [], smb := []
    stopped := false, halted := false, drainSince := none, phaseStart := cycle, phaseDue := false }

/-- The Quadrille of a resumed sixteen-core task restarts at the next address of the attached cores, the lowest-numbered of them
its leader, whose loops and phase it takes (assumption 71). -/
def State.restartTaskQuad (s : State) (t : Task) : State :=
  match s.leader t.clus with
  | none => s.updCluster t.clus fun x => { x with quad := .reset }
  | some g =>
    let c := s.core g
    let s := s.updCluster t.clus fun x => { x with quad := { Quad.reset with run := .running, dpc := c.pc, loops := c.loops, phase := c.phase } }
    t.cores.foldl (fun s h => s.updCore h fun c => { c with qpos := 0 }) s

/-- The saved task `tn` is restored on its cores. -/
def State.restoreTask (s : State) (tn : Nat) (t : Task) (x : Saved) : State :=
  let s := x.cores.foldl (fun s y => s.updCore y.1 fun c => y.2.restored c tn s.cycle) s
  let s := { s.restoreScratch t.part x t.nearOf with saved := s.saved.del tn }
  let s := t.cores.foldl (fun s g => s.reloadWbuf g) s
  let s := s.updCluster t.clus fun y => { y with mode := s.powerReq }
  let s := if t.size = 16 then s.restartTaskQuad t else s
  let s := t.cores.foldl (fun s g => s.traceStage g 0 evRESUME (BitVec.ofNat 64 t.preBytes) 0) s
  s.updTask tn fun y => { y with since := s.cycle }

/-- CONTEXT_RESUME of task `tn`, once it has been dispatched again. -/
def execContextResume (s : State) : Out :=
  match s.arg with
  | .unit tn =>
    match s.tasks.find tn, s.saved.find tn with
    | some t, some x =>
      if t.cores.all (fun g => (s.core g).task = some tn) then .next (s.restoreTask tn t x) else .next s
    | _, _ => .next s
  | _ => .next s

/-! ## Dumps (R371) -/

/-- HOST_DUMP_READ of partition `p`: the dump stands in `dbgValue` and is marked read. -/
def execHostDumpRead (s : State) : Out :=
  match s.arg with
  | .unit p =>
    let s := if (s.part p).dump.openTask.isSome then s.closeDump p [] 0 else s
    match (s.part p).dump.cur with
    | none => .next s
    | some bs =>
      .next ({ s with dbgValue := bs }.updPart p fun x => { x with dump := { x.dump with cur := none, records := 0 } }).flushDumps
  | _ => .next s

end Sys2Proof.Machine
end

