-- ==== Sys2Proof/Machine/Mask.lean ====
section
/-!
DEFINITION. The mask group (05_vector.md R138, R139).
-/

namespace Sys2Proof.Machine

/-! ## The mask stack (R138) -/

/-- MSTACK names the stack depth in AUX (R139). -/
def mstackTrap (c : Core) : Trap := { cause := cMSTACK, aux := c.mstack.length }

/-- Push the top restricted by a mask; none at depth 16. -/
def Core.pushMask (c : Core) (k : BitVec 3) : Option Core :=
  if c.mstack.length < 16 then some { c with mstack := (c.m0 &&& c.mask k) :: c.mstack } else none

/-- The top becomes the lanes of the entry below that it did not hold. -/
def Core.invMask (c : Core) : Core :=
  { c with mstack := (~~~c.m0 &&& (c.mstack.drop 1).headD maskOnes) :: c.mstack.drop 1 }

/-- Pop; none at depth 1. -/
def Core.popMask (c : Core) : Option Core :=
  if 1 < c.mstack.length then some { c with mstack := c.mstack.drop 1 } else none

/-- A stack change that MSTACK may stop. -/
def stackWord (p : Engw) (f : Core → Option Core) (s : State) : Out :=
  engineWord .arith p (fun _ s =>
    match f s.myCore with
    | some c => .ok { st := s.setMe c }
    | none => .error (mstackTrap s.myCore)) s

def execMpush (p : Engw) (k : BitVec 3) (s : State) : Out := stackWord p (·.pushMask k) s
def execMinv (p : Engw) (s : State) : Out := stackWord p (fun c => some c.invMask) s
def execMpop (p : Engw) (s : State) : Out := stackWord p Core.popMask s

/-- A word that writes a mask. -/
def maskWord (p : Engw) (t : BitVec 3) (f : Core → MaskData) (s : State) : Out :=
  engineWord .arith p (fun _ s => .ok { st := s.updMe fun c => c.setMask t (f c) }) s

def execMset (p : Engw) (t : BitVec 3) (v : Bool) (s : State) : Out := maskWord p t (fun _ => if v then maskOnes else 0) s
def execMmov (p : Engw) (t k : BitVec 3) (s : State) : Out := maskWord p t (·.mask k) s

def execMany (p : Engw) (t k : BitVec 3) (s : State) : Out :=
  engineWord .arith p (fun _ s => .ok { st := s, cw := some (t, s.myCore.mask k != 0) }) s

def execMnone (p : Engw) (t k : BitVec 3) (s : State) : Out :=
  engineWord .arith p (fun _ s => .ok { st := s, cw := some (t, s.myCore.mask k = 0) }) s

/-- Number of 1 bits of a mask. -/
def maskCount (m : MaskData) : Nat := ((List.range 1024).filter fun i => m.getLsbD i).length

def execMcnt (p : Engw) (d : BitVec 5) (k : BitVec 3) (s : State) : Out :=
  engineWord .arith p (fun _ s =>
    .ok { st := s, sw := some (d.setWidth 6, BitVec.ofNat 64 (maskCount (s.myCore.mask k))) }) s

end Sys2Proof.Machine
end

