-- ==== Sys2Proof/Machine/Permute.lean ====
section
/-!
DEFINITION. The permute slot (06_streams_matrix.md R179).
-/

namespace Sys2Proof.Machine

/-- A word of the permute slot that moves lanes: each masked-on lane takes what `f` gives. -/
def permWord (p : Engw) (t : Ty) (d : BitVec 5) (m : BitVec 3) (f : Core → Nat → Nat → Nat) (s : State) : Out :=
  engineWord .permute p (fun _ s =>
    let c := s.myCore
    vMoved t.bits d (onLanes (c.mask m) t.bits t.lanes fun j => f c (j / t.cols) (j % t.cols)) s) s

/-- Element (r, c) of a register of type `t`. -/
def Core.el (c : Core) (t : Ty) (a : BitVec 5) (r k : Nat) : Nat := laneOf t.bits (c.vreg a) (r * t.cols + k)

/-- Every b × b block of the register is transposed. -/
def execPtrn (p : Engw) (ty : Ty) (d a : BitVec 5) (b : BitVec 6) (m : BitVec 3) (s : State) : Out :=
  let n := b.toNat
  permWord p ty d m (fun c r k => c.el ty a (n * (r / n) + k % n) (n * (k / n) + r % n)) s

/-- Row `r`'s elements are picked by the elements of vB. -/
def execPshf (p : Engw) (ty : Ty) (d a b : BitVec 5) (m : BitVec 3) (s : State) : Out :=
  permWord p ty d m (fun c r k => c.el ty a r (c.el ty b r k % ty.cols)) s

/-- Row `r` is rotated by k × r. -/
def execProt (p : Engw) (ty : Ty) (d a : BitVec 5) (k : BitVec 8) (m : BitVec 3) (s : State) : Out :=
  permWord p ty d m (fun c r j => c.el ty a r ((j + 16 * ty.cols - k.toNat * r) % ty.cols)) s

/-- Elements of vA and vB alternate, from the low or the high half of each row. -/
def execPzip (p : Engw) (high : Bool) (ty : Ty) (d a b : BitVec 5) (m : BitVec 3) (s : State) : Out :=
  permWord p ty d m (fun c r k =>
    c.el ty (if k % 2 = 0 then a else b) r (k / 2 + if high then ty.cols / 2 else 0)) s

end Sys2Proof.Machine
end

