-- ==== Sys2Proof/Machine/Recovery.lean ====
section
/-!
DEFINITION. The end of a partition reset, device reset, loss of power, checkpoints and their restoration, the recovery of a domain,
scrubbing, and the loading of an image (02_encoding.md R60, R61; 11_isolation.md R325, R333, R337, R338; 12_recovery.md R354,
R360, R372 to R375).
-/

namespace Sys2Proof.Machine

/-! ## Resets (11_isolation.md R325, R337, R338) -/

/-- Nothing that a reset of partition `p` drops is left at an engine or a controller; an instance that RESTART submitted again waits for
the end of the reset. -/
def State.partitionQuiet (s : State) (p : Nat) : Bool :=
  !s.insts.any (fun x => x.2.part = p && x.2.cancelled.isSome) && !s.cmds.any (·.part = p) && !s.searches.any (fun x => x.2.part = p) &&
  !s.binds.any (·.part = p) && (List.range 32).all fun k => (s.passOf k).elim true fun x => x.part != p

/-- PARTITION_RESET_COMPLETE of partition `p`. -/
def execPartitionResetComplete (s : State) : Out :=
  match s.arg with
  | .unit p =>
    if (s.part p).resetting && s.partitionQuiet p then .next (s.updPart p fun x => { x with resetting := false }) else .next s
  | _ => .next s

/-- Storage of the host, which no reset of the device touches. -/
def hostCells (m : Memory) : Memory := m.filter fun c => hostBase ≤ c.1

/-- Storage of the device. -/
def deviceCells (m : Memory) : Memory := m.filter fun c => c.1 < hostBase

/-- The state of reset, with what flash, the host and the model itself keep. -/
def State.rebooted (s : State) : State :=
  { State.reset with
    agenda := s.agenda, fresh := s.fresh, nextId := s.nextId, mem := hostCells s.mem, stores := s.stores, spaceOwner := s.spaceOwner, images := s.images,
    sigNext := s.sigNext, toHost := s.toHost, dbgValue := s.dbgValue }

/-- DEVICE_RESET: the boot ROM verifies the firmware image; one that fails is never executed. -/
def execDeviceReset (s : State) : Out :=
  match s.arg with
  | .flag _ ok =>
    if ok then .next s.rebooted
    else .next { s.rebooted with firmware := .loader, toHost := s.toHost ++ [.loaderFailed] }
  | _ => .next s

/-- POWER_LOSS: volatile state is lost; `lost` says that a signature index was written and not released. No firmware runs until a
device reset. -/
def execPowerLoss (s : State) : Out :=
  match s.arg with
  | .flag _ lost =>
    .next { s.rebooted with
      firmware := .loader
      sigNext := if lost && s.sigNext < 1048576 then s.sigNext + 1 else s.sigNext
      images := s.images.filter (·.valid) }
  | _ => .next s

/-! ## Checkpoints (R372, R374) -/

/-- A SEND or remote RED of a domain member that has not been issued: it waits for the end of the checkpoint (R374). -/
def State.heldBack (s : State) (c : Cmd) : Bool :=
  s.inDomain && !c.moved &&
  match c.kind with
  | .send _ _ => true
  | .reduce _ b _ _ _ _ => b.remote
  | _ => false

/-- The work that a checkpoint waits for has ended: every tile task is saved, every payload sent is answered. -/
def State.quiet (s : State) : Bool :=
  s.tasks.all (fun t => (s.saved.find t.1).isSome) && s.cmds.all s.heldBack && s.searches = [] && s.binds = [] &&
  (List.range 32).all (fun k => (s.passOf k).isNone) && (!s.inDomain || s.links = [])

/-- The image of epoch `e`. -/
def State.makeImage (s : State) (e : Nat) : Image :=
  { epoch := e, valid := true, mem := deviceCells s.mem, memunc := s.memunc, dirty := s.dirty, baseline := s.baseline, cores := s.cores
    clusters := s.clusters, dies := s.dies, parts := s.parts, insts := s.insts, instCounter := s.instCounter, tasks := s.tasks
    saved := s.saved, swapped := s.swapped, tokens := s.tokens, cmds := s.cmds, granules := s.granules }

/-- The newest image of a list: of two of one epoch, the later one. -/
def newest : List Image → Option Image
  | [] => none
  | x :: xs =>
    match newest xs with
    | none => some x
    | some y => some (if y.epoch < x.epoch then x else y)

/-- CHECKPOINT_COMMIT: the commit record is written last, and the older of the two images gives way; work goes on. -/
def execCheckpointCommit (s : State) : Out :=
  match s.ckpt with
  | some e =>
    if s.quiet then
      .next { s with images := (newest s.images).toList ++ [s.makeImage e], ckpt := none, quiesced := false }
    else .next s
  | none => .next s

/-- DOMAIN_EPOCH_CHECKPOINT at epoch `e`: SEND, TRIPLE and remote RED are no longer issued (R374), and the checkpoint begins. -/
def execDomainEpochCheckpoint (s : State) : Out :=
  match s.arg with
  | .epoch (some e) => if s.inDomain && s.ckpt.isNone then .next (s.beginCheckpoint e) else .next s
  | _ => .next s

/-- The image a restore chooses: the epoch named, or the newest valid one. -/
def State.chooseImage (s : State) (e : Option Nat) : Option Image :=
  newest (s.images.filter fun x => x.valid && e.elim true fun n => x.epoch = n)

/-- What image `x` holds comes back; host memory, the index logs and what flash keeps do not go back. -/
def State.restoreImage (s : State) (x : Image) : State :=
  { s with
    mem := deviceCells x.mem ++ hostCells s.mem, memunc := x.memunc, dirty := x.dirty, baseline := x.baseline, cores := x.cores
    clusters := x.clusters, dies := x.dies, parts := x.parts, insts := x.insts, instCounter := x.instCounter, tasks := x.tasks
    saved := x.saved, swapped := x.swapped, tokens := x.tokens, cmds := x.cmds, granules := x.granules
    rounds := [], deliveries := [], searches := [], binds := [], appends := [], coalesce := [], links := [], rejects := []
    quiesced := false, ckpt := none, ports := BitVec.allOnes 16
    toHost := s.toHost ++ [.recovered] }

/-- RESTORE: a member of a domain that quiesces has first stopped its work, as for a checkpoint (R372, R375). -/
def execRestore (s : State) : Out :=
  match s.arg with
  | .epoch e =>
    match s.chooseImage e with
    | some x =>
      if s.firmware = .running && (!(s.quiesced && s.inDomain) || s.quiet) then .next (s.restoreImage x) else .next s
    | none => .next s
  | _ => .next s

/-! ## The failure of a device of the domain (R375) -/

/-- A device that cannot restore is reported DEVLOST: its routes go, what was sent to it is dropped, and its instances are
cancelled. -/
def State.loseDevice (s : State) (dev : Nat) : State :=
  let s := { s with lostDevs := s.lostDevs ++ [dev], routes := s.routes.del dev, toHost := s.toHost ++ [HostMsg.devLost dev] }
  let s := (s.links.filter fun m => m.dev = dev).foldl (fun s m => s.dropMsg m) s
  if dev = s.devNum.toNat then s.insts.foldl (fun s x => s.raiseCancel x.1 cLINKDOWN) s else s

/-- DEVICE_FAILURE_DETECT of device `dev`: the survivors quiesce as for a checkpoint, every tile task being asked to stop (R372); `lost`
says that it cannot restore. -/
def execDeviceFailureDetect (s : State) : Out :=
  match s.arg with
  | .flag dev lost =>
    if s.inDomain then
      let s := s.tasks.foldl (fun s t => s.requestPreempt t.1) { s with quiesced := true }
      .next (if lost then s.loseDevice dev else s)
    else .next s
  | _ => .next s

/-! ## Scrubbing (R354) -/

/-- BACKGROUND_SCRUB of a location: a correctable error is corrected and nothing shows; an uncorrectable one stands until a later
write. -/
def execBackgroundScrub (s : State) : Out :=
  match s.arg with
  | .flag loc bad =>
    if bad && loc < hostBase && !s.memunc.contains loc then .next { s with memunc := s.memunc ++ [loc] } else .next s
  | _ => .next s

/-! ## Loading an image (02_encoding.md R60, R61; 11_isolation.md R333; R360) -/

/-- The value of a relocation's expression, in 64-bit two's complement, with the sections where they are loaded (R58, R61, R62). A shift
count outside 0 to 63, which the assembler refuses, gives 0 (assumption 50). -/
def relValue (va : Nat → Nat) : RelExpr → Word
  | .const x => x
  | .label i off => BitVec.ofNat 64 (va i) + off
  | .neg a => -(relValue va a)
  | .mul a b => relValue va a * relValue va b
  | .add a b => relValue va a + relValue va b
  | .sub a b => relValue va a - relValue va b
  | .shl a b => if 64 ≤ (relValue va b).toNat then 0 else relValue va a <<< (relValue va b).toNat
  | .shr a b => if 64 ≤ (relValue va b).toNat then 0 else (relValue va a).sshiftRight (relValue va b).toNat
  | .and a b => relValue va a &&& relValue va b
  | .or a b => relValue va a ||| relValue va b

/-- Bits `[lo + len − 1 : lo]` of a number replaced by the low bits of a value, which R62 does not require to fit (assumption 50). -/
def putBits (x lo len v : Nat) : Nat := x - bitsOf x lo len * 2 ^ lo + v % 2 ^ len * 2 ^ lo

/-- One relocation of a section's bytes. -/
def relApply (r : Reloc) (va : Nat → Nat) (bs : List Byte) : List Byte :=
  let n := (r.lo + r.len + 7) / 8
  bs.take r.off ++ natBytes n (putBits (natAt bs r.off n) r.lo r.len (relValue va r.value).toNat) ++ bs.drop (r.off + n)

/-- The address at which section `i` of an image is loaded. -/
def imgPlace (im : LoadImage) (i : Nat) : Nat := (im.sections[i]?).elim 0 (·.va)

/-- The sections as the loader writes them: each relocation is evaluated with the loaded addresses (R62). -/
def imgSections (im : LoadImage) : List Section :=
  (enum im.sections).map fun (i, x) =>
    let rs := im.relocs.filter fun r => r.sec = i && r.off + (r.lo + r.len + 7) / 8 ≤ x.bytes.length
    let bytes := rs.foldl (fun bs r => relApply r (imgPlace im) bs) x.bytes
    { x with bytes }

/-- Where a section lands, as the runs of each place: a section of the near window in the near scratch of every core of its cluster. A
section whose address does not resolve is not loaded (assumption 50). -/
def sectionRuns (s : State) (p : Nat) (x : Section) : List (List (Nat × Nat)) :=
  if ownNear ≤ x.va && x.va < ownNear + nearSize then
    (coresOf x.clus).filterMap fun g => (resolveRange s ⟨agHost, p, some g⟩ .rd x.va x.bytes.length).toOption
  else
    ((resolveRange s ⟨agHost, p, some (16 * x.clus)⟩ .rd x.va x.bytes.length).toOption).toList

def State.loadSection (s : State) (p : Nat) (x : Section) : State :=
  (sectionRuns s p x).foldl (fun s rs => s.runsWrite agHost rs x.bytes) s

/-- The scratches that an image is loaded into: the near scratches of a cluster by a section of the near window, its cluster scratch by one
of the cluster window (R360). -/
def imageLoads (im : LoadImage) (loc : Nat) : Bool :=
  im.sections.any fun x =>
    (ownNear ≤ x.va && x.va < ownNear + nearSize && nearLoc (16 * x.clus) ≤ loc && loc < nearLoc (16 * x.clus + 16)) ||
    (ownClus ≤ x.va && x.va < ownClus + clusSize && clusLoc x.clus ≤ loc && loc < clusLoc x.clus + clusSize)

/-- The baseline of the loaded scratches is what they hold now, and their dirty bits are clear. -/
def State.setBaseline (s : State) (im : LoadImage) : State :=
  { s with
    baseline := (s.mem.filter fun c => imageLoads im c.1).foldl (fun m c => memPut m (baseKey im.part c.1) c.2)
      (s.baseline.filter fun c => !(c.1 / 2 ^ 60 = im.part && imageLoads im (c.1 % 2 ^ 60)))
    dirty := s.dirty.filter fun r => !imageLoads im (4096 * r) }

/-- One entry of the object manifest; trusted firmware refuses one that breaks R160. -/
def State.loadObject (s : State) (p : Nat) (x : ObjInstall) : State :=
  if x.index < 65536 && entryOk x.entry then s.setObj p x.index (some ⟨entInstalled x.entry p, x.ns, x.store, x.guard⟩) else s

/-- Whether another partition than `p` satisfies `f`. -/
def State.otherPart (s : State) (p : Nat) (f : Partition → Bool) : Bool := (List.range 8).any fun q => q != p && f (s.part q)

/-- A range of the 2,048 MSI-X vectors that meets no other partition's (11_isolation.md R342). -/
def State.msixOk (s : State) (p base count : Nat) : Bool :=
  base + count ≤ 2048 && !s.otherPart p fun x => decide (x.msixBase < base + count ∧ base < x.msixBase + x.msixCount)

/-- Shares of the last-level TLB of die `d` that other partitions hold. -/
def State.otherShares (s : State) (p d : Nat) : Nat :=
  ((List.range 8).map fun q => if q = p then 0 else (s.die d).shares.get q 0).foldl (· + ·) 0

/-- Partition `p`'s share of the last-level TLB of die `d` becomes `n` units, when sixteen suffice (R331); entries beyond it go. -/
def State.setShare (s : State) (p d n : Nat) : State :=
  if 4 ≤ d || 16 < n + s.otherShares p d then s
  else s.updDie d fun x => { x with
    shares := x.shares.set p n
    tlb := (List.range (x.tlb.length - 768 * n)).foldl (fun t _ => if (t.filter fun e => e.1 = p).length ≤ 768 * n then t else tlbEvict p t) x.tlb }

/-- The flash namespaces among those asked for that no other partition holds (R323). -/
def State.freeSpaces (s : State) (p : Nat) (g : Grants) : List Nat :=
  g.namespaces.filter fun n => !s.otherPart p (·.namespaces.contains n)

/-- A namespace that another partition held last is emptied before it is granted (R324; assumption 76). -/
def State.claimSpace (s : State) (p n : Nat) : State :=
  { s with
    stores := if s.spaceOwner.get n p = p then s.stores else s.stores.del n
    spaceOwner := s.spaceOwner.set n p }

/-- The MSI-X range that partition `p` holds after `g`. -/
def State.newMsix (s : State) (p : Nat) (g : Grants) : Nat × Nat :=
  if s.msixOk p g.msixBase g.msixCount then (g.msixBase, g.msixCount) else ((s.part p).msixBase, (s.part p).msixCount)

/-- Whether work that began under what `g` takes from partition `p` is still going on: trusted firmware waits for it before it moves a
flash namespace, a message vector or a DTAG (R322; assumption 76). -/
def State.grantsHeld (s : State) (p : Nat) (g : Grants) : Bool :=
  ((s.part p).namespaces.any (fun n => !g.namespaces.contains n) &&
    (s.binds.any (·.part = p) || s.searches.any (fun x => x.2.part = p) || s.appends.any (·.part = p))) ||
  s.coalesce.any (fun c => c.part = p &&
    !((s.newMsix p g).1 ≤ c.vec && c.vec < (s.newMsix p g).1 + (s.newMsix p g).2)) ||
  ((s.part p).dtag != g.dtag && s.links.any fun m => m.pl.dtag.isSome && m.pl.dtag = (s.part p).dtag)

/-- What trusted firmware assigns with the image. A namespace, a DTAG or a vector that another partition holds, a share beyond sixteen
units, and a unit of LPDDR that no page of the partition backs are not granted (R323, R331, R341, R342, R344; assumption 50). -/
def State.loadGrants (s : State) (p : Nat) (g : Grants) : State :=
  let s' := s.updPart p fun x => { x with
    spillCap := g.spill
    namespaces := s.freeSpaces p g
    dtag := if g.dtag.isSome && s.otherPart p (·.dtag = g.dtag) then x.dtag else g.dtag
    msixBase := (s.newMsix p g).1
    msixCount := (s.newMsix p g).2
    hdm := (g.hdm.filter fun u => x.backs u.2).foldl (fun t u => t.set u.1 u.2) [] }
  let s := g.tlb.foldl (fun s u => s.setShare p u.1 u.2) ((s.freeSpaces p g).foldl (fun s n => s.claimSpace p n) s')
  match g.domain with
  | none => s
  | some (n, rs) => { s with inDomain := true, devNum := n, routes := rs.foldl (fun t r => t.set r.1 r.2) [] }

/-- The whole image, installed in the order sections, objects, rings, experts. The manifests hold the addresses to install; relocations
reach the bytes of sections alone (assumption 69). -/
def State.loadImage (s : State) (im : LoadImage) : State :=
  let s := (im.grants.elim s (s.loadGrants im.part))
  let s := ((imgSections im).foldl (fun s x => s.loadSection im.part x) s).setBaseline im
  let s := im.objects.foldl (fun s x => s.loadObject im.part x) s
  let s := im.rings.foldl (fun s (k, n, d) => (s.installRing im.part k n (fld d 0 64) (fld d 64 64)).2) s
  im.experts.foldl (fun s (n, d) => (s.installXq im.part n d).2) s

/-- IMAGE_LOAD: it waits until nothing uses the entries and grants that it replaces, and loads only clusters of the partition. -/
def execImageLoad (s : State) : Out :=
  match s.arg with
  | .image im =>
    if s.firmware = .running && im.part < 8 && im.sections.all (fun x => x.va % 4096 = 0 && x.clus < 32 && (s.cluster x.clus).part = im.part) &&
        im.rings.all (fun r => r.1 < 32 && r.2.1 < 64 && (s.cluster r.1).part = im.part) && im.experts.all (·.1 < 1024) &&
        !(im.objects.any fun x => s.objUsed im.part x.index) && !im.grants.elim false (s.grantsHeld im.part) then
      .next (s.loadImage im)
    else .next s
  | _ => .next s

end Sys2Proof.Machine
end

