-- ==== Sys2Proof/Machine/ScalarFp.lean ====
section
/-!
DEFINITION. The floating-point words of the scalar pipe (04_scalar_control.md R103 to R108), with the NaN trap of
03_numbers.md R94.
-/

namespace Sys2Proof.Machine

/-- The low bits of a register as an element of type `ty`; higher bits are ignored (R103). -/
def fpArg (c : Core) (ty : Ty) (r : BitVec 6) : Nat := (c.reg r).toNat % 2 ^ ty.bits

/-- Deliver an arithmetic result or a conversion's: a NaN traps while NTEN is set, with no effect (R94); otherwise the
register is written and the flags recorded. -/
def fpWrite (s : State) (d : BitVec 6) (nan : Bool) (v : Word) (fl : FFlags) : Out :=
  if s.myCore.nten && nan then s.trap { cause := cNANTRAP }
  else .next (s.updMe fun c => ((c.setReg d v).orFlags fl).advance)

/-- An arithmetic word: the result of `f` over the decoded operands (R104). -/
def fpArith (q : Qual) (ty : Ty) (d : BitVec 6) (rs : List (BitVec 6)) (f : Fmt → Bool → Core → FR) (s : State) : Out :=
  scalarWord q (d :: rs) [] s fun s =>
    let c := s.myCore
    let r := f (fmtOf ty) c.ftz c
    fpWrite s d (isNanBits ty r.1) (BitVec.ofNat 64 r.1) r.2

def execFadd (q : Qual) (ty : Ty) (rm : Rm) (d a b : BitVec 6) (s : State) : Out :=
  fpArith q ty d [a, b] (fun f z c => fAdd f rm z (fpArg c ty a) (fpArg c ty b)) s

def execFsub (q : Qual) (ty : Ty) (rm : Rm) (d a b : BitVec 6) (s : State) : Out :=
  fpArith q ty d [a, b] (fun f z c => fSub f rm z (fpArg c ty a) (fpArg c ty b)) s

def execFmul (q : Qual) (ty : Ty) (rm : Rm) (d a b : BitVec 6) (s : State) : Out :=
  fpArith q ty d [a, b] (fun f z c => fMul f rm z (fpArg c ty a) (fpArg c ty b)) s

def execFfma (q : Qual) (ty : Ty) (rm : Rm) (d a b c : BitVec 6) (s : State) : Out :=
  fpArith q ty d [a, b, c] (fun f z k => fFma f rm z false (fpArg k ty a) (fpArg k ty b) (fpArg k ty c)) s

def execFdiv (q : Qual) (ty : Ty) (rm : Rm) (d a b : BitVec 6) (s : State) : Out :=
  fpArith q ty d [a, b] (fun f z c => fDiv f rm z (fpArg c ty a) (fpArg c ty b)) s

def execFsqrt (q : Qual) (ty : Ty) (rm : Rm) (d a : BitVec 6) (s : State) : Out :=
  fpArith q ty d [a] (fun f z c => fSqrt f rm z (fpArg c ty a)) s

/-- FMIN and FMAX return an operand, never flush and never trap (R75, R84, R105). -/
def fpMinMax (q : Qual) (ty : Ty) (mx : Bool) (d a b : BitVec 6) (s : State) : Out :=
  scalarWord q [d, a, b] [] s fun s => .next (s.updMe fun c =>
    let r := fMinMax ty mx (fpArg c ty a) (fpArg c ty b)
    ((c.setReg d (BitVec.ofNat 64 r.1)).orFlags r.2).advance)

def execFmin (q : Qual) (ty : Ty) (d a b : BitVec 6) (s : State) : Out := fpMinMax q ty false d a b s
def execFmax (q : Qual) (ty : Ty) (d a b : BitVec 6) (s : State) : Out := fpMinMax q ty true d a b s

def execFcmp (q : Qual) (ty : Ty) (cond : Cond) (t : BitVec 3) (a b : BitVec 6) (s : State) : Out :=
  scalarWord q [a, b] [t] s fun s => .next (s.updMe fun c =>
    let r := fCmp (fmtOf ty) cond (fpArg c ty a) (fpArg c ty b)
    ((c.setCreg t r.1).orFlags r.2).advance)

/-- The register image of a converted value: integers sign- or zero-extended, floats zero-extended (R103, R108). -/
def fcvtImage (dst : Ty) (x : Nat) : Word :=
  if dst.isFloat then BitVec.ofNat 64 x else BitVec.ofInt 64 (intOf dst x)

def execFcvt (q : Qual) (dst src : Ty) (rm : Rm) (d a : BitVec 6) (s : State) : Out :=
  scalarWord q [d, a] [] s fun s =>
    let c := s.myCore
    let gen := if rm = .rsto then nextGen c.genS else c.genS
    let r := convert src dst rm (drawOf gen) c.ftz (fcvtWidens src dst) (fpArg c src a)
    let nan := dst.isFloat && isNanBits dst r.1
    if c.nten && nan then s.trap { cause := cNANTRAP }
    else fpWrite (s.updMe fun c => { c with genS := gen }) d nan (fcvtImage dst r.1) r.2

def execFclass (q : Qual) (ty : Ty) (d a : BitVec 6) (s : State) : Out :=
  scalarTo q d [a] [] (fun c => BitVec.ofNat 64 (fClass (fmtOf ty) (fpArg c ty a))) s

end Sys2Proof.Machine
end

