-- ==== Sys2Proof/Machine/ScalarInt.lean ====
section
/-!
DEFINITION. The integer words of the scalar pipe (04_scalar_control.md R97 to R102).
-/

namespace Sys2Proof.Machine

/-! ## Shared forms -/

/-- A word with two scalar sources. -/
def intOp2 (q : Qual) (d a b : BitVec 6) (f : Word → Word → Word) (s : State) : Out :=
  scalarTo q d [a, b] [] (fun c => f (c.reg a) (c.reg b)) s

/-- A word with three scalar sources. -/
def intOp3 (q : Qual) (d a b e : BitVec 6) (f : Word → Word → Word → Word) (s : State) : Out :=
  scalarTo q d [a, b, e] [] (fun c => f (c.reg a) (c.reg b) (c.reg e)) s

/-- A word with one scalar source. -/
def intOp1 (q : Qual) (d a : BitVec 6) (f : Word → Word) (s : State) : Out := scalarTo q d [a] [] (fun c => f (c.reg a)) s

/-- A word that writes a condition register. -/
def condTo (q : Qual) (t : BitVec 3) (rs : List (BitVec 6)) (f : Core → Bool) (s : State) : Out :=
  scalarWord q rs [t] s fun s => .next (s.updMe fun c => (c.setCreg t (f c)).advance)

/-- The sign extension of a 32-bit immediate. -/
def sext32 (i : BitVec 32) : Word := i.signExtend 64

/-- A shift or rotate count: bits [5:0]. -/
def shCount (b : Word) : Nat := b.toNat % 64

def smin (a b : Word) : Word := if a.toInt ≤ b.toInt then a else b
def smax (a b : Word) : Word := if b.toInt ≤ a.toInt then a else b
def umin (a b : Word) : Word := if a.toNat ≤ b.toNat then a else b
def umax (a b : Word) : Word := if b.toNat ≤ a.toNat then a else b

/-- FSHL and FSHR (R99). -/
def fshl (a b e : Word) : Word := let n := shCount e; if n = 0 then a else (a <<< n) ||| (b >>> (64 - n))
def fshr (a b e : Word) : Word := let n := shCount e; if n = 0 then b else (b >>> n) ||| (a <<< (64 - n))

/-- Leading zeros among the low `n` bits. -/
def clzFrom (x : Nat) : Nat → Nat
  | 0 => 0
  | n + 1 => if x.testBit n then 0 else 1 + clzFrom x n

/-- Trailing zeros from bit `i`, at most `n` of them. -/
def ctzFrom (x : Nat) : Nat → Nat → Nat
  | 0, _ => 0
  | n + 1, i => if x.testBit i then 0 else 1 + ctzFrom x n (i + 1)

/-- Number of 1 bits among the low `n`. -/
def popFrom (x : Nat) : Nat → Nat
  | 0 => 0
  | n + 1 => bit (x.testBit n) + popFrom x n

/-- BREV and BSWP (R99). -/
def brevWord (a : Word) : Word := a.reverse
def bswpWord (a : Word) : Word := bytesWord (wordBytes 8 a).reverse

/-- Signed and unsigned division with the corners of R100. -/
def divS (a b : Word) : Word := if b = 0 then BitVec.allOnes 64 else a.sdiv b
def divU (a b : Word) : Word := if b = 0 then BitVec.allOnes 64 else a / b

/-- High halves of the 128-bit products. -/
def mulhS (a b : Word) : Word := BitVec.ofInt 64 (a.toInt * b.toInt / 2 ^ 64)
def mulhU (a b : Word) : Word := BitVec.ofNat 64 (a.toNat * b.toNat / 2 ^ 64)

/-- `len` bits of `a` from `pos`, as a number. -/
def fieldOf (a : Word) (pos : BitVec 6) (len : BitVec 7) : Nat := wfld a pos.toNat len.toNat

/-- BFI: a field of `x` replaced by the low bits of `a`. -/
def insertField (x a : Word) (pos : BitVec 6) (len : BitVec 7) : Word :=
  let m : Word := BitVec.ofNat 64 ((2 ^ len.toNat - 1) * 2 ^ pos.toNat)
  (x &&& ~~~m) ||| ((a <<< pos.toNat) &&& m)

/-! ## OP 0x01 (R97, R98) -/

def execAdd (q : Qual) (d a b : BitVec 6) (s : State) : Out := intOp2 q d a b (fun x y => x + y) s
def execSub (q : Qual) (d a b : BitVec 6) (s : State) : Out := intOp2 q d a b (fun x y => x - y) s

/-- ADDX: with c0, 1 is added and the carry is discarded. -/
def execAddx (q : Qual) (d a b : BitVec 6) (k : BitVec 3) (s : State) : Out :=
  scalarWord q [d, a, b] [k] s fun s => .next (s.updMe fun c =>
    let t := (c.reg a).toNat + (c.reg b).toNat + bit (c.creg k)
    ((c.setReg d (BitVec.ofNat 64 t)).setCreg k (2 ^ 64 ≤ t)).advance)

def execLea (q : Qual) (d a b : BitVec 6) (sh : BitVec 6) (s : State) : Out :=
  intOp2 q d a b (fun x y => x + (y <<< sh.toNat)) s
def execMin (q : Qual) (d a b : BitVec 6) (s : State) : Out := intOp2 q d a b smin s
def execMax (q : Qual) (d a b : BitVec 6) (s : State) : Out := intOp2 q d a b smax s
def execMinn (q : Qual) (d a b : BitVec 6) (s : State) : Out := intOp2 q d a b umin s
def execMaxn (q : Qual) (d a b : BitVec 6) (s : State) : Out := intOp2 q d a b umax s
def execAnd (q : Qual) (d a b : BitVec 6) (s : State) : Out := intOp2 q d a b (fun x y => x &&& y) s
def execOr (q : Qual) (d a b : BitVec 6) (s : State) : Out := intOp2 q d a b (fun x y => x ||| y) s
def execXor (q : Qual) (d a b : BitVec 6) (s : State) : Out := intOp2 q d a b (fun x y => x ^^^ y) s
def execAndn (q : Qual) (d a b : BitVec 6) (s : State) : Out := intOp2 q d a b (fun x y => x &&& ~~~y) s
def execOrn (q : Qual) (d a b : BitVec 6) (s : State) : Out := intOp2 q d a b (fun x y => x ||| ~~~y) s

def execSel (q : Qual) (d a b : BitVec 6) (k : BitVec 3) (s : State) : Out :=
  scalarTo q d [a, b] [k] (fun c => if c.creg k then c.reg a else c.reg b) s

/-! ## OP 0x02 (R99) -/

def execShl (q : Qual) (d a b : BitVec 6) (s : State) : Out := intOp2 q d a b (fun x y => x <<< shCount y) s
def execShr (q : Qual) (d a b : BitVec 6) (s : State) : Out := intOp2 q d a b (fun x y => x >>> shCount y) s
def execSar (q : Qual) (d a b : BitVec 6) (s : State) : Out := intOp2 q d a b (fun x y => x.sshiftRight (shCount y)) s
def execRol (q : Qual) (d a b : BitVec 6) (s : State) : Out := intOp2 q d a b (fun x y => x.rotateLeft (shCount y)) s
def execRor (q : Qual) (d a b : BitVec 6) (s : State) : Out := intOp2 q d a b (fun x y => x.rotateRight (shCount y)) s
def execFshl (q : Qual) (d a b c : BitVec 6) (s : State) : Out := intOp3 q d a b c fshl s
def execFshr (q : Qual) (d a b c : BitVec 6) (s : State) : Out := intOp3 q d a b c fshr s
def execClz (q : Qual) (d a : BitVec 6) (s : State) : Out := intOp1 q d a (fun x => BitVec.ofNat 64 (clzFrom x.toNat 64)) s
def execCtz (q : Qual) (d a : BitVec 6) (s : State) : Out := intOp1 q d a (fun x => BitVec.ofNat 64 (ctzFrom x.toNat 64 0)) s
def execPopc (q : Qual) (d a : BitVec 6) (s : State) : Out := intOp1 q d a (fun x => BitVec.ofNat 64 (popFrom x.toNat 64)) s
def execBrev (q : Qual) (d a : BitVec 6) (s : State) : Out := intOp1 q d a brevWord s
def execBswp (q : Qual) (d a : BitVec 6) (s : State) : Out := intOp1 q d a bswpWord s

/-! ## OP 0x03 (R100) -/

def execMul (q : Qual) (d a b : BitVec 6) (s : State) : Out := intOp2 q d a b (fun x y => x * y) s
def execMulh (q : Qual) (d a b : BitVec 6) (s : State) : Out := intOp2 q d a b mulhS s
def execMulhn (q : Qual) (d a b : BitVec 6) (s : State) : Out := intOp2 q d a b mulhU s
def execDiv (q : Qual) (d a b : BitVec 6) (s : State) : Out := intOp2 q d a b divS s
def execDivn (q : Qual) (d a b : BitVec 6) (s : State) : Out := intOp2 q d a b divU s
def execRem (q : Qual) (d a b : BitVec 6) (s : State) : Out :=
  intOp2 q d a b (fun x y => if y = 0 then x else x - y * divS x y) s
def execRemn (q : Qual) (d a b : BitVec 6) (s : State) : Out :=
  intOp2 q d a b (fun x y => if y = 0 then x else x - y * divU x y) s

/-! ## Comparisons (R101) -/

def execCmp (q : Qual) (cond : Cond) (t : BitVec 3) (a b : BitVec 6) (s : State) : Out :=
  condTo q t [a, b] (fun c => condHolds cond (c.reg a) (c.reg b)) s

def execCmpi (q : Qual) (cond : Cond) (t : BitVec 3) (a : BitVec 6) (imm : BitVec 32) (s : State) : Out :=
  condTo q t [a] (fun c => condHolds cond (c.reg a) (sext32 imm)) s

/-! ## Immediate forms (R102) -/

def execAddi (q : Qual) (d a : BitVec 6) (imm : BitVec 32) (s : State) : Out := intOp1 q d a (fun x => x + sext32 imm) s
def execAndi (q : Qual) (d a : BitVec 6) (imm : BitVec 32) (s : State) : Out := intOp1 q d a (fun x => x &&& sext32 imm) s
def execOri (q : Qual) (d a : BitVec 6) (imm : BitVec 32) (s : State) : Out := intOp1 q d a (fun x => x ||| sext32 imm) s
def execXori (q : Qual) (d a : BitVec 6) (imm : BitVec 32) (s : State) : Out := intOp1 q d a (fun x => x ^^^ sext32 imm) s
def execShli (q : Qual) (d a : BitVec 6) (imm : BitVec 32) (s : State) : Out := intOp1 q d a (fun x => x <<< imm.toNat) s
def execShri (q : Qual) (d a : BitVec 6) (imm : BitVec 32) (s : State) : Out := intOp1 q d a (fun x => x >>> imm.toNat) s
def execSari (q : Qual) (d a : BitVec 6) (imm : BitVec 32) (s : State) : Out :=
  intOp1 q d a (fun x => x.sshiftRight imm.toNat) s

def execBfx (q : Qual) (d a : BitVec 6) (pos : BitVec 6) (len : BitVec 7) (s : State) : Out :=
  intOp1 q d a (fun x => BitVec.ofInt 64 (signedOf len.toNat (fieldOf x pos len))) s

def execBfxn (q : Qual) (d a : BitVec 6) (pos : BitVec 6) (len : BitVec 7) (s : State) : Out :=
  intOp1 q d a (fun x => BitVec.ofNat 64 (fieldOf x pos len)) s

def execBfi (q : Qual) (d a : BitVec 6) (pos : BitVec 6) (len : BitVec 7) (s : State) : Out :=
  intOp2 q d d a (fun x y => insertField x y pos len) s

def execLi (q : Qual) (d : BitVec 6) (imm : BitVec 32) (s : State) : Out := scalarTo q d [] [] (fun _ => sext32 imm) s

def execLih (q : Qual) (d : BitVec 6) (imm : BitVec 32) (s : State) : Out :=
  intOp1 q d d (fun x => imm ++ x.setWidth 32) s

end Sys2Proof.Machine
end

