-- ==== Sys2Proof/Machine/VecMem.lean ====
section
/-!
DEFINITION. Vector memory: VLD, VST, VLDA, VSTA, VGTH and VSCT in base and stream mode (05_vector.md R154 to R157;
06_streams_matrix.md R166; 07_ordering.md R192 to R196; 12_recovery.md R354, R364).
-/

namespace Sys2Proof.Machine

/-- How a vector memory word takes its addresses. -/
inductive VShape where
  | rows (align : Bool)
  | lanes (offs : BitVec 5)
  deriving DecidableEq, Repr, Inhabited

/-- A masked-on lane: its number, position (in stream mode), address, and the address that alignment is asked of. -/
structure LaneAt where
  lane : Nat
  pos : Option Pos
  va : Nat
  al : Nat
  deriving DecidableEq, Repr, Inhabited

/-- The lanes of a word with their addresses (R155, R156, R166). -/
def laneAt (c : Core) (h : QEntry) (t : Ty) (stream : Bool) (sh : VShape) (j : Nat) : LaneAt :=
  let w := fmtBytes t
  let row := j / t.cols
  let col := j % t.cols
  match sh, stream with
  | .rows _, true =>
    let at0 (k : Nat) : Int := entAddr h.sa.entry ⟨h.pa.p0 + k, h.pa.p1 + row, h.pa.p2, h.pa.p3⟩
    ⟨j, some ⟨h.pa.p0 + col, h.pa.p1 + row, h.pa.p2, h.pa.p3⟩, addr64 (at0 col), addr64 (at0 0)⟩
  | .rows _, false =>
    let a := h.scalar.toNat
    ⟨j, none, addr64 ((a : Int) + row * 256 + col * w), addr64 ((a : Int) + row * 256)⟩
  | .lanes v, true =>
    let o := laneOf 32 (c.vreg v) j
    let a := addr64 (entAddr h.sa.entry h.pa + o)
    ⟨j, some ⟨h.pa.p0 + (o / 4 : Nat), h.pa.p1, h.pa.p2, h.pa.p3⟩, a, a⟩
  | .lanes v, false =>
    let o := laneOf 32 (c.vreg v) j
    let a := addr64 ((h.scalar.toNat : Int) + o)
    ⟨j, none, a, a⟩

/-- What each lane's address must be a multiple of: for an aligned row its start, else the element's own address. -/
def LaneAt.misaligned (x : LaneAt) (t : Ty) (sh : VShape) : Bool :=
  match sh with
  | .rows true => x.al % 256 != 0
  | .rows false => x.va % fmtBytes t != 0
  | .lanes _ => x.va % 4 != 0

/-- A lane's trap. -/
def laneTrap (t : Ty) (cause : Nat) (x : LaneAt) : Trap := { cause := cause, addr := x.va, lane := some (laneRc t.cols x.lane) }

/-- The first of a check's failures, over every lane. -/
def firstTrap (ls : List LaneAt) (f : LaneAt → Option Trap) : Option Trap := ls.findSome? f

/-- The window check of one lane (R181, R182), with R185's refusal of control space as a part of it (assumption 35). -/
def laneWindow (s : State) (w : Who) (t : Ty) (x : LaneAt) : Option Trap :=
  match window s w x.va (fmtBytes t) with
  | .error e => some (laneTrap t e.cause x)
  | .ok _ => if isCtl x.va then some (laneTrap t cCTLACCESS x) else none

/-- The locations of all lanes, or the first lane's fault; every lane's window has been checked. -/
def locateLanes (s : State) (w : Who) (need : Need) (t : Ty) : List LaneAt → Except Trap (List (LaneAt × Nat))
  | [] => .ok []
  | x :: xs =>
    match resolve s w need x.va (fmtBytes t) with
    | .error e => .error { laneTrap t e.cause x with aux := e.aux.toNat }
    | .ok loc =>
      match locateLanes s w need t xs with
      | .error e => .error e
      | .ok ls => .ok ((x, loc) :: ls)

/-- The checks of R157 and R166 in their order: bound, format, alignment, rights, extents, window, translation. -/
def vmemLanes (s : State) (h : QEntry) (t : Ty) (addr : VAddr) (sh : VShape) (write : Bool) (m : MaskData) :
    Except Trap (List (LaneAt × Nat)) :=
  let c := s.myCore
  let stream := match addr with | .stream _ => true | .base _ _ => false
  let qn := match addr with | .stream q => q.toNat | .base _ _ => 0
  let e := h.sa.entry
  if stream && !h.sa.bound then .error { cause := cQUNBOUND, aux := qn }
  else if stream && (entFmt e = .mx4 || entFmt e = .f6a || entFmt e = .f6b || fmtBytes (entFmt e) != fmtBytes t) then
    .error { cause := cQFMT, aux := qn }
  else
    let ls := ((List.range t.lanes).filter fun j => laneOn m t.bits j).map (laneAt c h t stream sh)
    let align := firstTrap ls fun x => if x.misaligned t sh then some (laneTrap t cVALIGN x) else none
    let right := firstTrap ls fun x =>
      if stream && !entRight e (if write then 1 else 0) then some { laneTrap t cQRIGHTS x with aux := qn } else none
    let ext := firstTrap ls fun x =>
      match x.pos with
      | some p => if entIn e p then none else some { laneTrap t cQBOUNDS x with aux := qn }
      | none => none
    match align <|> right <|> ext <|> firstTrap ls (laneWindow s (s.whoCore s.me) t) with
    | some t => .error t
    | none => locateLanes s (s.whoCore s.me) (if write then .wr else .rd) t ls

/-- Neighbouring pieces that follow one another within one core's near scratch, or outside it, are one access. -/
def mergeRuns : List (Nat × List Byte) → List (Nat × List Byte)
  | [] => []
  | (l, b) :: rest =>
    match mergeRuns rest with
    | (l2, b2) :: more => if l + b.length = l2 && l2 % nearSize != 0 then (l, b ++ b2) :: more else (l, b) :: (l2, b2) :: more
    | [] => [(l, b)]

/-- The own watchpoints of a vector word: the lowest lane that matches is reported, and every slot that a lane matches is noted. -/
def vmemWatch (s : State) (h : QEntry) (t : Ty) (write : Bool) (ls : List (LaneAt × Nat)) : Except Trap State :=
  match ls.find? fun x => (s.myCore.wpMatch write x.2 (fmtBytes t)).isSome with
  | none => .ok s
  | some x =>
    match s.watchOwn s.me (wordStage h.word) h.noWatch write x.1.va x.2 (fmtBytes t)
        (ls.foldl (fun b y => b ||| s.myCore.wpHits write y.2 (fmtBytes t)) 0) with
    | .ok s => .ok s
    | .error e => .error { e with lane := some (laneRc t.cols x.1.lane) }

/-- The base register's advance (R154). -/
def State.postInc (s : State) (h : QEntry) (addr : VAddr) : State :=
  match addr with
  | .base b (some n) => s.updMe fun c => c.putBank false (b.setWidth 6) (h.scalar + 256 * n.signExtend 64)
  | _ => s

/-- The lanes read: for a gather through the read staging, else at their level. -/
def readLanes (g w : Nat) (gather : Bool) : List (LaneAt × Nat) → State → List (Nat × Nat) × State
  | [], s => ([], s)
  | (x, loc) :: ls, s =>
    let r := if gather then s.weakRead g loc w else (s.coreBytes g loc w, s)
    let t := readLanes g w gather ls r.2
    ((x.lane, bytesNat r.1) :: t.1, t.2)

/-- Values given for some lanes, in rising lane order, as a list over all lanes from `j`. -/
def spread : Nat → Nat → List (Nat × Nat) → List (Option Nat)
  | 0, _, _ => []
  | n + 1, j, [] => none :: spread n (j + 1) []
  | n + 1, j, (k, v) :: xs => if k = j then some v :: spread n (j + 1) xs else none :: spread n (j + 1) ((k, v) :: xs)

/-- A vector load. -/
def vload (p : Engw) (t : Ty) (d : BitVec 5) (addr : VAddr) (sh : VShape) (m : BitVec 3) (s : State) : Out :=
  engineWord .load p (fun h s =>
    match vmemLanes s h t addr sh false (s.myCore.mask m) with
    | .error e => .error e
    | .ok ls =>
      match ls.find? fun x => s.unc x.2 (fmtBytes t) with
      | some x => .error (laneTrap t cMEMUNC x.1)
      | none =>
        match vmemWatch s h t false ls with
        | .error e => .error e
        | .ok s =>
          let gather := match sh with | .lanes _ => true | .rows _ => false
          let r := readLanes s.me (fmtBytes t) gather ls s
          let s := if gather then r.2
            else (mergeRuns (ls.map fun x => (x.2, List.replicate (fmtBytes t) 0))).foldl
              (fun s x => s.homeRead s.me x.1 x.2.length) r.2
          let s := s.postInc h addr
          vMoved t.bits d (spread t.lanes 0 r.1) s) s

/-- The bytes that a vector store writes, lane by lane. -/
def storeBytes (c : Core) (t : Ty) (d : BitVec 5) (ls : List (LaneAt × Nat)) : List (Nat × List Byte) :=
  ls.map fun x => (x.2, natBytes (fmtBytes t) (laneOf t.bits (c.vreg d) x.1.lane))

/-- A vector store: rows as whole runs, a scatter lane after lane (R156). -/
def vstore (p : Engw) (t : Ty) (d : BitVec 5) (addr : VAddr) (sh : VShape) (m : BitVec 3) (s : State) : Out :=
  engineWord .store p (fun h s =>
    match vmemLanes s h t addr sh true (s.myCore.mask m) with
    | .error e => .error e
    | .ok ls =>
      match vmemWatch s h t true ls with
      | .error e => .error e
      | .ok s =>
        let bs := storeBytes s.myCore t d ls
        let bs := match sh with | .lanes _ => bs | .rows _ => mergeRuns bs
        .ok { st := (bs.foldl (fun s x => s.engineWrite s.me x.1 x.2) s).postInc h addr }) s

def execVld (p : Engw) (ty : Ty) (d : BitVec 5) (addr : VAddr) (m : BitVec 3) (s : State) : Out :=
  vload p ty d addr (.rows true) m s

def execVst (p : Engw) (ty : Ty) (d : BitVec 5) (addr : VAddr) (m : BitVec 3) (s : State) : Out :=
  vstore p ty d addr (.rows true) m s

def execVlda (p : Engw) (ty : Ty) (d : BitVec 5) (addr : VAddr) (m : BitVec 3) (s : State) : Out :=
  vload p ty d addr (.rows false) m s

def execVsta (p : Engw) (ty : Ty) (d : BitVec 5) (addr : VAddr) (m : BitVec 3) (s : State) : Out :=
  vstore p ty d addr (.rows false) m s

def execVgth (p : Engw) (ty : Ty) (d : BitVec 5) (addr : VAddr) (c : BitVec 5) (m : BitVec 3) (s : State) : Out :=
  vload p ty d addr (.lanes c) m s

def execVsct (p : Engw) (ty : Ty) (d : BitVec 5) (addr : VAddr) (c : BitVec 5) (m : BitVec 3) (s : State) : Out :=
  vstore p ty d addr (.lanes c) m s

end Sys2Proof.Machine
end

