-- ==== Sys2Proof/Machine/Dispatch.lean ====
section
/-!
DEFINITION. One arm for each constructor of `Instr`: a direct call of its meaning, or its rejection by name.
-/

namespace Sys2Proof.Machine

def exec (i : Instr) (s : State) : Host.Outcome State Fault Refusal :=
  match i with
  | .add q d a b => Sys2Proof.Machine.execAdd q d a b s
  | .sub q d a b => Sys2Proof.Machine.execSub q d a b s
  | .addx q d a b k => Sys2Proof.Machine.execAddx q d a b k s
  | .lea q d a b sh => Sys2Proof.Machine.execLea q d a b sh s
  | .min q d a b => Sys2Proof.Machine.execMin q d a b s
  | .max q d a b => Sys2Proof.Machine.execMax q d a b s
  | .minn q d a b => Sys2Proof.Machine.execMinn q d a b s
  | .maxn q d a b => Sys2Proof.Machine.execMaxn q d a b s
  | .and q d a b => Sys2Proof.Machine.execAnd q d a b s
  | .or q d a b => Sys2Proof.Machine.execOr q d a b s
  | .xor q d a b => Sys2Proof.Machine.execXor q d a b s
  | .andn q d a b => Sys2Proof.Machine.execAndn q d a b s
  | .orn q d a b => Sys2Proof.Machine.execOrn q d a b s
  | .sel q d a b k => Sys2Proof.Machine.execSel q d a b k s
  | .shl q d a b => Sys2Proof.Machine.execShl q d a b s
  | .shr q d a b => Sys2Proof.Machine.execShr q d a b s
  | .sar q d a b => Sys2Proof.Machine.execSar q d a b s
  | .rol q d a b => Sys2Proof.Machine.execRol q d a b s
  | .ror q d a b => Sys2Proof.Machine.execRor q d a b s
  | .fshl q d a b c => Sys2Proof.Machine.execFshl q d a b c s
  | .fshr q d a b c => Sys2Proof.Machine.execFshr q d a b c s
  | .clz q d a => Sys2Proof.Machine.execClz q d a s
  | .ctz q d a => Sys2Proof.Machine.execCtz q d a s
  | .popc q d a => Sys2Proof.Machine.execPopc q d a s
  | .brev q d a => Sys2Proof.Machine.execBrev q d a s
  | .bswp q d a => Sys2Proof.Machine.execBswp q d a s
  | .mul q d a b => Sys2Proof.Machine.execMul q d a b s
  | .mulh q d a b => Sys2Proof.Machine.execMulh q d a b s
  | .mulhn q d a b => Sys2Proof.Machine.execMulhn q d a b s
  | .div q d a b => Sys2Proof.Machine.execDiv q d a b s
  | .divn q d a b => Sys2Proof.Machine.execDivn q d a b s
  | .rem q d a b => Sys2Proof.Machine.execRem q d a b s
  | .remn q d a b => Sys2Proof.Machine.execRemn q d a b s
  | .cmp q cond t a b => Sys2Proof.Machine.execCmp q cond t a b s
  | .addi q d a imm => Sys2Proof.Machine.execAddi q d a imm s
  | .andi q d a imm => Sys2Proof.Machine.execAndi q d a imm s
  | .ori q d a imm => Sys2Proof.Machine.execOri q d a imm s
  | .xori q d a imm => Sys2Proof.Machine.execXori q d a imm s
  | .shli q d a imm => Sys2Proof.Machine.execShli q d a imm s
  | .shri q d a imm => Sys2Proof.Machine.execShri q d a imm s
  | .sari q d a imm => Sys2Proof.Machine.execSari q d a imm s
  | .bfx q d a pos len => Sys2Proof.Machine.execBfx q d a pos len s
  | .bfxn q d a pos len => Sys2Proof.Machine.execBfxn q d a pos len s
  | .bfi q d a pos len => Sys2Proof.Machine.execBfi q d a pos len s
  | .cmpi q cond t a imm => Sys2Proof.Machine.execCmpi q cond t a imm s
  | .li q d imm => Sys2Proof.Machine.execLi q d imm s
  | .lih q d imm => Sys2Proof.Machine.execLih q d imm s
  | .fadd q ty rm d a b => Sys2Proof.Machine.execFadd q ty rm d a b s
  | .fsub q ty rm d a b => Sys2Proof.Machine.execFsub q ty rm d a b s
  | .fmul q ty rm d a b => Sys2Proof.Machine.execFmul q ty rm d a b s
  | .ffma q ty rm d a b c => Sys2Proof.Machine.execFfma q ty rm d a b c s
  | .fdiv q ty rm d a b => Sys2Proof.Machine.execFdiv q ty rm d a b s
  | .fsqrt q ty rm d a => Sys2Proof.Machine.execFsqrt q ty rm d a s
  | .fmin q ty d a b => Sys2Proof.Machine.execFmin q ty d a b s
  | .fmax q ty d a b => Sys2Proof.Machine.execFmax q ty d a b s
  | .fcmp q ty cond t a b => Sys2Proof.Machine.execFcmp q ty cond t a b s
  | .fcvt q dst src rm d a => Sys2Proof.Machine.execFcvt q dst src rm d a s
  | .fclass q ty d a => Sys2Proof.Machine.execFclass q ty d a s
  | .br off => Sys2Proof.Machine.execBr off s
  | .bc k neg off => Sys2Proof.Machine.execBc k neg off s
  | .jmpr a => Sys2Proof.Machine.execJmpr a s
  | .call off => Sys2Proof.Machine.execCall off s
  | .callr a => Sys2Proof.Machine.execCallr a s
  | .ubz off => Sys2Proof.Machine.execUbz off s
  | .ubnz off => Sys2Proof.Machine.execUbnz off s
  | .loop lv a off => Sys2Proof.Machine.execLoop lv a off s
  | .ploop lv a nst off => Sys2Proof.Machine.execPloop lv a nst off s
  | .lend lv off => Sys2Proof.Machine.execLend lv off s
  | .lbrk lv off => Sys2Proof.Machine.execLbrk lv off s
  | .join tag => Sys2Proof.Machine.execJoin tag s
  | .detq d => Sys2Proof.Machine.execDetq d s
  | .ldb q d a sc o off => Sys2Proof.Machine.execLdb q d a sc o off s
  | .ldh q d a sc o off => Sys2Proof.Machine.execLdh q d a sc o off s
  | .ldw q d a sc o off => Sys2Proof.Machine.execLdw q d a sc o off s
  | .ldd q d a sc o off => Sys2Proof.Machine.execLdd q d a sc o off s
  | .ldbn q d a sc o off => Sys2Proof.Machine.execLdbn q d a sc o off s
  | .ldhn q d a sc o off => Sys2Proof.Machine.execLdhn q d a sc o off s
  | .ldwn q d a sc o off => Sys2Proof.Machine.execLdwn q d a sc o off s
  | .stb q src a sc o off => Sys2Proof.Machine.execStb q src a sc o off s
  | .sth q src a sc o off => Sys2Proof.Machine.execSth q src a sc o off s
  | .stw q src a sc o off => Sys2Proof.Machine.execStw q src a sc o off s
  | .std q src a sc o off => Sys2Proof.Machine.execStd q src a sc o off s
  | .engineEnqueue w => Sys2Proof.Machine.execEngineEnqueue w s
  | .vadd p ty d a b m => Sys2Proof.Machine.execVadd p ty d a b m s
  | .vsub p ty d a b m => Sys2Proof.Machine.execVsub p ty d a b m s
  | .vmul p ty d a b m => Sys2Proof.Machine.execVmul p ty d a b m s
  | .vfma p ty d a b c m => Sys2Proof.Machine.execVfma p ty d a b c m s
  | .vfms p ty d a b c m => Sys2Proof.Machine.execVfms p ty d a b c m s
  | .vmin p ty d a b m => Sys2Proof.Machine.execVmin p ty d a b m s
  | .vmax p ty d a b m => Sys2Proof.Machine.execVmax p ty d a b m s
  | .vabs p ty d a m => Sys2Proof.Machine.execVabs p ty d a m s
  | .vneg p ty d a m => Sys2Proof.Machine.execVneg p ty d a m s
  | .vand p d a b m => Sys2Proof.Machine.execVand p d a b m s
  | .vor p d a b m => Sys2Proof.Machine.execVor p d a b m s
  | .vxor p d a b m => Sys2Proof.Machine.execVxor p d a b m s
  | .vnot p d a m => Sys2Proof.Machine.execVnot p d a m s
  | .vshl p ty d a b m => Sys2Proof.Machine.execVshl p ty d a b m s
  | .vshr p ty d a b m => Sys2Proof.Machine.execVshr p ty d a b m s
  | .vsar p ty d a b m => Sys2Proof.Machine.execVsar p ty d a b m s
  | .vbfx p ty d a lenm1 pos m => Sys2Proof.Machine.execVbfx p ty d a lenm1 pos m s
  | .vfsh p ty d a b c m => Sys2Proof.Machine.execVfsh p ty d a b c m s
  | .vclz p ty d a m => Sys2Proof.Machine.execVclz p ty d a m s
  | .vpopc p ty d a m => Sys2Proof.Machine.execVpopc p ty d a m s
  | .vcmp p ty cond t a b m => Sys2Proof.Machine.execVcmp p ty cond t a b m s
  | .vsel p d a b k => Sys2Proof.Machine.execVsel p d a b k s
  | .vmov p d a m => Sys2Proof.Machine.execVmov p d a m s
  | .vli p ty d imm m => Sys2Proof.Machine.execVli p ty d imm m s
  | .vext p ty d a row col => Sys2Proof.Machine.execVext p ty d a row col s
  | .vins p ty d a row col m => Sys2Proof.Machine.execVins p ty d a row col m s
  | .vcvt p dst src d a part rm m => Sys2Proof.Machine.execVcvt p dst src d a part rm m s
  | .vqnt p ty cmpd d a part rm m => Sys2Proof.Machine.execVqnt p ty cmpd d a part rm m s
  | .vdqnt p ty cmpd d a part m => Sys2Proof.Machine.execVdqnt p ty cmpd d a part m s
  | .vpack6 p ty d a part m => Sys2Proof.Machine.execVpack6 p ty d a part m s
  | .vunpk6 p dst src d a part rm m => Sys2Proof.Machine.execVunpk6 p dst src d a part rm m s
  | .vhad p ty d a n m => Sys2Proof.Machine.execVhad p ty d a n m s
  | .vrotr p ty d a k m => Sys2Proof.Machine.execVrotr p ty d a k m s
  | .vrotc p ty d a k m => Sys2Proof.Machine.execVrotc p ty d a k m s
  | .vbcr p ty d a k m => Sys2Proof.Machine.execVbcr p ty d a k m s
  | .vbcc p ty d a k m => Sys2Proof.Machine.execVbcc p ty d a k m s
  | .vredr p op ty d a m => Sys2Proof.Machine.execVredr p op ty d a m s
  | .vredc p op ty d a m => Sys2Proof.Machine.execVredc p op ty d a m s
  | .vscanr p op ty d a m => Sys2Proof.Machine.execVscanr p op ty d a m s
  | .vhist p ty d a pos m => Sys2Proof.Machine.execVhist p ty d a pos m s
  | .vrkey p ty d a m => Sys2Proof.Machine.execVrkey p ty d a m s
  | .vselk p d a b km1 m => Sys2Proof.Machine.execVselk p d a b km1 m s
  | .vcomp p ty d a m => Sys2Proof.Machine.execVcomp p ty d a m s
  | .vlut p ty d a b m => Sys2Proof.Machine.execVlut p ty d a b m s
  | .vld p ty d addr m => Sys2Proof.Machine.execVld p ty d addr m s
  | .vst p ty d addr m => Sys2Proof.Machine.execVst p ty d addr m s
  | .vlda p ty d addr m => Sys2Proof.Machine.execVlda p ty d addr m s
  | .vsta p ty d addr m => Sys2Proof.Machine.execVsta p ty d addr m s
  | .vgth p ty d addr c m => Sys2Proof.Machine.execVgth p ty d addr c m s
  | .vsct p ty d addr c m => Sys2Proof.Machine.execVsct p ty d addr c m s
  | .mpush p k => Sys2Proof.Machine.execMpush p k s
  | .minv p => Sys2Proof.Machine.execMinv p s
  | .mpop p => Sys2Proof.Machine.execMpop p s
  | .mset p t v => Sys2Proof.Machine.execMset p t v s
  | .mmov p t k => Sys2Proof.Machine.execMmov p t k s
  | .many p t k => Sys2Proof.Machine.execMany p t k s
  | .mnone p t k => Sys2Proof.Machine.execMnone p t k s
  | .mcnt p d k => Sys2Proof.Machine.execMcnt p d k s
  | .vexp p ty d a m => Sys2Proof.Machine.execVexp p ty d a m s
  | .vexp2 p ty d a m => Sys2Proof.Machine.execVexp2 p ty d a m s
  | .vlog2 p ty d a m => Sys2Proof.Machine.execVlog2 p ty d a m s
  | .vrcp p ty d a m => Sys2Proof.Machine.execVrcp p ty d a m s
  | .vrsq p ty d a m => Sys2Proof.Machine.execVrsq p ty d a m s
  | .vsqrt p ty d a m => Sys2Proof.Machine.execVsqrt p ty d a m s
  | .vsin p ty d a m => Sys2Proof.Machine.execVsin p ty d a m s
  | .vcos p ty d a m => Sys2Proof.Machine.execVcos p ty d a m s
  | .vtanh p ty d a m => Sys2Proof.Machine.execVtanh p ty d a m s
  | .qbind q qa obj => Sys2Proof.Machine.execQbind q qa obj s
  | .qpos q qa src => Sys2Proof.Machine.execQpos q qa src s
  | .qadv q qa n => Sys2Proof.Machine.execQadv q qa n s
  | .mma p ty alt td qa b n => Sys2Proof.Machine.execMma p ty alt td qa b n s
  | .mmas p ty alt td qa b n rowsm1 colsm1 => Sys2Proof.Machine.execMmas p ty alt td qa b n rowsm1 colsm1 s
  | .mzero p td => Sys2Proof.Machine.execMzero p td s
  | .mrd p ty rm qa td => Sys2Proof.Machine.execMrd p ty rm qa td s
  | .mwr p td qa => Sys2Proof.Machine.execMwr p td qa s
  | .mldw p ty packed qa => Sys2Proof.Machine.execMldw p ty packed qa s
  | .ptrn p ty d a b m => Sys2Proof.Machine.execPtrn p ty d a b m s
  | .pshf p ty d a b m => Sys2Proof.Machine.execPshf p ty d a b m s
  | .prot p ty d a k m => Sys2Proof.Machine.execProt p ty d a k m s
  | .pzip p high ty d a b m => Sys2Proof.Machine.execPzip p high ty d a b m s
  | .cpy q sd a flag rel => Sys2Proof.Machine.execCpy q sd a flag rel s
  | .cpym q sd a flag rel => Sys2Proof.Machine.execCpym q sd a flag rel s
  | .gthr q sd a flag rel cntm1 => Sys2Proof.Machine.execGthr q sd a flag rel cntm1 s
  | .red q sd a flag rel ordered op ty srcs => Sys2Proof.Machine.execRed q sd a flag rel ordered op ty srcs s
  | .send q sd a flag rel => Sys2Proof.Machine.execSend q sd a flag rel s
  | .xlat q sd a flag rel => Sys2Proof.Machine.execXlat q sd a flag rel s
  | .aadd q w64 sc o d a b => Sys2Proof.Machine.execAadd q w64 sc o d a b s
  | .aand q w64 sc o d a b => Sys2Proof.Machine.execAand q w64 sc o d a b s
  | .aor q w64 sc o d a b => Sys2Proof.Machine.execAor q w64 sc o d a b s
  | .axor q w64 sc o d a b => Sys2Proof.Machine.execAxor q w64 sc o d a b s
  | .amin q w64 sc o d a b => Sys2Proof.Machine.execAmin q w64 sc o d a b s
  | .amax q w64 sc o d a b => Sys2Proof.Machine.execAmax q w64 sc o d a b s
  | .aminn q w64 sc o d a b => Sys2Proof.Machine.execAminn q w64 sc o d a b s
  | .amaxn q w64 sc o d a b => Sys2Proof.Machine.execAmaxn q w64 sc o d a b s
  | .axchg q w64 sc o d a b => Sys2Proof.Machine.execAxchg q w64 sc o d a b s
  | .acas q w64 sc o d a b c => Sys2Proof.Machine.execAcas q w64 sc o d a b c s
  | .afadd q sc o d a b => Sys2Proof.Machine.execAfadd q sc o d a b s
  | .fence q sc o => Sys2Proof.Machine.execFence q sc o s
  | .waita q sc o d a b t => Sys2Proof.Machine.execWaita q sc o d a b t s
  | .fsig q die d a b obj => Sys2Proof.Machine.execFsig q die d a b obj s
  | .fset q die d a b obj => Sys2Proof.Machine.execFset q die d a b obj s
  | .fwait q die d a b obj e => Sys2Proof.Machine.execFwait q die d a b obj e s
  | .fread q die d a obj => Sys2Proof.Machine.execFread q die d a obj s
  | .rclm q d a ring e => Sys2Proof.Machine.execRclm q d a ring e s
  | .rpub q d a ring => Sys2Proof.Machine.execRpub q d a ring s
  | .rwf q d a ring e => Sys2Proof.Machine.execRwf q d a ring e s
  | .rrel q d a ring => Sys2Proof.Machine.execRrel q d a ring s
  | .rinfo q d a ring => Sys2Proof.Machine.execRinfo q d a ring s
  | .binit q b count => Sys2Proof.Machine.execBinit q b count s
  | .bara q d b => Sys2Proof.Machine.execBara q d b s
  | .barw q d b => Sys2Proof.Machine.execBarw q d b s
  | .barq q d b => Sys2Proof.Machine.execBarq q d b s
  | .tkq q d t => Sys2Proof.Machine.execTkq q d t s
  | .tsub q d a b flag => Sys2Proof.Machine.execTsub q d a b flag s
  | .tdep q d a b nm1 => Sys2Proof.Machine.execTdep q d a b nm1 s
  | .tcan q d a => Sys2Proof.Machine.execTcan q d a s
  | .tqry q d a obj sel => Sys2Proof.Machine.execTqry q d a obj sel s
  | .xqpush q a queue => Sys2Proof.Machine.execXqpush q a queue s
  | .xqtake q d a b queue maxm1 => Sys2Proof.Machine.execXqtake q d a b queue maxm1 s
  | .xqcomb q ty d a b flag km1 => Sys2Proof.Machine.execXqcomb q ty d a b flag km1 s
  | .srch q d a b ring => Sys2Proof.Machine.execSrch q d a b ring s
  | .ixapp q d a flag => Sys2Proof.Machine.execIxapp q d a flag s
  | .kvbind q d a b flag => Sys2Proof.Machine.execKvbind q d a b flag s
  | .kvlookPos q d a b => Sys2Proof.Machine.execKvlookPos q d a b s
  | .kvlookPsg q d a b => Sys2Proof.Machine.execKvlookPsg q d a b s
  | .kvlookPfx q d a b => Sys2Proof.Machine.execKvlookPfx q d a b s
  | .kvposPos q d a b c => Sys2Proof.Machine.execKvposPos q d a b c s
  | .kvposPfx q d a b c => Sys2Proof.Machine.execKvposPfx q d a b c s
  | .astart q d a flag => Sys2Proof.Machine.execAstart q d a flag s
  | .csrr d csr => Sys2Proof.Machine.execCsrr d csr s
  | .csrw a csr => Sys2Proof.Machine.execCsrw a csr s
  | .fpCtrlWrite a => Sys2Proof.Machine.execFpCtrlWrite a s
  | .stochSeedWrite a => Sys2Proof.Machine.execStochSeedWrite a s
  | .cmpdTableWrite a csr => Sys2Proof.Machine.execCmpdTableWrite a csr s
  | .cmpdArm a => Sys2Proof.Machine.execCmpdArm a s
  | .syscBadcall n => Sys2Proof.Machine.execSyscBadcall n s
  | .trmark a imm => Sys2Proof.Machine.execTrmark a imm s
  | .wpset a d slot sc kind => Sys2Proof.Machine.execWpset a d slot sc kind s
  | .dbrk tag => Sys2Proof.Machine.execDbrk tag s
  | .pavaneLit n => Sys2Proof.Machine.execPavaneLit n s
  | .pavaneLith n => Sys2Proof.Machine.execPavaneLith n s
  | .pavaneParm k => Sys2Proof.Machine.execPavaneParm k s
  | .pavaneJmp off => Sys2Proof.Machine.execPavaneJmp off s
  | .pavaneBz off => Sys2Proof.Machine.execPavaneBz off s
  | .pavaneDjnz off => Sys2Proof.Machine.execPavaneDjnz off s
  | .pavaneWait g => Sys2Proof.Machine.execPavaneWait g s
  | .pavaneSig f => Sys2Proof.Machine.execPavaneSig f s
  | .pavaneKvblk region b => Sys2Proof.Machine.execPavaneKvblk region b s
  | .pavaneQk b => Sys2Proof.Machine.execPavaneQk b s
  | .pavaneSoft b => Sys2Proof.Machine.execPavaneSoft b s
  | .pavanePv b => Sys2Proof.Machine.execPavanePv b s
  | .ret => Sys2Proof.Machine.execRet s
  | .exit => Sys2Proof.Machine.execExit s
  | .nop => Sys2Proof.Machine.execNop s
  | .hret => Sys2Proof.Machine.execHret s
  | .pavaneDup => Sys2Proof.Machine.execPavaneDup s
  | .pavaneDrop => Sys2Proof.Machine.execPavaneDrop s
  | .pavaneSwap => Sys2Proof.Machine.execPavaneSwap s
  | .pavaneOver => Sys2Proof.Machine.execPavaneOver s
  | .pavaneAdd => Sys2Proof.Machine.execPavaneAdd s
  | .pavaneSub => Sys2Proof.Machine.execPavaneSub s
  | .pavaneMul => Sys2Proof.Machine.execPavaneMul s
  | .pavaneHalt => Sys2Proof.Machine.execPavaneHalt s
  | .pavaneFinal => Sys2Proof.Machine.execPavaneFinal s
  | .pavaneTriple => Sys2Proof.Machine.execPavaneTriple s
  | .pavaneMerge => Sys2Proof.Machine.execPavaneMerge s
  | .pavaneRev => Sys2Proof.Machine.execPavaneRev s
  | .syscVersion => Sys2Proof.Machine.execSyscVersion s
  | .syscObjset => Sys2Proof.Machine.execSyscObjset s
  | .syscObjdel => Sys2Proof.Machine.execSyscObjdel s
  | .syscRingset => Sys2Proof.Machine.execSyscRingset s
  | .syscXqset => Sys2Proof.Machine.execSyscXqset s
  | .syscMap => Sys2Proof.Machine.execSyscMap s
  | .syscUnmap => Sys2Proof.Machine.execSyscUnmap s
  | .syscPreempt => Sys2Proof.Machine.execSyscPreempt s
  | .syscSwitch => Sys2Proof.Machine.execSyscSwitch s
  | .syscPreset => Sys2Proof.Machine.execSyscPreset s
  | .syscPower => Sys2Proof.Machine.execSyscPower s
  | .syscCkpt => Sys2Proof.Machine.execSyscCkpt s
  | .syscAttest => Sys2Proof.Machine.execSyscAttest s
  | .engineResultWrite => Sys2Proof.Machine.execEngineResultWrite s
  | .monitorWake => Sys2Proof.Machine.execMonitorWake s
  | .waitaTimeout => Sys2Proof.Machine.execWaitaTimeout s
  | .flagWaitReturn => Sys2Proof.Machine.execFlagWaitReturn s
  | .fwaitTimeout => Sys2Proof.Machine.execFwaitTimeout s
  | .ringWaitReturn => Sys2Proof.Machine.execRingWaitReturn s
  | .ringWaitTimeout => Sys2Proof.Machine.execRingWaitTimeout s
  | .ringDelivery => Sys2Proof.Machine.execRingDelivery s
  | .barrierWaitReturn => Sys2Proof.Machine.execBarrierWaitReturn s
  | .xqcombCombine => Sys2Proof.Machine.execXqcombCombine s
  | .ixappDurable => Sys2Proof.Machine.execIxappDurable s
  | .kvbindComplete => Sys2Proof.Machine.execKvbindComplete s
  | .phasetimeExpiry => Sys2Proof.Machine.execPhasetimeExpiry s
  | .tokdeadExpiry => Sys2Proof.Machine.execTokdeadExpiry s
  | .waitInterrupt => Sys2Proof.Machine.execWaitInterrupt s
  | .joinTimeout => Sys2Proof.Machine.execJoinTimeout s
  | .quadrilleDecode => Sys2Proof.Machine.execQuadrilleDecode s
  | .lineRefill => Sys2Proof.Machine.execLineRefill s
  | .loadResponse => Sys2Proof.Machine.execLoadResponse s
  | .smbDrainStart => Sys2Proof.Machine.execSmbDrainStart s
  | .smbDrainComplete => Sys2Proof.Machine.execSmbDrainComplete s
  | .stagingExpire => Sys2Proof.Machine.execStagingExpire s
  | .copyCommandComplete => Sys2Proof.Machine.execCopyCommandComplete s
  | .redContribution => Sys2Proof.Machine.execRedContribution s
  | .peerPayloadArrival => Sys2Proof.Machine.execPeerPayloadArrival s
  | .linkPortFail => Sys2Proof.Machine.execLinkPortFail s
  | .taskComplete => Sys2Proof.Machine.execTaskComplete s
  | .dispatchSlot => Sys2Proof.Machine.execDispatchSlot s
  | .nodePromote => Sys2Proof.Machine.execNodePromote s
  | .nodeOffer => Sys2Proof.Machine.execNodeOffer s
  | .nodeTransferArrive => Sys2Proof.Machine.execNodeTransferArrive s
  | .galliardPreemptRequest => Sys2Proof.Machine.execGalliardPreemptRequest s
  | .cancelToken => Sys2Proof.Machine.execCancelToken s
  | .instanceEnd => Sys2Proof.Machine.execInstanceEnd s
  | .hostTailWrite => Sys2Proof.Machine.execHostTailWrite s
  | .hostHeadWrite => Sys2Proof.Machine.execHostHeadWrite s
  | .hostHdmAccess => Sys2Proof.Machine.execHostHdmAccess s
  | .cmdNop => Sys2Proof.Machine.execCmdNop s
  | .cmdLaunch => Sys2Proof.Machine.execCmdLaunch s
  | .cmdCancel => Sys2Proof.Machine.execCmdCancel s
  | .cmdFence => Sys2Proof.Machine.execCmdFence s
  | .cmdqBrkResume => Sys2Proof.Machine.execCmdqBrkResume s
  | .hostRegisterWrite => Sys2Proof.Machine.execHostRegisterWrite s
  | .msixCoalesceExpire => Sys2Proof.Machine.execMsixCoalesceExpire s
  | .xqAgeDue => Sys2Proof.Machine.execXqAgeDue s
  | .xqFiringSlot => Sys2Proof.Machine.execXqFiringSlot s
  | .flashReadComplete => Sys2Proof.Machine.execFlashReadComplete s
  | .indexMergeCommit => Sys2Proof.Machine.execIndexMergeCommit s
  | .pavaneMergeTimeout => Sys2Proof.Machine.execPavaneMergeTimeout s
  | .pvlost => Sys2Proof.Machine.execPvlost s
  | .msetlost => Sys2Proof.Machine.execMsetlost s
  | .debugHaltRequest => Sys2Proof.Machine.execDebugHaltRequest s
  | .debugSessionAccess => Sys2Proof.Machine.execDebugSessionAccess s
  | .preemptStop => Sys2Proof.Machine.execPreemptStop s
  | .contextSaveComplete => Sys2Proof.Machine.execContextSaveComplete s
  | .contextResume => Sys2Proof.Machine.execContextResume s
  | .partitionResetComplete => Sys2Proof.Machine.execPartitionResetComplete s
  | .deviceReset => Sys2Proof.Machine.execDeviceReset s
  | .checkpointCommit => Sys2Proof.Machine.execCheckpointCommit s
  | .restore => Sys2Proof.Machine.execRestore s
  | .domainEpochCheckpoint => Sys2Proof.Machine.execDomainEpochCheckpoint s
  | .deviceFailureDetect => Sys2Proof.Machine.execDeviceFailureDetect s
  | .backgroundScrub => Sys2Proof.Machine.execBackgroundScrub s
  | .pavaneOperationComplete => Sys2Proof.Machine.execPavaneOperationComplete s
  | .xqSpillRefill => Sys2Proof.Machine.execXqSpillRefill s
  | .homeAcknowledgement => Sys2Proof.Machine.execHomeAcknowledgement s
  | .debugSessionAttach => Sys2Proof.Machine.execDebugSessionAttach s
  | .debugSessionDetach => Sys2Proof.Machine.execDebugSessionDetach s
  | .debugResume => Sys2Proof.Machine.execDebugResume s
  | .imageLoad => Sys2Proof.Machine.execImageLoad s
  | .indexCreate => Sys2Proof.Machine.execIndexCreate s
  | .indexRemove => Sys2Proof.Machine.execIndexRemove s
  | .galliardCtlWrite => Sys2Proof.Machine.execGalliardCtlWrite s
  | .dieScratchGrant => Sys2Proof.Machine.execDieScratchGrant s
  | .powerLoss => Sys2Proof.Machine.execPowerLoss s
  | .flitReplay => Sys2Proof.Machine.execFlitReplay s
  | .hostDumpRead => Sys2Proof.Machine.execHostDumpRead s

end Sys2Proof.Machine
end

