-- ==== Sys2Proof/Machine/Turns.lean ====
section
/-!
DEFINITION. The turns of the engines, the Pavanes and the events, who moves next, and the placing of a word where the next
step fetches it (10_retrieval_attention.md R315; assumptions in notes/assumptions for the agenda).
-/

namespace Sys2Proof.Machine

/-! ## Other turns -/

/-- A turn of engine `e` of core `g`: the head of its queue. Words that issue in one cycle issue in program order, so one that
faults has no younger word of its cycle to take back (12_recovery.md R402; assumption 2). A word waits while an older one of its engine
has rows to write. -/
def State.engineFetch (s : State) (g : Nat) (e : Eng) : Fetched :=
  let s := { s with me := g, clus := clusOf g, arg := .none }
  match ((s.core g).getEng e).queue with
  | [] => .pass s
  | h :: _ =>
    if ((s.core g).issueCycle = s.cycle && h.seq < (s.core g).issueSeq) || (s.core g).late.any (·.eng = e) then .pass s
    else
    match decodeWord h.word with
    | .error _ => .pass s
    | .ok i => .run i s

/-- The same turn with some rows of the result left to be written later (05_vector.md R128). -/
def State.engineLateFetch (s : State) (g : Nat) (e : Eng) (rows : List Nat) : Fetched :=
  match s.engineFetch g e with
  | .run i s => .runLate i s g e rows
  | x => x

/-- What the instruction came to, with some rows of the result left to be written later. -/
def State.delayed (s : State) (g : Nat) (e : Eng) (rows : List Nat) (t : State) : State := t.updCore g fun c => (s.core g).delayRows c e rows

/-- A turn of cluster `k`'s Pavane: the micro-word at its pc; a word that encodes none is PVILL (10_retrieval_attention.md R315). -/
def State.pavaneFetch (s : State) (k : Nat) : Fetched :=
  let s := { s with clus := k, arg := .none }
  match (s.cluster k).pav.pass with
  | none => .pass s
  | some p =>
    match decodePavane ((s.cluster k).pav.store.get p.pc 0) with
    | some i => .run i s
    | none => if p.finals then .pass s else .pass (s.passFault k p.pc cPVILL)

/-! ## Uncorrectable errors outside LPDDR and scratch (12_recovery.md R354)

Which read meets one is nothing that the machine's state tells: the agenda says so, and a later read may meet it again. -/

/-- The word that the scalar pipe would run meets one: the word faults. A word that already waits reads nothing. -/
def State.scalarUnc (s : State) (g : Nat) : State :=
  match s.scalarFetch g with
  | .run _ t => if (s.core g).wait.isNone then t.raise g none { cause := cMEMUNC } else s
  | _ => s

/-- The word at the head of an engine's queue meets one as it issues. -/
def State.engineUnc (s : State) (g : Nat) (e : Eng) : State :=
  match s.engineFetch g e with
  | .run i t =>
    let c := t.core g
    match (c.getEng e).queue, i.engine with
    | h :: _, some (_, p) =>
      if c.holds h || !h.on || !c.tokensReady p then s
      else (t.raise g (some h) { cause := cMEMUNC, eng := some e }).updCore g (·.unmarkHead e)
    | _, _ => s
  | _ => s

/-- A place outside storage, as a dump or a saved context records it: above every location. -/
def uncPlace (i : Nat) : Nat := 2 ^ 64 + i

/-- A read of the kind named meets an uncorrectable error: it faults its word, or ends its work and cancels the owning instance, or is
recorded in what trusted firmware saves. -/
def State.uncMet (s : State) (x : UncRead) : State :=
  match x with
  | .scalar g => s.scalarUnc g
  | .engine g e => s.engineUnc g e
  | .command i =>
    match s.cmds.find? fun c => c.id = i && c.started && !c.moved && !c.applied with
    | some c => s.failCmd c cMEMUNC
    | none => s
  | .search n =>
    match s.searches.find n with
    | some y => (s.stopSearch n).raiseCancel y.inst cMEMUNC
    | none => s
  | .bind i =>
    match s.binds.find? (·.id = i) with
    | some b => { s with binds := s.binds.filter (·.id != i) }.raiseCancel b.inst cMEMUNC
    | none => s
  | .append i =>
    match s.appends.find? (·.id = i) with
    | some a => s.raiseCancel a.inst cMEMUNC
    | none => s
  | .pass k =>
    match s.passOf k with
    | some p => s.passFault k p.pc cMEMUNC
    | none => s
  | .dump p i =>
    if (s.part p).dump.openTask.isSome then
      s.updPart p fun x => { x with dump := { x.dump with unc := x.dump.unc ++ [uncPlace i] } }
    else s
  | .saving tn i =>
    match s.saved.find tn with
    | some x => { s with saved := s.saved.set tn { x with unc := x.unc ++ [uncPlace i] } }
    | none => s

/-- Whether an event's turn may run `i`: an event, or a system call of service firmware. -/
def Instr.eventOk (i : Instr) (a : Arg) : Bool :=
  i.isEvent ||
  match a with
  | .service .. =>
    (match i with
     | .syscVersion | .syscObjset | .syscObjdel | .syscRingset | .syscXqset | .syscMap | .syscUnmap | .syscPreempt
     | .syscSwitch | .syscPreset | .syscPower | .syscCkpt | .syscAttest => true
     | _ => false)
  | _ => false

def State.eventFetch (s : State) (i : Instr) (a : Arg) : Fetched :=
  let s := { s with arg := a }
  if Instr.eventOk i a then .run i s else .pass s

def State.fetchTurn (s : State) (t : Turn) : Fetched :=
  match t with
  | .scalar g => s.scalarFetch g
  | .engine g e => s.engineFetch g e
  | .engineLate g e rows => s.engineLateFetch g e rows
  | .rows g e rows => .pass (s.updCore g fun c => c.writeRows e rows.contains)
  | .pavane k => s.pavaneFetch k
  | .unc x => .pass (s.uncMet x)
  | .event i a => s.eventFetch i a

/-! ## Who moves next -/

/-- With no move listed, the agents of the device take turns by the cycle: a fixed round over the cores that run tasks. -/
def State.autoTurn (s : State) : Turn :=
  let gs := (s.tasks.map fun t => t.2.cores).flatten
  let g := if gs.length = 0 then s.me else gs.getD (s.cycle / 32 % gs.length) s.me
  let k := clusOf g
  match s.cycle % 32 with
  | 1 => .event .engineResultWrite (.unit g)
  | 2 => .engine g .load
  | 3 => .engine g .arith
  | 4 => .engine g .store
  | 5 => .engine g .matrix
  | 6 => .engine g .permute
  | 7 => .event .lineRefill (.unit g)
  | 8 => .event .quadrilleDecode (.unit k)
  | 9 => .event .homeAcknowledgement (.unit g)
  | 10 => .event .loadResponse (.unit g)
  | 11 => .event .smbDrainComplete (.unit g)
  | 12 => .event .copyCommandComplete .none
  | 13 => .pavane k
  | 14 => .event .pavaneOperationComplete (.unit k)
  | 15 => .event .flagWaitReturn (.unit g)
  | 16 => .event .ringWaitReturn (.unit g)
  | 17 => .event .barrierWaitReturn (.unit g)
  | 18 => .event .monitorWake (.unit g)
  | 19 => .event .taskComplete .none
  | 20 => .event .dispatchSlot .none
  | 21 => .event .instanceEnd .none
  | 22 => .event .cancelToken .none
  | 23 => .event .ringDelivery .none
  | _ => .scalar g

/-- The next move: the head of the agenda, else the round of `autoTurn`, one cycle later. -/
def State.nextFetch (s : State) : Fetched :=
  match s.agenda with
  | m :: ms => ({ s with agenda := ms, cycle := s.cycle + m.dt }).fetchTurn m.turn
  | [] => ({ s with cycle := s.cycle + 1 }).fetchTurn s.autoTurn

/-! ## Placing a word to be fetched -/

/-- A one-core prologue task of partition 0 on core 0, whose next word lies at the start of the code window. -/
def slotTask : Task :=
  { inst := 1, node := 0, part := 0, clus := 0, first := 0, size := 1, recAddr := 0, pro := BitVec.ofNat 64 ownClus, kern := 0,
    epi := 0, trip := 0, nst := 0, since := 0, preReq := false, haltReq := false, saving := false, preBytes := 0 }

/-- `w` as the word that core 0's scalar pipe fetches and runs next: stored in its cluster scratch and held in its buffer. -/
def State.placeScalarWord (s : State) (w : Word) : State :=
  let s := { s with
    mem := memWrite s.mem (clusLoc 0) (wordBytes 8 w)
    tasks := s.tasks.set 0 slotTask
    agenda := ⟨1, .scalar 0⟩ :: s.agenda }
  s.updCore 0 fun c =>
    { c with
      task := some 0, phase := .prologue, phaseStart := s.cycle, pc := BitVec.ofNat 64 ownClus, att := false, wait := none,
      pend := none, inh := false, stopped := false, halted := false, phaseDue := false
      lines := (0, w.setWidth 512) :: c.lines.filter fun x => x.1 != 0, badLines := [] }

/-- The engine word `i`, whose bits are `w`, at the head of engine `e`'s queue of core 0, as it enters there from the pc, and the
engine's turn as the next move. -/
def State.placeEngineWord (s : State) (w : Word) (i : Instr) (e : Eng) (p : Engw) : State :=
  let s := s.placeScalarWord w
  let counts := s.mmasCounts 0 i
  ({ s with agenda := ⟨1, .engine 0 e⟩ :: s.agenda.drop 1 }).updCore 0 fun c =>
    let x := c.getEng e
    let h := makeEntry c w i p true (if counts then c.mmasSeen + 1 else 0)
    ({ c.setEng e { x with queue := h :: x.queue } with
        seq := c.seq + 1, mmasSeen := if counts then c.mmasSeen + 1 else c.mmasSeen } : Core).advance

/-- `w` as the word that core 0 runs next: an engine word stands at the head of its queue, any other where the scalar pipe
fetches. -/
def State.placeCoreWord (s : State) (w : Word) : State :=
  match decodeWord w with
  | .ok i =>
    match i.engine with
    | some (e, p) => s.placeEngineWord w i e p
    | none => s.placeScalarWord w
  | .error _ => s.placeScalarWord w

/-- A pass of cluster 0's Pavane that stands at its first micro-word. -/
def slotPass : Pass :=
  { id := 0, part := 0, inst := 1, node := none, flag := 0, params := List.replicate 64 0, objs := [], qent := 0, oent := 0, fmt := .f32,
    pc := 0, stack := [0, 0], bufs := Vector.replicate 4 ⟨false, [], [], 0, [], []⟩, qry := [], m := [], l := [], o := [],
    revn := 0, origin := 0, hop := 0, ops := [], mergeDeadline := none }

/-- `w` as the micro-word that cluster 0's Pavane runs next. -/
def State.placeMicroWord (s : State) (w : BitVec 16) : State :=
  let s := { s with agenda := ⟨1, .pavane 0⟩ :: s.agenda }
  s.updCluster 0 fun x => { x with pav := { x.pav with store := x.pav.store.set 0 w, pass := some slotPass } }

end Sys2Proof.Machine
end

