-- ==== Sys2Proof/Machine/Step.lean ====
section
/-!
DEFINITION. One step of the device: the next move, and the whole of one row of the opcode table that it executes.
-/

namespace Sys2Proof.Machine

/-- One step. -/
def step (s : State) : Host.Outcome State Fault Refusal :=
  match s.nextFetch with
  | .pass s => .next s
  | .run i s => exec i s
  | .runLate i s g e rows =>
    match exec i s with
    | .next t => .next (s.delayed g e rows t)
    | x => x

/-- The state with an instruction of the table placed where the next step fetches: a 64-bit word of a core, or a 16-bit
micro-word of a Pavane. -/
def State.withFetchWord (s : State) (nbits w : Nat) : State :=
  if nbits ≤ 16 then s.placeMicroWord (BitVec.ofNat 16 w) else s.placeCoreWord (BitVec.ofNat 64 w)

end Sys2Proof.Machine
end

