-- ==== Sys2Proof/Laws/Codec.lean ====
section
/-!
SUPPORT. The formats of R44 read back what they were filled with, the codes of R43, R47 and R48 name what they were
taken from, and the three kinds of word decode to what their rows make.
-/

namespace Sys2Proof

set_option Elab.async false

/-! ## Codes -/

@[simp] theorem Ty.ofCode_code (t : Ty) : Ty.ofCode t.code = t := by cases t <;> rfl
@[simp] theorem Rm.ofCode_code (r : Rm) : Rm.ofCode r.code = some r := by cases r <;> rfl
@[simp] theorem Cond.ofCode_code (c : Cond) : Cond.ofCode c.code = c := by cases c <;> rfl
@[simp] theorem Scope.ofCode_code (s : Scope) : Scope.ofCode s.code = some s := by cases s <;> rfl
@[simp] theorem Ord.ofCode_code (o : Ord) : Ord.ofCode o.code = some o := by cases o <;> rfl
@[simp] theorem TokQ.ofCode_code (t : TokQ) : TokQ.ofCode t.code = some t := by cases t <;> rfl
@[simp] theorem RedOp.ofCode_code (o : RedOp) : RedOp.ofCode o.code = some o := by cases o <;> rfl
@[simp] theorem RemOp.ofCode_code (o : RemOp) : RemOp.ofCode o.code = some o := by cases o <;> rfl
@[simp] theorem WpKind.ofCode_code (k : WpKind) : WpKind.ofCode k.code = k := by cases k <;> rfl

@[simp] theorem Qual.ofFields_fields (q : Qual) : Qual.ofFields q.gate q.stg = some q := by
  cases q <;> rfl

@[simp] theorem tokField_tokCode (t : Option TokQ) : tokField (tokCode t) = some t := by
  rcases t with _ | t
  · rfl
  · cases t <;> rfl

@[simp] theorem bit_eq_one (b : Bool) : (Bool.bit b = 1#1) = (b = true) := by cases b <;> decide

/-! ## Fields of a concatenation -/

theorem fld_append_high {n m : Nat} (x : BitVec n) (y : BitVec m) (lo l : Nat) (h : m ≤ lo) :
    fld (x ++ y) lo l = fld x (lo - m) l := by
  unfold fld
  ext i hi
  simp [BitVec.getLsbD_append, show ¬ lo + i < m by omega, show lo + i - m = lo - m + i by omega]

theorem fld_append_low {n m : Nat} (x : BitVec n) (y : BitVec m) (lo l : Nat) (h : lo + l ≤ m) :
    fld (x ++ y) lo l = fld y lo l := by
  unfold fld
  ext i hi
  simp [BitVec.getLsbD_append, show lo + i < m by omega]

theorem fld_all {n : Nat} (x : BitVec n) (lo : Nat) (h : lo = 0) : fld x lo n = x := by
  subst h
  unfold fld
  ext i hi
  simp

@[simp] theorem fld_full {n : Nat} (x : BitVec n) : fld x 0 n = x := fld_all x 0 rfl

@[simp] theorem fld_zero {n : Nat} (lo l : Nat) : fld (0#n) lo l = 0#l := by
  unfold fld
  ext i hi
  simp

/-! ## Formats -/

@[simp] theorem Hd.ofWord_toWord (h : Hd) : Hd.ofWord h.toWord = h := by
  obtain ⟨a, b, c, d, e, f⟩ := h
  simp only [Hd.ofWord, Hd.toWord, Hd.mk.injEq]
  refine ⟨?_, ?_, ?_, ?_, ?_, ?_⟩ <;> (repeat (first
    | refine (fld_append_low _ _ _ _ (by decide)).trans ?_
    | refine (fld_append_high _ _ _ _ (by decide)).trans ?_)) <;> exact fld_all _ _ rfl

@[simp] theorem SF.ofBody_toBody (f : SF) : SF.ofBody f.toBody = f := by
  obtain ⟨a, b, c, d, e, g, h⟩ := f
  simp only [SF.ofBody, SF.toBody, SF.mk.injEq]
  refine ⟨?_, ?_, ?_, ?_, ?_, ?_, ?_⟩ <;> (repeat (first
    | refine (fld_append_low _ _ _ _ (by decide)).trans ?_
    | refine (fld_append_high _ _ _ _ (by decide)).trans ?_)) <;> exact fld_all _ _ rfl

@[simp] theorem IF.ofBody_toBody (f : IF) : IF.ofBody f.toBody = f := by
  obtain ⟨a, b, c⟩ := f
  simp only [IF.ofBody, IF.toBody, IF.mk.injEq]
  refine ⟨?_, ?_, ?_⟩ <;> (repeat (first
    | refine (fld_append_low _ _ _ _ (by decide)).trans ?_
    | refine (fld_append_high _ _ _ _ (by decide)).trans ?_)) <;> exact fld_all _ _ rfl

@[simp] theorem BF.ofBody_toBody (f : BF) : BF.ofBody f.toBody = f := by
  obtain ⟨a, b, c, d, e⟩ := f
  simp only [BF.ofBody, BF.toBody, BF.mk.injEq]
  refine ⟨?_, ?_, ?_, ?_, ?_⟩ <;> (repeat (first
    | refine (fld_append_low _ _ _ _ (by decide)).trans ?_
    | refine (fld_append_high _ _ _ _ (by decide)).trans ?_)) <;> exact fld_all _ _ rfl

@[simp] theorem LF.ofBody_toBody (f : LF) : LF.ofBody f.toBody = f := by
  obtain ⟨a, b, c, d⟩ := f
  simp only [LF.ofBody, LF.toBody, LF.mk.injEq]
  refine ⟨?_, ?_, ?_, ?_⟩ <;> (repeat (first
    | refine (fld_append_low _ _ _ _ (by decide)).trans ?_
    | refine (fld_append_high _ _ _ _ (by decide)).trans ?_)) <;> exact fld_all _ _ rfl

@[simp] theorem MF.ofBody_toBody (f : MF) : MF.ofBody f.toBody = f := by
  obtain ⟨a, b, c, d, e, g⟩ := f
  simp only [MF.ofBody, MF.toBody, MF.mk.injEq]
  refine ⟨?_, ?_, ?_, ?_, ?_, ?_⟩ <;> (repeat (first
    | refine (fld_append_low _ _ _ _ (by decide)).trans ?_
    | refine (fld_append_high _ _ _ _ (by decide)).trans ?_)) <;> exact fld_all _ _ rfl

@[simp] theorem VF.ofBody_toBody (f : VF) : VF.ofBody f.toBody = f := by
  obtain ⟨a, b, c, d, e, g, h, x, y⟩ := f
  simp only [VF.ofBody, VF.toBody, VF.mk.injEq]
  refine ⟨?_, ?_, ?_, ?_, ?_, ?_, ?_, ?_, ?_⟩ <;> (repeat (first
    | refine (fld_append_low _ _ _ _ (by decide)).trans ?_
    | refine (fld_append_high _ _ _ _ (by decide)).trans ?_)) <;> exact fld_all _ _ rfl

@[simp] theorem XF.ofBody_toBody (f : XF) : XF.ofBody f.toBody = f := by
  obtain ⟨a, b, c, d, e, g, h⟩ := f
  simp only [XF.ofBody, XF.toBody, XF.mk.injEq]
  refine ⟨?_, ?_, ?_, ?_, ?_, ?_, ?_⟩ <;> (repeat (first
    | refine (fld_append_low _ _ _ _ (by decide)).trans ?_
    | refine (fld_append_high _ _ _ _ (by decide)).trans ?_)) <;> exact fld_all _ _ rfl

@[simp] theorem AF.ofBody_toBody (f : AF) : AF.ofBody f.toBody = f := by
  obtain ⟨a, b, c, d, e⟩ := f
  simp only [AF.ofBody, AF.toBody, AF.mk.injEq]
  refine ⟨?_, ?_, ?_, ?_, ?_⟩ <;> (repeat (first
    | refine (fld_append_low _ _ _ _ (by decide)).trans ?_
    | refine (fld_append_high _ _ _ _ (by decide)).trans ?_)) <;> exact fld_all _ _ rfl

@[simp] theorem YF.ofBody_toBody (f : YF) : YF.ofBody f.toBody = f := by
  obtain ⟨a, b, c, d, e, g⟩ := f
  simp only [YF.ofBody, YF.toBody, YF.mk.injEq]
  refine ⟨?_, ?_, ?_, ?_, ?_, ?_⟩ <;> (repeat (first
    | refine (fld_append_low _ _ _ _ (by decide)).trans ?_
    | refine (fld_append_high _ _ _ _ (by decide)).trans ?_)) <;> exact fld_all _ _ rfl

@[simp] theorem KF.ofBody_toBody (f : KF) : KF.ofBody f.toBody = f := by
  obtain ⟨a, b, c, d⟩ := f
  simp only [KF.ofBody, KF.toBody, KF.mk.injEq]
  refine ⟨?_, ?_, ?_, ?_⟩ <;> (repeat (first
    | refine (fld_append_low _ _ _ _ (by decide)).trans ?_
    | refine (fld_append_high _ _ _ _ (by decide)).trans ?_)) <;> exact fld_all _ _ rfl

/-! ## The three kinds of word -/

theorem decode_scalar (op : BitVec 8) (q : Qual) (body : BitVec 44) (f : Qual → Instr)
    (hr : rowOf ⟨op, q.gate, q.stg, 0, 0, body⟩ = some (Row.sc true f)) (hl : (f .always).limits = true) :
    decodeWord (wSc op q body) = .ok (f q) := by
  simp only [decodeWord, wSc, Hd.ofWord_toWord, hr]
  simp [Row.sc, Maker.plain, hl, Maker.finish]

theorem decode_engine (op : BitVec 8) (p : Engw) (body : BitVec 44) (f : Engw → Instr)
    (hr : rowOf ⟨op, p.q.gate, p.q.stg, tokCode p.pop, tokCode p.push, body⟩ = some (Row.eng true f))
    (hl : (f ⟨.always, none, none⟩).limits = true) (ht : (f ⟨.always, p.pop, p.push⟩).tokens = true) :
    decodeWord (wEng op p body) = .ok (f p) := by
  simp only [decodeWord, wEng, Hd.ofWord_toWord, hr]
  simp [Row.eng, Maker.plain, hl, Maker.finish, ht]

theorem decode_bare (op : BitVec 8) (body : BitVec 44) (i : Instr)
    (hr : rowOf ⟨op, 0, 0, 0, 0, body⟩ = some (Row.bare true i)) (hl : i.limits = true) :
    decodeWord (wBare op body) = .ok i := by
  simp only [decodeWord, wBare, Hd.ofWord_toWord, hr]
  simp [Row.bare, Maker.plain, hl, Maker.finish]

/-! ## Fields of the concatenations the encoder builds -/

@[simp] theorem fld_c3t3_x (x : BitVec 3) (y : BitVec 3) : fld (x ++ y : BitVec 6) 3 3 = x := by
  repeat (first
    | refine (fld_append_low _ _ _ _ (by decide)).trans ?_
    | refine (fld_append_high _ _ _ _ (by decide)).trans ?_)
  exact fld_all _ _ rfl

@[simp] theorem fld_c3t3_y (x : BitVec 3) (y : BitVec 3) : fld (x ++ y : BitVec 6) 0 3 = y := by
  repeat (first
    | refine (fld_append_low _ _ _ _ (by decide)).trans ?_
    | refine (fld_append_high _ _ _ _ (by decide)).trans ?_)
  exact fld_all _ _ rfl

@[simp] theorem fld_bits_x (x : BitVec 19) (y : BitVec 7) (z : BitVec 6) : fld (x ++ y ++ z : BitVec 32) 13 19 = x := by
  repeat (first
    | refine (fld_append_low _ _ _ _ (by decide)).trans ?_
    | refine (fld_append_high _ _ _ _ (by decide)).trans ?_)
  exact fld_all _ _ rfl

@[simp] theorem fld_bits_y (x : BitVec 19) (y : BitVec 7) (z : BitVec 6) : fld (x ++ y ++ z : BitVec 32) 6 7 = y := by
  repeat (first
    | refine (fld_append_low _ _ _ _ (by decide)).trans ?_
    | refine (fld_append_high _ _ _ _ (by decide)).trans ?_)
  exact fld_all _ _ rfl

@[simp] theorem fld_bits_z (x : BitVec 19) (y : BitVec 7) (z : BitVec 6) : fld (x ++ y ++ z : BitVec 32) 0 6 = z := by
  repeat (first
    | refine (fld_append_low _ _ _ _ (by decide)).trans ?_
    | refine (fld_append_high _ _ _ _ (by decide)).trans ?_)
  exact fld_all _ _ rfl

@[simp] theorem fld_ty44_x (x : BitVec 4) (y : BitVec 4) : fld (x ++ y : BitVec 8) 4 4 = x := by
  repeat (first
    | refine (fld_append_low _ _ _ _ (by decide)).trans ?_
    | refine (fld_append_high _ _ _ _ (by decide)).trans ?_)
  exact fld_all _ _ rfl

@[simp] theorem fld_ty44_y (x : BitVec 4) (y : BitVec 4) : fld (x ++ y : BitVec 8) 0 4 = y := by
  repeat (first
    | refine (fld_append_low _ _ _ _ (by decide)).trans ?_
    | refine (fld_append_high _ _ _ _ (by decide)).trans ?_)
  exact fld_all _ _ rfl

@[simp] theorem fld_cv_x (x : BitVec 2) (y : BitVec 4) : fld (x ++ y : BitVec 6) 4 2 = x := by
  repeat (first
    | refine (fld_append_low _ _ _ _ (by decide)).trans ?_
    | refine (fld_append_high _ _ _ _ (by decide)).trans ?_)
  exact fld_all _ _ rfl

@[simp] theorem fld_cv_y (x : BitVec 2) (y : BitVec 4) : fld (x ++ y : BitVec 6) 0 4 = y := by
  repeat (first
    | refine (fld_append_low _ _ _ _ (by decide)).trans ?_
    | refine (fld_append_high _ _ _ _ (by decide)).trans ?_)
  exact fld_all _ _ rfl

@[simp] theorem fld_sow_x (x : BitVec 2) (y : BitVec 3) (z : BitVec 3) : fld (x ++ y ++ z : BitVec 8) 6 2 = x := by
  repeat (first
    | refine (fld_append_low _ _ _ _ (by decide)).trans ?_
    | refine (fld_append_high _ _ _ _ (by decide)).trans ?_)
  exact fld_all _ _ rfl

@[simp] theorem fld_sow_y (x : BitVec 2) (y : BitVec 3) (z : BitVec 3) : fld (x ++ y ++ z : BitVec 8) 3 3 = y := by
  repeat (first
    | refine (fld_append_low _ _ _ _ (by decide)).trans ?_
    | refine (fld_append_high _ _ _ _ (by decide)).trans ?_)
  exact fld_all _ _ rfl

@[simp] theorem fld_sow_z (x : BitVec 2) (y : BitVec 3) (z : BitVec 3) : fld (x ++ y ++ z : BitVec 8) 0 3 = z := by
  repeat (first
    | refine (fld_append_low _ _ _ _ (by decide)).trans ?_
    | refine (fld_append_high _ _ _ _ (by decide)).trans ?_)
  exact fld_all _ _ rfl

@[simp] theorem fld_red8_x (x : BitVec 3) (y : BitVec 3) (z : BitVec 1) (w : BitVec 1) : fld (x ++ y ++ z ++ w : BitVec 8) 5 3 = x := by
  repeat (first
    | refine (fld_append_low _ _ _ _ (by decide)).trans ?_
    | refine (fld_append_high _ _ _ _ (by decide)).trans ?_)
  exact fld_all _ _ rfl

@[simp] theorem fld_red8_y (x : BitVec 3) (y : BitVec 3) (z : BitVec 1) (w : BitVec 1) : fld (x ++ y ++ z ++ w : BitVec 8) 2 3 = y := by
  repeat (first
    | refine (fld_append_low _ _ _ _ (by decide)).trans ?_
    | refine (fld_append_high _ _ _ _ (by decide)).trans ?_)
  exact fld_all _ _ rfl

@[simp] theorem fld_red8_z (x : BitVec 3) (y : BitVec 3) (z : BitVec 1) (w : BitVec 1) : fld (x ++ y ++ z ++ w : BitVec 8) 1 1 = z := by
  repeat (first
    | refine (fld_append_low _ _ _ _ (by decide)).trans ?_
    | refine (fld_append_high _ _ _ _ (by decide)).trans ?_)
  exact fld_all _ _ rfl

@[simp] theorem fld_red8_w (x : BitVec 3) (y : BitVec 3) (z : BitVec 1) (w : BitVec 1) : fld (x ++ y ++ z ++ w : BitVec 8) 0 1 = w := by
  repeat (first
    | refine (fld_append_low _ _ _ _ (by decide)).trans ?_
    | refine (fld_append_high _ _ _ _ (by decide)).trans ?_)
  exact fld_all _ _ rfl

@[simp] theorem fld_ty10_x (x : BitVec 4) (y : BitVec 10) : fld (x ++ y : BitVec 14) 10 4 = x := by
  repeat (first
    | refine (fld_append_low _ _ _ _ (by decide)).trans ?_
    | refine (fld_append_high _ _ _ _ (by decide)).trans ?_)
  exact fld_all _ _ rfl

@[simp] theorem fld_ty10_y (x : BitVec 4) (y : BitVec 10) : fld (x ++ y : BitVec 14) 0 10 = y := by
  repeat (first
    | refine (fld_append_low _ _ _ _ (by decide)).trans ?_
    | refine (fld_append_high _ _ _ _ (by decide)).trans ?_)
  exact fld_all _ _ rfl

@[simp] theorem fld_r46_x (x : BitVec 4) (y : BitVec 6) : fld (x ++ y : BitVec 10) 6 4 = x := by
  repeat (first
    | refine (fld_append_low _ _ _ _ (by decide)).trans ?_
    | refine (fld_append_high _ _ _ _ (by decide)).trans ?_)
  exact fld_all _ _ rfl

@[simp] theorem fld_r46_y (x : BitVec 4) (y : BitVec 6) : fld (x ++ y : BitVec 10) 0 6 = y := by
  repeat (first
    | refine (fld_append_low _ _ _ _ (by decide)).trans ?_
    | refine (fld_append_high _ _ _ _ (by decide)).trans ?_)
  exact fld_all _ _ rfl

@[simp] theorem fld_r64_x (x : BitVec 6) (y : BitVec 4) : fld (x ++ y : BitVec 10) 4 6 = x := by
  repeat (first
    | refine (fld_append_low _ _ _ _ (by decide)).trans ?_
    | refine (fld_append_high _ _ _ _ (by decide)).trans ?_)
  exact fld_all _ _ rfl

@[simp] theorem fld_r64_y (x : BitVec 6) (y : BitVec 4) : fld (x ++ y : BitVec 10) 0 4 = y := by
  repeat (first
    | refine (fld_append_low _ _ _ _ (by decide)).trans ?_
    | refine (fld_append_high _ _ _ _ (by decide)).trans ?_)
  exact fld_all _ _ rfl

@[simp] theorem fld_s110_x (x : BitVec 1) (y : BitVec 10) : fld (x ++ y : BitVec 11) 10 1 = x := by
  repeat (first
    | refine (fld_append_low _ _ _ _ (by decide)).trans ?_
    | refine (fld_append_high _ _ _ _ (by decide)).trans ?_)
  exact fld_all _ _ rfl

@[simp] theorem fld_s110_y (x : BitVec 1) (y : BitVec 10) : fld (x ++ y : BitVec 11) 0 10 = y := by
  repeat (first
    | refine (fld_append_low _ _ _ _ (by decide)).trans ?_
    | refine (fld_append_high _ _ _ _ (by decide)).trans ?_)
  exact fld_all _ _ rfl

@[simp] theorem fld_b14_x (x : BitVec 1) (y : BitVec 4) : fld (x ++ y : BitVec 5) 4 1 = x := by
  repeat (first
    | refine (fld_append_low _ _ _ _ (by decide)).trans ?_
    | refine (fld_append_high _ _ _ _ (by decide)).trans ?_)
  exact fld_all _ _ rfl

@[simp] theorem fld_b14_y (x : BitVec 1) (y : BitVec 4) : fld (x ++ y : BitVec 5) 0 4 = y := by
  repeat (first
    | refine (fld_append_low _ _ _ _ (by decide)).trans ?_
    | refine (fld_append_high _ _ _ _ (by decide)).trans ?_)
  exact fld_all _ _ rfl

@[simp] theorem fld_v23_x (x : BitVec 2) (y : BitVec 3) : fld (x ++ y : BitVec 5) 3 2 = x := by
  repeat (first
    | refine (fld_append_low _ _ _ _ (by decide)).trans ?_
    | refine (fld_append_high _ _ _ _ (by decide)).trans ?_)
  exact fld_all _ _ rfl

@[simp] theorem fld_v23_y (x : BitVec 2) (y : BitVec 3) : fld (x ++ y : BitVec 5) 0 3 = y := by
  repeat (first
    | refine (fld_append_low _ _ _ _ (by decide)).trans ?_
    | refine (fld_append_high _ _ _ _ (by decide)).trans ?_)
  exact fld_all _ _ rfl

@[simp] theorem fld_v32_x (x : BitVec 3) (y : BitVec 2) : fld (x ++ y : BitVec 5) 2 3 = x := by
  repeat (first
    | refine (fld_append_low _ _ _ _ (by decide)).trans ?_
    | refine (fld_append_high _ _ _ _ (by decide)).trans ?_)
  exact fld_all _ _ rfl

@[simp] theorem fld_v32_y (x : BitVec 3) (y : BitVec 2) : fld (x ++ y : BitVec 5) 0 2 = y := by
  repeat (first
    | refine (fld_append_low _ _ _ _ (by decide)).trans ?_
    | refine (fld_append_high _ _ _ _ (by decide)).trans ?_)
  exact fld_all _ _ rfl

@[simp] theorem fld_f53_x (x : BitVec 5) (y : BitVec 3) : fld (x ++ y : BitVec 8) 3 5 = x := by
  repeat (first
    | refine (fld_append_low _ _ _ _ (by decide)).trans ?_
    | refine (fld_append_high _ _ _ _ (by decide)).trans ?_)
  exact fld_all _ _ rfl

@[simp] theorem fld_f53_y (x : BitVec 5) (y : BitVec 3) : fld (x ++ y : BitVec 8) 0 3 = y := by
  repeat (first
    | refine (fld_append_low _ _ _ _ (by decide)).trans ?_
    | refine (fld_append_high _ _ _ _ (by decide)).trans ?_)
  exact fld_all _ _ rfl

@[simp] theorem fld_f51_x (x : BitVec 5) (y : BitVec 1) : fld (x ++ y : BitVec 6) 1 5 = x := by
  repeat (first
    | refine (fld_append_low _ _ _ _ (by decide)).trans ?_
    | refine (fld_append_high _ _ _ _ (by decide)).trans ?_)
  exact fld_all _ _ rfl

@[simp] theorem fld_f51_y (x : BitVec 5) (y : BitVec 1) : fld (x ++ y : BitVec 6) 0 1 = y := by
  repeat (first
    | refine (fld_append_low _ _ _ _ (by decide)).trans ?_
    | refine (fld_append_high _ _ _ _ (by decide)).trans ?_)
  exact fld_all _ _ rfl

@[simp] theorem fld_b5111_x (x : BitVec 5) (y : BitVec 1) (z : BitVec 1) (w : BitVec 1) : fld (x ++ y ++ z ++ w : BitVec 8) 3 5 = x := by
  repeat (first
    | refine (fld_append_low _ _ _ _ (by decide)).trans ?_
    | refine (fld_append_high _ _ _ _ (by decide)).trans ?_)
  exact fld_all _ _ rfl

@[simp] theorem fld_b5111_y (x : BitVec 5) (y : BitVec 1) (z : BitVec 1) (w : BitVec 1) : fld (x ++ y ++ z ++ w : BitVec 8) 2 1 = y := by
  repeat (first
    | refine (fld_append_low _ _ _ _ (by decide)).trans ?_
    | refine (fld_append_high _ _ _ _ (by decide)).trans ?_)
  exact fld_all _ _ rfl

@[simp] theorem fld_b5111_z (x : BitVec 5) (y : BitVec 1) (z : BitVec 1) (w : BitVec 1) : fld (x ++ y ++ z ++ w : BitVec 8) 1 1 = z := by
  repeat (first
    | refine (fld_append_low _ _ _ _ (by decide)).trans ?_
    | refine (fld_append_high _ _ _ _ (by decide)).trans ?_)
  exact fld_all _ _ rfl

@[simp] theorem fld_b5111_w (x : BitVec 5) (y : BitVec 1) (z : BitVec 1) (w : BitVec 1) : fld (x ++ y ++ z ++ w : BitVec 8) 0 1 = w := by
  repeat (first
    | refine (fld_append_low _ _ _ _ (by decide)).trans ?_
    | refine (fld_append_high _ _ _ _ (by decide)).trans ?_)
  exact fld_all _ _ rfl

@[simp] theorem fld_f71_x (x : BitVec 7) (y : BitVec 1) : fld (x ++ y : BitVec 8) 1 7 = x := by
  repeat (first
    | refine (fld_append_low _ _ _ _ (by decide)).trans ?_
    | refine (fld_append_high _ _ _ _ (by decide)).trans ?_)
  exact fld_all _ _ rfl

@[simp] theorem fld_f71_y (x : BitVec 7) (y : BitVec 1) : fld (x ++ y : BitVec 8) 0 1 = y := by
  repeat (first
    | refine (fld_append_low _ _ _ _ (by decide)).trans ?_
    | refine (fld_append_high _ _ _ _ (by decide)).trans ?_)
  exact fld_all _ _ rfl

@[simp] theorem fld_f17_x (x : BitVec 1) (y : BitVec 7) : fld (x ++ y : BitVec 8) 7 1 = x := by
  repeat (first
    | refine (fld_append_low _ _ _ _ (by decide)).trans ?_
    | refine (fld_append_high _ _ _ _ (by decide)).trans ?_)
  exact fld_all _ _ rfl

@[simp] theorem fld_f17_y (x : BitVec 1) (y : BitVec 7) : fld (x ++ y : BitVec 8) 0 7 = y := by
  repeat (first
    | refine (fld_append_low _ _ _ _ (by decide)).trans ?_
    | refine (fld_append_high _ _ _ _ (by decide)).trans ?_)
  exact fld_all _ _ rfl

@[simp] theorem fld_s222_x (x : BitVec 2) (y : BitVec 2) (z : BitVec 2) : fld (x ++ y ++ z : BitVec 6) 4 2 = x := by
  repeat (first
    | refine (fld_append_low _ _ _ _ (by decide)).trans ?_
    | refine (fld_append_high _ _ _ _ (by decide)).trans ?_)
  exact fld_all _ _ rfl

@[simp] theorem fld_s222_y (x : BitVec 2) (y : BitVec 2) (z : BitVec 2) : fld (x ++ y ++ z : BitVec 6) 2 2 = y := by
  repeat (first
    | refine (fld_append_low _ _ _ _ (by decide)).trans ?_
    | refine (fld_append_high _ _ _ _ (by decide)).trans ?_)
  exact fld_all _ _ rfl

@[simp] theorem fld_s222_z (x : BitVec 2) (y : BitVec 2) (z : BitVec 2) : fld (x ++ y ++ z : BitVec 6) 0 2 = z := by
  repeat (first
    | refine (fld_append_low _ _ _ _ (by decide)).trans ?_
    | refine (fld_append_high _ _ _ _ (by decide)).trans ?_)
  exact fld_all _ _ rfl

@[simp] theorem fld_wp_x (x : BitVec 9) (y : BitVec 2) (z : BitVec 3) (w : BitVec 2) : fld (x ++ y ++ z ++ w : BitVec 16) 7 9 = x := by
  repeat (first
    | refine (fld_append_low _ _ _ _ (by decide)).trans ?_
    | refine (fld_append_high _ _ _ _ (by decide)).trans ?_)
  exact fld_all _ _ rfl

@[simp] theorem fld_wp_y (x : BitVec 9) (y : BitVec 2) (z : BitVec 3) (w : BitVec 2) : fld (x ++ y ++ z ++ w : BitVec 16) 5 2 = y := by
  repeat (first
    | refine (fld_append_low _ _ _ _ (by decide)).trans ?_
    | refine (fld_append_high _ _ _ _ (by decide)).trans ?_)
  exact fld_all _ _ rfl

@[simp] theorem fld_wp_z (x : BitVec 9) (y : BitVec 2) (z : BitVec 3) (w : BitVec 2) : fld (x ++ y ++ z ++ w : BitVec 16) 2 3 = z := by
  repeat (first
    | refine (fld_append_low _ _ _ _ (by decide)).trans ?_
    | refine (fld_append_high _ _ _ _ (by decide)).trans ?_)
  exact fld_all _ _ rfl

@[simp] theorem fld_wp_w (x : BitVec 9) (y : BitVec 2) (z : BitVec 3) (w : BitVec 2) : fld (x ++ y ++ z ++ w : BitVec 16) 0 2 = w := by
  repeat (first
    | refine (fld_append_low _ _ _ _ (by decide)).trans ?_
    | refine (fld_append_high _ _ _ _ (by decide)).trans ?_)
  exact fld_all _ _ rfl

@[simp] theorem fld_p74_x (x : BitVec 7) (y : BitVec 4) : fld (x ++ y : BitVec 11) 4 7 = x := by
  repeat (first
    | refine (fld_append_low _ _ _ _ (by decide)).trans ?_
    | refine (fld_append_high _ _ _ _ (by decide)).trans ?_)
  exact fld_all _ _ rfl

@[simp] theorem fld_p74_y (x : BitVec 7) (y : BitVec 4) : fld (x ++ y : BitVec 11) 0 4 = y := by
  repeat (first
    | refine (fld_append_low _ _ _ _ (by decide)).trans ?_
    | refine (fld_append_high _ _ _ _ (by decide)).trans ?_)
  exact fld_all _ _ rfl

@[simp] theorem fld_p821_x (x : BitVec 8) (y : BitVec 2) (z : BitVec 1) : fld (x ++ y ++ z : BitVec 11) 3 8 = x := by
  repeat (first
    | refine (fld_append_low _ _ _ _ (by decide)).trans ?_
    | refine (fld_append_high _ _ _ _ (by decide)).trans ?_)
  exact fld_all _ _ rfl

@[simp] theorem fld_p821_y (x : BitVec 8) (y : BitVec 2) (z : BitVec 1) : fld (x ++ y ++ z : BitVec 11) 1 2 = y := by
  repeat (first
    | refine (fld_append_low _ _ _ _ (by decide)).trans ?_
    | refine (fld_append_high _ _ _ _ (by decide)).trans ?_)
  exact fld_all _ _ rfl

@[simp] theorem fld_p821_z (x : BitVec 8) (y : BitVec 2) (z : BitVec 1) : fld (x ++ y ++ z : BitVec 11) 0 1 = z := by
  repeat (first
    | refine (fld_append_low _ _ _ _ (by decide)).trans ?_
    | refine (fld_append_high _ _ _ _ (by decide)).trans ?_)
  exact fld_all _ _ rfl

@[simp] theorem fld_p5_x (x : BitVec 5) (y : BitVec 11) : fld (x ++ y : BitVec 16) 11 5 = x := by
  repeat (first
    | refine (fld_append_low _ _ _ _ (by decide)).trans ?_
    | refine (fld_append_high _ _ _ _ (by decide)).trans ?_)
  exact fld_all _ _ rfl

@[simp] theorem fld_p5_y (x : BitVec 5) (y : BitVec 11) : fld (x ++ y : BitVec 16) 0 11 = y := by
  repeat (first
    | refine (fld_append_low _ _ _ _ (by decide)).trans ?_
    | refine (fld_append_high _ _ _ _ (by decide)).trans ?_)
  exact fld_all _ _ rfl


/-! ## Rows of the opcode map -/

theorem rowOf_01 (g st po pu b) : rowOf ⟨0x01, g, st, po, pu, b⟩ =
    some (let s := SF.ofBody b; rowAlu s) := rfl
theorem rowOf_02 (g st po pu b) : rowOf ⟨0x02, g, st, po, pu, b⟩ =
    some (let s := SF.ofBody b; rowShift s) := rfl
theorem rowOf_03 (g st po pu b) : rowOf ⟨0x03, g, st, po, pu, b⟩ =
    some (let s := SF.ofBody b; rowMul s) := rfl
theorem rowOf_04 (g st po pu b) : rowOf ⟨0x04, g, st, po, pu, b⟩ =
    some (let s := SF.ofBody b; let a := AF.ofBody b; .sc (s.c = 0 && s.fn = 0 && s.cc = 0 && s.z = 0) (.cmp · (Cond.ofCode (fld s.d 3 3)) (fld s.d 0 3) s.a s.b)) := rfl
theorem rowOf_08 (g st po pu b) : rowOf ⟨0x08, g, st, po, pu, b⟩ =
    some (rowImm 0x08 (IF.ofBody b)) := rfl
theorem rowOf_09 (g st po pu b) : rowOf ⟨0x09, g, st, po, pu, b⟩ =
    some (rowImm 0x09 (IF.ofBody b)) := rfl
theorem rowOf_0A (g st po pu b) : rowOf ⟨0x0A, g, st, po, pu, b⟩ =
    some (rowImm 0x0A (IF.ofBody b)) := rfl
theorem rowOf_0B (g st po pu b) : rowOf ⟨0x0B, g, st, po, pu, b⟩ =
    some (rowImm 0x0B (IF.ofBody b)) := rfl
theorem rowOf_0C (g st po pu b) : rowOf ⟨0x0C, g, st, po, pu, b⟩ =
    some (rowImm 0x0C (IF.ofBody b)) := rfl
theorem rowOf_0D (g st po pu b) : rowOf ⟨0x0D, g, st, po, pu, b⟩ =
    some (rowImm 0x0D (IF.ofBody b)) := rfl
theorem rowOf_0E (g st po pu b) : rowOf ⟨0x0E, g, st, po, pu, b⟩ =
    some (rowImm 0x0E (IF.ofBody b)) := rfl
theorem rowOf_0F (g st po pu b) : rowOf ⟨0x0F, g, st, po, pu, b⟩ =
    some (rowImm 0x0F (IF.ofBody b)) := rfl
theorem rowOf_10 (g st po pu b) : rowOf ⟨0x10, g, st, po, pu, b⟩ =
    some (rowImm 0x10 (IF.ofBody b)) := rfl
theorem rowOf_11 (g st po pu b) : rowOf ⟨0x11, g, st, po, pu, b⟩ =
    some (rowImm 0x11 (IF.ofBody b)) := rfl
theorem rowOf_12 (g st po pu b) : rowOf ⟨0x12, g, st, po, pu, b⟩ =
    some (rowImm 0x12 (IF.ofBody b)) := rfl
theorem rowOf_13 (g st po pu b) : rowOf ⟨0x13, g, st, po, pu, b⟩ =
    some (rowImm 0x13 (IF.ofBody b)) := rfl
theorem rowOf_14 (g st po pu b) : rowOf ⟨0x14, g, st, po, pu, b⟩ =
    some (rowImm 0x14 (IF.ofBody b)) := rfl
theorem rowOf_20 (g st po pu b) : rowOf ⟨0x20, g, st, po, pu, b⟩ =
    some (let s := SF.ofBody b; rowFp s) := rfl
theorem rowOf_30 (g st po pu b) : rowOf ⟨0x30, g, st, po, pu, b⟩ =
    some (rowBranch 0x30 (BF.ofBody b)) := rfl
theorem rowOf_31 (g st po pu b) : rowOf ⟨0x31, g, st, po, pu, b⟩ =
    some (rowBranch 0x31 (BF.ofBody b)) := rfl
theorem rowOf_32 (g st po pu b) : rowOf ⟨0x32, g, st, po, pu, b⟩ =
    some (rowBranch 0x32 (BF.ofBody b)) := rfl
theorem rowOf_33 (g st po pu b) : rowOf ⟨0x33, g, st, po, pu, b⟩ =
    some (rowBranch 0x33 (BF.ofBody b)) := rfl
theorem rowOf_34 (g st po pu b) : rowOf ⟨0x34, g, st, po, pu, b⟩ =
    some (rowBranch 0x34 (BF.ofBody b)) := rfl
theorem rowOf_35 (g st po pu b) : rowOf ⟨0x35, g, st, po, pu, b⟩ =
    some (rowBranch 0x35 (BF.ofBody b)) := rfl
theorem rowOf_36 (g st po pu b) : rowOf ⟨0x36, g, st, po, pu, b⟩ =
    some (rowBranch 0x36 (BF.ofBody b)) := rfl
theorem rowOf_38 (g st po pu b) : rowOf ⟨0x38, g, st, po, pu, b⟩ =
    some (rowLoop 0x38 (LF.ofBody b)) := rfl
theorem rowOf_39 (g st po pu b) : rowOf ⟨0x39, g, st, po, pu, b⟩ =
    some (rowLoop 0x39 (LF.ofBody b)) := rfl
theorem rowOf_3A (g st po pu b) : rowOf ⟨0x3A, g, st, po, pu, b⟩ =
    some (rowLoop 0x3A (LF.ofBody b)) := rfl
theorem rowOf_3B (g st po pu b) : rowOf ⟨0x3B, g, st, po, pu, b⟩ =
    some (rowLoop 0x3B (LF.ofBody b)) := rfl
theorem rowOf_3C (g st po pu b) : rowOf ⟨0x3C, g, st, po, pu, b⟩ =
    some (let i := IF.ofBody b; .bare (i.d = 0 && i.a = 0) (.join i.imm)) := rfl
theorem rowOf_3D (g st po pu b) : rowOf ⟨0x3D, g, st, po, pu, b⟩ =
    some (let s := SF.ofBody b; let a := AF.ofBody b; .bare (s.a = 0 && s.b = 0 && s.c = 0 && s.fn = 0 && s.cc = 0 && s.z = 0) (.detq s.d)) := rfl
theorem rowOf_3E (g st po pu b) : rowOf ⟨0x3E, g, st, po, pu, b⟩ =
    some (.bare (b = 0) .exit) := rfl
theorem rowOf_3F (g st po pu b) : rowOf ⟨0x3F, g, st, po, pu, b⟩ =
    some (.bare (b = 0) .nop) := rfl
theorem rowOf_40 (g st po pu b) : rowOf ⟨0x40, g, st, po, pu, b⟩ =
    some (rowLdst 0x40 (MF.ofBody b)) := rfl
theorem rowOf_41 (g st po pu b) : rowOf ⟨0x41, g, st, po, pu, b⟩ =
    some (rowLdst 0x41 (MF.ofBody b)) := rfl
theorem rowOf_42 (g st po pu b) : rowOf ⟨0x42, g, st, po, pu, b⟩ =
    some (rowLdst 0x42 (MF.ofBody b)) := rfl
theorem rowOf_50 (g st po pu b) : rowOf ⟨0x50, g, st, po, pu, b⟩ =
    some (let v := VF.ofBody b; rowVArith v) := rfl
theorem rowOf_51 (g st po pu b) : rowOf ⟨0x51, g, st, po, pu, b⟩ =
    some (let v := VF.ofBody b; rowVLogic v) := rfl
theorem rowOf_52 (g st po pu b) : rowOf ⟨0x52, g, st, po, pu, b⟩ =
    some (let v := VF.ofBody b; rowVShift v) := rfl
theorem rowOf_53 (g st po pu b) : rowOf ⟨0x53, g, st, po, pu, b⟩ =
    some (let v := VF.ofBody b; rowVcmp v) := rfl
theorem rowOf_54 (g st po pu b) : rowOf ⟨0x54, g, st, po, pu, b⟩ =
    some (let v := VF.ofBody b; wordTyped v (v.vc = 0 && v.fn = 0 && v.ax = 0 && v.imm = 0) (.vsel · v.vd v.va v.vb v.mask)) := rfl
theorem rowOf_55 (g st po pu b) : rowOf ⟨0x55, g, st, po, pu, b⟩ =
    some (let v := VF.ofBody b; rowVMove v) := rfl
theorem rowOf_56 (g st po pu b) : rowOf ⟨0x56, g, st, po, pu, b⟩ =
    some (let v := VF.ofBody b; rowVcvt v) := rfl
theorem rowOf_57 (g st po pu b) : rowOf ⟨0x57, g, st, po, pu, b⟩ =
    some (let v := VF.ofBody b; rowVqnt v) := rfl
theorem rowOf_58 (g st po pu b) : rowOf ⟨0x58, g, st, po, pu, b⟩ =
    some (let v := VF.ofBody b; rowVdqnt v) := rfl
theorem rowOf_59 (g st po pu b) : rowOf ⟨0x59, g, st, po, pu, b⟩ =
    some (let v := VF.ofBody b; rowVpack6 v) := rfl
theorem rowOf_5A (g st po pu b) : rowOf ⟨0x5A, g, st, po, pu, b⟩ =
    some (let v := VF.ofBody b; rowVunpk6 v) := rfl
theorem rowOf_5B (g st po pu b) : rowOf ⟨0x5B, g, st, po, pu, b⟩ =
    some (let v := VF.ofBody b; .eng (v.vb = 0 && v.vc = 0 && v.fn = 0 && v.ax = 0) (.vhad · (Ty.ofCode v.ty) v.vd v.va v.imm v.mask)) := rfl
theorem rowOf_5C (g st po pu b) : rowOf ⟨0x5C, g, st, po, pu, b⟩ =
    some (let v := VF.ofBody b; rowVrot v) := rfl
theorem rowOf_5D (g st po pu b) : rowOf ⟨0x5D, g, st, po, pu, b⟩ =
    some (let v := VF.ofBody b; rowVred v) := rfl
theorem rowOf_5E (g st po pu b) : rowOf ⟨0x5E, g, st, po, pu, b⟩ =
    some (let v := VF.ofBody b; rowVsel v) := rfl
theorem rowOf_5F (g st po pu b) : rowOf ⟨0x5F, g, st, po, pu, b⟩ =
    some (let v := VF.ofBody b; .eng (v.vc = 0 && v.fn = 0 && v.ax = 0 && v.imm = 0) (.vlut · (Ty.ofCode v.ty) v.vd v.va v.vb v.mask)) := rfl
theorem rowOf_60 (g st po pu b) : rowOf ⟨0x60, g, st, po, pu, b⟩ =
    some (let v := VF.ofBody b; rowVmem v .vld) := rfl
theorem rowOf_61 (g st po pu b) : rowOf ⟨0x61, g, st, po, pu, b⟩ =
    some (let v := VF.ofBody b; rowVmem v .vst) := rfl
theorem rowOf_62 (g st po pu b) : rowOf ⟨0x62, g, st, po, pu, b⟩ =
    some (let v := VF.ofBody b; rowVmem v .vlda) := rfl
theorem rowOf_63 (g st po pu b) : rowOf ⟨0x63, g, st, po, pu, b⟩ =
    some (let v := VF.ofBody b; rowVmem v .vsta) := rfl
theorem rowOf_64 (g st po pu b) : rowOf ⟨0x64, g, st, po, pu, b⟩ =
    some (let v := VF.ofBody b; rowVidx v .vgth) := rfl
theorem rowOf_65 (g st po pu b) : rowOf ⟨0x65, g, st, po, pu, b⟩ =
    some (let v := VF.ofBody b; rowVidx v .vsct) := rfl
theorem rowOf_70 (g st po pu b) : rowOf ⟨0x70, g, st, po, pu, b⟩ =
    some (let v := VF.ofBody b; rowMask v) := rfl
theorem rowOf_71 (g st po pu b) : rowOf ⟨0x71, g, st, po, pu, b⟩ =
    some (let v := VF.ofBody b; rowSpecial v) := rfl
theorem rowOf_80 (g st po pu b) : rowOf ⟨0x80, g, st, po, pu, b⟩ =
    some (let x := XF.ofBody b; .sc (x.qb = 0 && x.td = 0 && x.ty = 0 && x.fn = 0 && x.set = 0) (.qbind · x.qa x.k)) := rfl
theorem rowOf_81 (g st po pu b) : rowOf ⟨0x81, g, st, po, pu, b⟩ =
    some (let x := XF.ofBody b; .sc (x.qb = 0 && x.td = 0 && x.ty = 0 && x.fn = 0 && x.k = 0) (.qpos · x.qa x.set)) := rfl
theorem rowOf_82 (g st po pu b) : rowOf ⟨0x82, g, st, po, pu, b⟩ =
    some (let x := XF.ofBody b; .sc (x.qb = 0 && x.td = 0 && x.ty = 0 && x.fn = 0 && x.set = 0) (.qadv · x.qa x.k)) := rfl
theorem rowOf_84 (g st po pu b) : rowOf ⟨0x84, g, st, po, pu, b⟩ =
    some (let x := XF.ofBody b; rowMma x) := rfl
theorem rowOf_85 (g st po pu b) : rowOf ⟨0x85, g, st, po, pu, b⟩ =
    some (let x := XF.ofBody b; rowMmas x) := rfl
theorem rowOf_86 (g st po pu b) : rowOf ⟨0x86, g, st, po, pu, b⟩ =
    some (let x := XF.ofBody b; .eng (x.qa = 0 && x.qb = 0 && x.ty = 0 && x.fn = 0 && x.set = 0 && x.k = 0) (.mzero · x.td)) := rfl
theorem rowOf_87 (g st po pu b) : rowOf ⟨0x87, g, st, po, pu, b⟩ =
    some (let x := XF.ofBody b; .eng? (x.qb = 0 && fld x.fn 3 5 = 0 && x.set = 0 && x.k = 0) ((Rm.ofCode (fld x.fn 0 3)).map fun rm => (.mrd · (Ty.ofCode x.ty) rm x.qa x.td))) := rfl
theorem rowOf_88 (g st po pu b) : rowOf ⟨0x88, g, st, po, pu, b⟩ =
    some (let x := XF.ofBody b; .eng? (x.qb = 0 && x.fn = 0 && x.set = 0 && x.k = 0) (if x.ty = 0 then some (.mwr · x.td x.qa) else none)) := rfl
theorem rowOf_89 (g st po pu b) : rowOf ⟨0x89, g, st, po, pu, b⟩ =
    some (let x := XF.ofBody b; if 1 < x.fn.toNat then .noSel else .eng (x.qb = 0 && x.td = 0 && x.set = 0 && x.k = 0) (.mldw · (Ty.ofCode x.ty) (x.fn = 1) x.qa)) := rfl
theorem rowOf_8C (g st po pu b) : rowOf ⟨0x8C, g, st, po, pu, b⟩ =
    some (let v := VF.ofBody b; rowPtrn v) := rfl
theorem rowOf_8D (g st po pu b) : rowOf ⟨0x8D, g, st, po, pu, b⟩ =
    some (let v := VF.ofBody b; rowPshf v) := rfl
theorem rowOf_8E (g st po pu b) : rowOf ⟨0x8E, g, st, po, pu, b⟩ =
    some (let v := VF.ofBody b; rowProt v) := rfl
theorem rowOf_8F (g st po pu b) : rowOf ⟨0x8F, g, st, po, pu, b⟩ =
    some (let v := VF.ofBody b; rowPzip v) := rfl
theorem rowOf_90 (g st po pu b) : rowOf ⟨0x90, g, st, po, pu, b⟩ =
    some (let a := AF.ofBody b; rowCmd a .cpy) := rfl
theorem rowOf_91 (g st po pu b) : rowOf ⟨0x91, g, st, po, pu, b⟩ =
    some (let a := AF.ofBody b; rowCmd a .cpym) := rfl
theorem rowOf_92 (g st po pu b) : rowOf ⟨0x92, g, st, po, pu, b⟩ =
    some (let a := AF.ofBody b; .sc (fld a.fn 1 7 = 0) (.gthr · a.sd a.a a.flag (fld a.fn 0 1 = 1) a.imm)) := rfl
theorem rowOf_93 (g st po pu b) : rowOf ⟨0x93, g, st, po, pu, b⟩ =
    some (let a := AF.ofBody b; rowRed a) := rfl
theorem rowOf_94 (g st po pu b) : rowOf ⟨0x94, g, st, po, pu, b⟩ =
    some (let a := AF.ofBody b; rowCmd a .send) := rfl
theorem rowOf_95 (g st po pu b) : rowOf ⟨0x95, g, st, po, pu, b⟩ =
    some (let a := AF.ofBody b; rowCmd a .xlat) := rfl
theorem rowOf_A0 (g st po pu b) : rowOf ⟨0xA0, g, st, po, pu, b⟩ =
    some (let y := YF.ofBody b; rowAtomic y) := rfl
theorem rowOf_A1 (g st po pu b) : rowOf ⟨0xA1, g, st, po, pu, b⟩ =
    some (let y := YF.ofBody b; rowFence y) := rfl
theorem rowOf_A2 (g st po pu b) : rowOf ⟨0xA2, g, st, po, pu, b⟩ =
    some (let y := YF.ofBody b; rowWaita y) := rfl
theorem rowOf_A4 (g st po pu b) : rowOf ⟨0xA4, g, st, po, pu, b⟩ =
    some (let y := YF.ofBody b; rowFlag y) := rfl
theorem rowOf_A5 (g st po pu b) : rowOf ⟨0xA5, g, st, po, pu, b⟩ =
    some (let y := YF.ofBody b; rowRing y) := rfl
theorem rowOf_A6 (g st po pu b) : rowOf ⟨0xA6, g, st, po, pu, b⟩ =
    some (let y := YF.ofBody b; rowBar y) := rfl
theorem rowOf_A7 (g st po pu b) : rowOf ⟨0xA7, g, st, po, pu, b⟩ =
    some (let y := YF.ofBody b; rowTkq y) := rfl
theorem rowOf_B0 (g st po pu b) : rowOf ⟨0xB0, g, st, po, pu, b⟩ =
    some (let y := YF.ofBody b; rowTask 0xB0 y) := rfl
theorem rowOf_B1 (g st po pu b) : rowOf ⟨0xB1, g, st, po, pu, b⟩ =
    some (let y := YF.ofBody b; rowTask 0xB1 y) := rfl
theorem rowOf_B2 (g st po pu b) : rowOf ⟨0xB2, g, st, po, pu, b⟩ =
    some (let y := YF.ofBody b; rowTask 0xB2 y) := rfl
theorem rowOf_B3 (g st po pu b) : rowOf ⟨0xB3, g, st, po, pu, b⟩ =
    some (let y := YF.ofBody b; rowTask 0xB3 y) := rfl
theorem rowOf_B4 (g st po pu b) : rowOf ⟨0xB4, g, st, po, pu, b⟩ =
    some (let y := YF.ofBody b; rowTask 0xB4 y) := rfl
theorem rowOf_B5 (g st po pu b) : rowOf ⟨0xB5, g, st, po, pu, b⟩ =
    some (let y := YF.ofBody b; rowTask 0xB5 y) := rfl
theorem rowOf_B6 (g st po pu b) : rowOf ⟨0xB6, g, st, po, pu, b⟩ =
    some (let y := YF.ofBody b; rowTask 0xB6 y) := rfl
theorem rowOf_B8 (g st po pu b) : rowOf ⟨0xB8, g, st, po, pu, b⟩ =
    some (let y := YF.ofBody b; rowRetr 0xB8 y) := rfl
theorem rowOf_B9 (g st po pu b) : rowOf ⟨0xB9, g, st, po, pu, b⟩ =
    some (let y := YF.ofBody b; rowRetr 0xB9 y) := rfl
theorem rowOf_BA (g st po pu b) : rowOf ⟨0xBA, g, st, po, pu, b⟩ =
    some (let y := YF.ofBody b; rowRetr 0xBA y) := rfl
theorem rowOf_BB (g st po pu b) : rowOf ⟨0xBB, g, st, po, pu, b⟩ =
    some (let y := YF.ofBody b; rowRetr 0xBB y) := rfl
theorem rowOf_BC (g st po pu b) : rowOf ⟨0xBC, g, st, po, pu, b⟩ =
    some (let y := YF.ofBody b; rowRetr 0xBC y) := rfl
theorem rowOf_BD (g st po pu b) : rowOf ⟨0xBD, g, st, po, pu, b⟩ =
    some (let y := YF.ofBody b; rowRetr 0xBD y) := rfl
theorem rowOf_C0 (g st po pu b) : rowOf ⟨0xC0, g, st, po, pu, b⟩ =
    some (rowSys 0xC0 (KF.ofBody b)) := rfl
theorem rowOf_C1 (g st po pu b) : rowOf ⟨0xC1, g, st, po, pu, b⟩ =
    some (rowSys 0xC1 (KF.ofBody b)) := rfl
theorem rowOf_C2 (g st po pu b) : rowOf ⟨0xC2, g, st, po, pu, b⟩ =
    some (rowSys 0xC2 (KF.ofBody b)) := rfl
theorem rowOf_C3 (g st po pu b) : rowOf ⟨0xC3, g, st, po, pu, b⟩ =
    some (rowSys 0xC3 (KF.ofBody b)) := rfl
theorem rowOf_C4 (g st po pu b) : rowOf ⟨0xC4, g, st, po, pu, b⟩ =
    some (rowSys 0xC4 (KF.ofBody b)) := rfl
theorem rowOf_C5 (g st po pu b) : rowOf ⟨0xC5, g, st, po, pu, b⟩ =
    some (rowSys 0xC5 (KF.ofBody b)) := rfl
theorem rowOf_FF (g st po pu b) : rowOf ⟨0xFF, g, st, po, pu, b⟩ =
    some (rowSys 0xFF (KF.ofBody b)) := rfl

@[simp] theorem Row.sc?_some (z : Bool) (f : Qual → Instr) : Row.sc? z (some f) = Row.sc z f := rfl
@[simp] theorem Row.eng?_some (z : Bool) (f : Engw → Instr) : Row.eng? z (some f) = Row.eng z f := rfl
@[simp] theorem Row.bare?_some (z : Bool) (i : Instr) : Row.bare? z (some i) = Row.bare z i := rfl

@[simp] theorem fld_ofNat (w n lo l : Nat) : fld (BitVec.ofNat w n) lo l = (BitVec.ofNat w n).extractLsb' lo l := rfl

@[simp] theorem bit8_toNat (b : Bool) : (0#7 ++ Bool.bit b).toNat = b.toNat := by cases b <;> rfl
@[simp] theorem bit8_eq_one (b : Bool) : (0#7 ++ Bool.bit b = 1#8) = (b = true) := by cases b <;> decide
@[simp] theorem bit6_eq_zero (b : Bool) : (0#5 ++ Bool.bit b = 0#6) = (b = false) := by cases b <;> decide
@[simp] theorem bit6_eq_one (b : Bool) : (0#5 ++ Bool.bit b = 1#6) = (b = true) := by cases b <;> decide

@[simp] theorem bit8_not_two (b : Bool) : (1 < b.toNat) = False := by cases b <;> decide

theorem getLsbD_app {n m : Nat} (x : BitVec n) (y : BitVec m) (i : Nat) :
    (x ++ y).getLsbD i = if i < m then y.getLsbD i else x.getLsbD (i - m) := by
  rw [BitVec.getLsbD_append]

@[simp] theorem fld_col (k : BitVec 8) : (fld k 6 2 ++ fld k 0 6 : BitVec 8) = k := by
  apply BitVec.eq_of_getLsbD_eq
  intro i hi
  refine (getLsbD_app _ _ i).trans ?_
  rcases Nat.lt_or_ge i 6 with h | h
  · simp [fld, h]
  · simp [fld, Nat.not_lt.mpr h, show i - 6 < 2 by omega, show 6 + (i - 6) = i by omega]

@[simp] theorem fld_imm16 (k : BitVec 16) : (fld k 11 5 ++ fld k 6 5 ++ fld k 0 6 : BitVec 16) = k := by
  apply BitVec.eq_of_getLsbD_eq
  intro i hi
  refine (getLsbD_app _ _ i).trans ?_
  rcases Nat.lt_or_ge i 6 with h | h
  · simp [fld, h]
  · rw [if_neg (Nat.not_lt.mpr h)]
    refine (getLsbD_app _ _ _).trans ?_
    rcases Nat.lt_or_ge i 11 with g | g
    · simp [fld, show i - 6 < 5 by omega, show 6 + (i - 6) = i by omega]
    · simp [fld, show ¬ i - 6 < 5 by omega, show i - 6 - 5 < 5 by omega, show 11 + (i - 6 - 5) = i by omega]

@[simp] theorem wP_op (op : BitVec 5) (n : BitVec 11) : fld (wP op n) 11 5 = op := fld_p5_x _ _
@[simp] theorem wP_n (op : BitVec 5) (n : BitVec 11) : fld (wP op n) 0 11 = n := fld_p5_y _ _

theorem csrwInstr_csrw (a : BitVec 6) (c : BitVec 16) (h : csrOwnRow c = false) : csrwInstr a c = .csrw a c := by
  simp only [csrOwnRow, Bool.or_eq_false_iff, decide_eq_false_iff_not] at h
  obtain ⟨⟨⟨h1, h2⟩, h3⟩, h4⟩ := h
  rw [csrwInstr, if_neg h1, if_neg h2, if_neg h3, if_neg (by simp [h4])]

theorem csrwInstr_table (a : BitVec 6) (c : BitVec 16) (h : csrIsCmpdTable c = true) :
    csrwInstr a c = .cmpdTableWrite a c := by
  have h1 : c ≠ 0x010 := by rintro rfl; exact absurd h (by decide)
  have h2 : c ≠ 0x012 := by rintro rfl; exact absurd h (by decide)
  have h3 : c ≠ 0x020 := by rintro rfl; exact absurd h (by decide)
  rw [csrwInstr, if_neg h1, if_neg h2, if_neg h3, if_pos h]

theorem syscInstr_bad (n : BitVec 16) (h : 0xD ≤ n.toNat) : syscInstr n = .syscBadcall n := by
  unfold syscInstr
  split <;> first | omega | rfl

theorem tqry_zero (a : BitVec 6) (o : BitVec 10) (s : BitVec 8)
    (h : ((s = 0 && o = 0) || (s = 1 && a = 0) || (2 ≤ s.toNat && a = 0 && o = 0) : Bool) = true) :
    (if s = 0#8 then decide (o = 0#10) else if s = 1#8 then decide (a = 0#6)
      else decide (3 < s.toNat) || decide (a = 0#6) && decide (o = 0#10)) = true := by
  split
  · subst s; simpa using h
  · split
    · subst s; simpa using h
    · simp_all

@[simp] theorem mmaFn_fn (b : BSrc) (alt : Bool) : mmaFn (b.fn alt) = some (decide (b = .wb), alt) := by
  rcases b with x | _ <;> cases alt <;> simp [BSrc.fn, Bool.bit] <;> rfl

@[simp] theorem sow_sowCode (d a b obj fn) (sc : Scope) (o : Ord) (w : Bool) :
    (YF.mk d a b obj fn (sowCode sc o w)).sow = some (sc, o, w) := by
  cases w <;> simp [YF.sow, sowCode]


end Sys2Proof
end

