-- ==== Sys2Proof/Laws/PerInstr.lean ====
section
/-!
SUPPORT. For every instruction: its word, and its micro-word, decode to it (02_encoding.md R41 to R52,
10_retrieval_attention.md R315).
-/

namespace Sys2Proof

set_option Elab.async false

theorem wf_limits {i : Instr} (h : i.wf = true) : i.limits = true := by
  simp only [Instr.wf, Bool.and_eq_true] at h; exact h.1.1.2

theorem wf_tokens {i : Instr} (h : i.wf = true) : i.tokens = true := by
  simp only [Instr.wf, Bool.and_eq_true] at h; exact h.1.2

theorem wf_rowOk {i : Instr} (h : i.wf = true) : i.rowOk = true := by
  simp only [Instr.wf, Bool.and_eq_true] at h; exact h.2

/-- A well-formed word of a core and a well-formed micro-word decode to the instruction that was encoded. -/
def Laws.Codec.Statement (i : Instr) : Prop :=
  (i.wf = true → decodeWord (encode i) = .ok i) ∧
  (i.wfPavane = true → decodePavane (encodePavane i) = some i)

theorem codec_word {i : Instr} (h : i.wf = true → decodeWord (encode i) = .ok i) (hp : i.isPavane = false) :
    Laws.Codec.Statement i := by
  refine ⟨h, fun hw => ?_⟩
  simp [Instr.wfPavane, hp] at hw

theorem codec_pavane {i : Instr} (h : i.rowOk = true → decodePavane (encodePavane i) = some i)
    (hp : (!i.isPavane) = false) : Laws.Codec.Statement i := by
  refine ⟨fun hw => ?_, fun hw => ?_⟩
  · simp only [Instr.wf, hp] at hw
    simp at hw
  · simp only [Instr.wfPavane, Bool.and_eq_true] at hw
    exact h hw.2

theorem codec_none {i : Instr} (he : (!i.isEvent) = false) (hp : i.isPavane = false) : Laws.Codec.Statement i := by
  refine ⟨fun hw => ?_, fun hw => ?_⟩
  · simp only [Instr.wf, he] at hw
    simp at hw
  · simp [Instr.wfPavane, hp] at hw

namespace Laws.Codec

theorem add (q : Qual) (d : BitVec 6) (a : BitVec 6) (b : BitVec 6) : Statement (.add q d a b) :=
  codec_word (fun h => decode_scalar _ _ _ (.add · d a b) ((rowOf_01 ..).trans (by simp [rowAlu]))
    (by exact wf_limits (i := .add q d a b) h)) rfl

theorem sub (q : Qual) (d : BitVec 6) (a : BitVec 6) (b : BitVec 6) : Statement (.sub q d a b) :=
  codec_word (fun h => decode_scalar _ _ _ (.sub · d a b) ((rowOf_01 ..).trans (by simp [rowAlu]))
    (by exact wf_limits (i := .sub q d a b) h)) rfl

theorem addx (q : Qual) (d : BitVec 6) (a : BitVec 6) (b : BitVec 6) (k : BitVec 3) : Statement (.addx q d a b k) :=
  codec_word (fun h => decode_scalar _ _ _ (.addx · d a b k) ((rowOf_01 ..).trans (by simp [rowAlu]))
    (by exact wf_limits (i := .addx q d a b k) h)) rfl

theorem lea (q : Qual) (d : BitVec 6) (a : BitVec 6) (b : BitVec 6) (sh : BitVec 6) : Statement (.lea q d a b sh) :=
  codec_word (fun h => decode_scalar _ _ _ (.lea · d a b sh) ((rowOf_01 ..).trans (by simp [rowAlu]))
    (by exact wf_limits (i := .lea q d a b sh) h)) rfl

theorem min (q : Qual) (d : BitVec 6) (a : BitVec 6) (b : BitVec 6) : Statement (.min q d a b) :=
  codec_word (fun h => decode_scalar _ _ _ (.min · d a b) ((rowOf_01 ..).trans (by simp [rowAlu]))
    (by exact wf_limits (i := .min q d a b) h)) rfl

theorem max (q : Qual) (d : BitVec 6) (a : BitVec 6) (b : BitVec 6) : Statement (.max q d a b) :=
  codec_word (fun h => decode_scalar _ _ _ (.max · d a b) ((rowOf_01 ..).trans (by simp [rowAlu]))
    (by exact wf_limits (i := .max q d a b) h)) rfl

theorem minn (q : Qual) (d : BitVec 6) (a : BitVec 6) (b : BitVec 6) : Statement (.minn q d a b) :=
  codec_word (fun h => decode_scalar _ _ _ (.minn · d a b) ((rowOf_01 ..).trans (by simp [rowAlu]))
    (by exact wf_limits (i := .minn q d a b) h)) rfl

theorem maxn (q : Qual) (d : BitVec 6) (a : BitVec 6) (b : BitVec 6) : Statement (.maxn q d a b) :=
  codec_word (fun h => decode_scalar _ _ _ (.maxn · d a b) ((rowOf_01 ..).trans (by simp [rowAlu]))
    (by exact wf_limits (i := .maxn q d a b) h)) rfl

theorem and (q : Qual) (d : BitVec 6) (a : BitVec 6) (b : BitVec 6) : Statement (.and q d a b) :=
  codec_word (fun h => decode_scalar _ _ _ (.and · d a b) ((rowOf_01 ..).trans (by simp [rowAlu]))
    (by exact wf_limits (i := .and q d a b) h)) rfl

theorem or (q : Qual) (d : BitVec 6) (a : BitVec 6) (b : BitVec 6) : Statement (.or q d a b) :=
  codec_word (fun h => decode_scalar _ _ _ (.or · d a b) ((rowOf_01 ..).trans (by simp [rowAlu]))
    (by exact wf_limits (i := .or q d a b) h)) rfl

theorem xor (q : Qual) (d : BitVec 6) (a : BitVec 6) (b : BitVec 6) : Statement (.xor q d a b) :=
  codec_word (fun h => decode_scalar _ _ _ (.xor · d a b) ((rowOf_01 ..).trans (by simp [rowAlu]))
    (by exact wf_limits (i := .xor q d a b) h)) rfl

theorem andn (q : Qual) (d : BitVec 6) (a : BitVec 6) (b : BitVec 6) : Statement (.andn q d a b) :=
  codec_word (fun h => decode_scalar _ _ _ (.andn · d a b) ((rowOf_01 ..).trans (by simp [rowAlu]))
    (by exact wf_limits (i := .andn q d a b) h)) rfl

theorem orn (q : Qual) (d : BitVec 6) (a : BitVec 6) (b : BitVec 6) : Statement (.orn q d a b) :=
  codec_word (fun h => decode_scalar _ _ _ (.orn · d a b) ((rowOf_01 ..).trans (by simp [rowAlu]))
    (by exact wf_limits (i := .orn q d a b) h)) rfl

theorem sel (q : Qual) (d : BitVec 6) (a : BitVec 6) (b : BitVec 6) (k : BitVec 3) : Statement (.sel q d a b k) :=
  codec_word (fun h => decode_scalar _ _ _ (.sel · d a b k) ((rowOf_01 ..).trans (by simp [rowAlu]))
    (by exact wf_limits (i := .sel q d a b k) h)) rfl

theorem shl (q : Qual) (d : BitVec 6) (a : BitVec 6) (b : BitVec 6) : Statement (.shl q d a b) :=
  codec_word (fun h => decode_scalar _ _ _ (.shl · d a b) ((rowOf_02 ..).trans (by simp [rowShift]))
    (by exact wf_limits (i := .shl q d a b) h)) rfl

theorem shr (q : Qual) (d : BitVec 6) (a : BitVec 6) (b : BitVec 6) : Statement (.shr q d a b) :=
  codec_word (fun h => decode_scalar _ _ _ (.shr · d a b) ((rowOf_02 ..).trans (by simp [rowShift]))
    (by exact wf_limits (i := .shr q d a b) h)) rfl

theorem sar (q : Qual) (d : BitVec 6) (a : BitVec 6) (b : BitVec 6) : Statement (.sar q d a b) :=
  codec_word (fun h => decode_scalar _ _ _ (.sar · d a b) ((rowOf_02 ..).trans (by simp [rowShift]))
    (by exact wf_limits (i := .sar q d a b) h)) rfl

theorem rol (q : Qual) (d : BitVec 6) (a : BitVec 6) (b : BitVec 6) : Statement (.rol q d a b) :=
  codec_word (fun h => decode_scalar _ _ _ (.rol · d a b) ((rowOf_02 ..).trans (by simp [rowShift]))
    (by exact wf_limits (i := .rol q d a b) h)) rfl

theorem ror (q : Qual) (d : BitVec 6) (a : BitVec 6) (b : BitVec 6) : Statement (.ror q d a b) :=
  codec_word (fun h => decode_scalar _ _ _ (.ror · d a b) ((rowOf_02 ..).trans (by simp [rowShift]))
    (by exact wf_limits (i := .ror q d a b) h)) rfl

theorem fshl (q : Qual) (d : BitVec 6) (a : BitVec 6) (b : BitVec 6) (c : BitVec 6) : Statement (.fshl q d a b c) :=
  codec_word (fun h => decode_scalar _ _ _ (.fshl · d a b c) ((rowOf_02 ..).trans (by simp [rowShift]))
    (by exact wf_limits (i := .fshl q d a b c) h)) rfl

theorem fshr (q : Qual) (d : BitVec 6) (a : BitVec 6) (b : BitVec 6) (c : BitVec 6) : Statement (.fshr q d a b c) :=
  codec_word (fun h => decode_scalar _ _ _ (.fshr · d a b c) ((rowOf_02 ..).trans (by simp [rowShift]))
    (by exact wf_limits (i := .fshr q d a b c) h)) rfl

theorem clz (q : Qual) (d : BitVec 6) (a : BitVec 6) : Statement (.clz q d a) :=
  codec_word (fun h => decode_scalar _ _ _ (.clz · d a) ((rowOf_02 ..).trans (by simp [rowShift]))
    (by exact wf_limits (i := .clz q d a) h)) rfl

theorem ctz (q : Qual) (d : BitVec 6) (a : BitVec 6) : Statement (.ctz q d a) :=
  codec_word (fun h => decode_scalar _ _ _ (.ctz · d a) ((rowOf_02 ..).trans (by simp [rowShift]))
    (by exact wf_limits (i := .ctz q d a) h)) rfl

theorem popc (q : Qual) (d : BitVec 6) (a : BitVec 6) : Statement (.popc q d a) :=
  codec_word (fun h => decode_scalar _ _ _ (.popc · d a) ((rowOf_02 ..).trans (by simp [rowShift]))
    (by exact wf_limits (i := .popc q d a) h)) rfl

theorem brev (q : Qual) (d : BitVec 6) (a : BitVec 6) : Statement (.brev q d a) :=
  codec_word (fun h => decode_scalar _ _ _ (.brev · d a) ((rowOf_02 ..).trans (by simp [rowShift]))
    (by exact wf_limits (i := .brev q d a) h)) rfl

theorem bswp (q : Qual) (d : BitVec 6) (a : BitVec 6) : Statement (.bswp q d a) :=
  codec_word (fun h => decode_scalar _ _ _ (.bswp · d a) ((rowOf_02 ..).trans (by simp [rowShift]))
    (by exact wf_limits (i := .bswp q d a) h)) rfl

theorem mul (q : Qual) (d : BitVec 6) (a : BitVec 6) (b : BitVec 6) : Statement (.mul q d a b) :=
  codec_word (fun h => decode_scalar _ _ _ (.mul · d a b) ((rowOf_03 ..).trans (by simp [rowMul]))
    (by exact wf_limits (i := .mul q d a b) h)) rfl

theorem mulh (q : Qual) (d : BitVec 6) (a : BitVec 6) (b : BitVec 6) : Statement (.mulh q d a b) :=
  codec_word (fun h => decode_scalar _ _ _ (.mulh · d a b) ((rowOf_03 ..).trans (by simp [rowMul]))
    (by exact wf_limits (i := .mulh q d a b) h)) rfl

theorem mulhn (q : Qual) (d : BitVec 6) (a : BitVec 6) (b : BitVec 6) : Statement (.mulhn q d a b) :=
  codec_word (fun h => decode_scalar _ _ _ (.mulhn · d a b) ((rowOf_03 ..).trans (by simp [rowMul]))
    (by exact wf_limits (i := .mulhn q d a b) h)) rfl

theorem div (q : Qual) (d : BitVec 6) (a : BitVec 6) (b : BitVec 6) : Statement (.div q d a b) :=
  codec_word (fun h => decode_scalar _ _ _ (.div · d a b) ((rowOf_03 ..).trans (by simp [rowMul]))
    (by exact wf_limits (i := .div q d a b) h)) rfl

theorem divn (q : Qual) (d : BitVec 6) (a : BitVec 6) (b : BitVec 6) : Statement (.divn q d a b) :=
  codec_word (fun h => decode_scalar _ _ _ (.divn · d a b) ((rowOf_03 ..).trans (by simp [rowMul]))
    (by exact wf_limits (i := .divn q d a b) h)) rfl

theorem rem (q : Qual) (d : BitVec 6) (a : BitVec 6) (b : BitVec 6) : Statement (.rem q d a b) :=
  codec_word (fun h => decode_scalar _ _ _ (.rem · d a b) ((rowOf_03 ..).trans (by simp [rowMul]))
    (by exact wf_limits (i := .rem q d a b) h)) rfl

theorem remn (q : Qual) (d : BitVec 6) (a : BitVec 6) (b : BitVec 6) : Statement (.remn q d a b) :=
  codec_word (fun h => decode_scalar _ _ _ (.remn · d a b) ((rowOf_03 ..).trans (by simp [rowMul]))
    (by exact wf_limits (i := .remn q d a b) h)) rfl

theorem cmp (q : Qual) (cond : Cond) (t : BitVec 3) (a : BitVec 6) (b : BitVec 6) : Statement (.cmp q cond t a b) :=
  codec_word (fun h => decode_scalar _ _ _ (.cmp · cond t a b) ((rowOf_04 ..).trans (by simp []))
    (by exact wf_limits (i := .cmp q cond t a b) h)) rfl

theorem addi (q : Qual) (d : BitVec 6) (a : BitVec 6) (imm : BitVec 32) : Statement (.addi q d a imm) :=
  codec_word (fun h => decode_scalar _ _ _ (.addi · d a imm) ((rowOf_08 ..).trans (by simp [rowImm]))
    (by exact wf_limits (i := .addi q d a imm) h)) rfl

theorem andi (q : Qual) (d : BitVec 6) (a : BitVec 6) (imm : BitVec 32) : Statement (.andi q d a imm) :=
  codec_word (fun h => decode_scalar _ _ _ (.andi · d a imm) ((rowOf_09 ..).trans (by simp [rowImm]))
    (by exact wf_limits (i := .andi q d a imm) h)) rfl

theorem ori (q : Qual) (d : BitVec 6) (a : BitVec 6) (imm : BitVec 32) : Statement (.ori q d a imm) :=
  codec_word (fun h => decode_scalar _ _ _ (.ori · d a imm) ((rowOf_0A ..).trans (by simp [rowImm]))
    (by exact wf_limits (i := .ori q d a imm) h)) rfl

theorem xori (q : Qual) (d : BitVec 6) (a : BitVec 6) (imm : BitVec 32) : Statement (.xori q d a imm) :=
  codec_word (fun h => decode_scalar _ _ _ (.xori · d a imm) ((rowOf_0B ..).trans (by simp [rowImm]))
    (by exact wf_limits (i := .xori q d a imm) h)) rfl

theorem shli (q : Qual) (d : BitVec 6) (a : BitVec 6) (imm : BitVec 32) : Statement (.shli q d a imm) :=
  codec_word (fun h => decode_scalar _ _ _ (.shli · d a imm) ((rowOf_0C ..).trans (by simp [rowImm]))
    (by exact wf_limits (i := .shli q d a imm) h)) rfl

theorem shri (q : Qual) (d : BitVec 6) (a : BitVec 6) (imm : BitVec 32) : Statement (.shri q d a imm) :=
  codec_word (fun h => decode_scalar _ _ _ (.shri · d a imm) ((rowOf_0D ..).trans (by simp [rowImm]))
    (by exact wf_limits (i := .shri q d a imm) h)) rfl

theorem sari (q : Qual) (d : BitVec 6) (a : BitVec 6) (imm : BitVec 32) : Statement (.sari q d a imm) :=
  codec_word (fun h => decode_scalar _ _ _ (.sari · d a imm) ((rowOf_0E ..).trans (by simp [rowImm]))
    (by exact wf_limits (i := .sari q d a imm) h)) rfl

theorem bfx (q : Qual) (d : BitVec 6) (a : BitVec 6) (pos : BitVec 6) (len : BitVec 7) : Statement (.bfx q d a pos len) :=
  codec_word (fun h => decode_scalar _ _ _ (.bfx · d a pos len) ((rowOf_0F ..).trans (by simp [rowImm, rowBits]))
    (by exact wf_limits (i := .bfx q d a pos len) h)) rfl

theorem bfxn (q : Qual) (d : BitVec 6) (a : BitVec 6) (pos : BitVec 6) (len : BitVec 7) : Statement (.bfxn q d a pos len) :=
  codec_word (fun h => decode_scalar _ _ _ (.bfxn · d a pos len) ((rowOf_10 ..).trans (by simp [rowImm, rowBits]))
    (by exact wf_limits (i := .bfxn q d a pos len) h)) rfl

theorem bfi (q : Qual) (d : BitVec 6) (a : BitVec 6) (pos : BitVec 6) (len : BitVec 7) : Statement (.bfi q d a pos len) :=
  codec_word (fun h => decode_scalar _ _ _ (.bfi · d a pos len) ((rowOf_11 ..).trans (by simp [rowImm, rowBits]))
    (by exact wf_limits (i := .bfi q d a pos len) h)) rfl

theorem cmpi (q : Qual) (cond : Cond) (t : BitVec 3) (a : BitVec 6) (imm : BitVec 32) : Statement (.cmpi q cond t a imm) :=
  codec_word (fun h => decode_scalar _ _ _ (.cmpi · cond t a imm) ((rowOf_12 ..).trans (by simp [rowImm]))
    (by exact wf_limits (i := .cmpi q cond t a imm) h)) rfl

theorem li (q : Qual) (d : BitVec 6) (imm : BitVec 32) : Statement (.li q d imm) :=
  codec_word (fun h => decode_scalar _ _ _ (.li · d imm) ((rowOf_13 ..).trans (by simp [rowImm]))
    (by exact wf_limits (i := .li q d imm) h)) rfl

theorem lih (q : Qual) (d : BitVec 6) (imm : BitVec 32) : Statement (.lih q d imm) :=
  codec_word (fun h => decode_scalar _ _ _ (.lih · d imm) ((rowOf_14 ..).trans (by simp [rowImm]))
    (by exact wf_limits (i := .lih q d imm) h)) rfl

theorem fadd (q : Qual) (ty : Ty) (rm : Rm) (d : BitVec 6) (a : BitVec 6) (b : BitVec 6) : Statement (.fadd q ty rm d a b) :=
  codec_word (fun h => decode_scalar _ _ _ (.fadd · ty rm d a b) ((rowOf_20 ..).trans (by simp [rowFp]))
    (by exact wf_limits (i := .fadd q ty rm d a b) h)) rfl

theorem fsub (q : Qual) (ty : Ty) (rm : Rm) (d : BitVec 6) (a : BitVec 6) (b : BitVec 6) : Statement (.fsub q ty rm d a b) :=
  codec_word (fun h => decode_scalar _ _ _ (.fsub · ty rm d a b) ((rowOf_20 ..).trans (by simp [rowFp]))
    (by exact wf_limits (i := .fsub q ty rm d a b) h)) rfl

theorem fmul (q : Qual) (ty : Ty) (rm : Rm) (d : BitVec 6) (a : BitVec 6) (b : BitVec 6) : Statement (.fmul q ty rm d a b) :=
  codec_word (fun h => decode_scalar _ _ _ (.fmul · ty rm d a b) ((rowOf_20 ..).trans (by simp [rowFp]))
    (by exact wf_limits (i := .fmul q ty rm d a b) h)) rfl

theorem ffma (q : Qual) (ty : Ty) (rm : Rm) (d : BitVec 6) (a : BitVec 6) (b : BitVec 6) (c : BitVec 6) : Statement (.ffma q ty rm d a b c) :=
  codec_word (fun h => decode_scalar _ _ _ (.ffma · ty rm d a b c) ((rowOf_20 ..).trans (by simp [rowFp]))
    (by exact wf_limits (i := .ffma q ty rm d a b c) h)) rfl

theorem fdiv (q : Qual) (ty : Ty) (rm : Rm) (d : BitVec 6) (a : BitVec 6) (b : BitVec 6) : Statement (.fdiv q ty rm d a b) :=
  codec_word (fun h => decode_scalar _ _ _ (.fdiv · ty rm d a b) ((rowOf_20 ..).trans (by simp [rowFp]))
    (by exact wf_limits (i := .fdiv q ty rm d a b) h)) rfl

theorem fsqrt (q : Qual) (ty : Ty) (rm : Rm) (d : BitVec 6) (a : BitVec 6) : Statement (.fsqrt q ty rm d a) :=
  codec_word (fun h => decode_scalar _ _ _ (.fsqrt · ty rm d a) ((rowOf_20 ..).trans (by simp [rowFp]))
    (by exact wf_limits (i := .fsqrt q ty rm d a) h)) rfl

theorem fmin (q : Qual) (ty : Ty) (d : BitVec 6) (a : BitVec 6) (b : BitVec 6) : Statement (.fmin q ty d a b) :=
  codec_word (fun h => decode_scalar _ _ _ (.fmin · ty d a b) ((rowOf_20 ..).trans (by simp [rowFp]))
    (by exact wf_limits (i := .fmin q ty d a b) h)) rfl

theorem fmax (q : Qual) (ty : Ty) (d : BitVec 6) (a : BitVec 6) (b : BitVec 6) : Statement (.fmax q ty d a b) :=
  codec_word (fun h => decode_scalar _ _ _ (.fmax · ty d a b) ((rowOf_20 ..).trans (by simp [rowFp]))
    (by exact wf_limits (i := .fmax q ty d a b) h)) rfl

theorem fcmp (q : Qual) (ty : Ty) (cond : Cond) (t : BitVec 3) (a : BitVec 6) (b : BitVec 6) : Statement (.fcmp q ty cond t a b) :=
  codec_word (fun h => decode_scalar _ _ _ (.fcmp · ty cond t a b) ((rowOf_20 ..).trans (by simp [rowFp]))
    (by exact wf_limits (i := .fcmp q ty cond t a b) h)) rfl

theorem fcvt (q : Qual) (dst : Ty) (src : Ty) (rm : Rm) (d : BitVec 6) (a : BitVec 6) : Statement (.fcvt q dst src rm d a) :=
  codec_word (fun h => decode_scalar _ _ _ (.fcvt · dst src rm d a) ((rowOf_20 ..).trans (by simp [rowFp]))
    (by exact wf_limits (i := .fcvt q dst src rm d a) h)) rfl

theorem fclass (q : Qual) (ty : Ty) (d : BitVec 6) (a : BitVec 6) : Statement (.fclass q ty d a) :=
  codec_word (fun h => decode_scalar _ _ _ (.fclass · ty d a) ((rowOf_20 ..).trans (by simp [rowFp]))
    (by exact wf_limits (i := .fclass q ty d a) h)) rfl

theorem br (off : BitVec 32) : Statement (.br off) :=
  codec_word (fun h => decode_bare _ _ (.br off) ((rowOf_30 ..).trans (by simp [rowBranch]))
    (wf_limits h)) rfl

theorem bc (k : BitVec 3) (neg : Bool) (off : BitVec 32) : Statement (.bc k neg off) :=
  codec_word (fun h => decode_bare _ _ (.bc k neg off) ((rowOf_31 ..).trans (by simp [rowBranch]))
    (wf_limits h)) rfl

theorem jmpr (a : BitVec 6) : Statement (.jmpr a) :=
  codec_word (fun h => decode_bare _ _ (.jmpr a) ((rowOf_32 ..).trans (by simp [rowBranch]))
    (wf_limits h)) rfl

theorem call (off : BitVec 32) : Statement (.call off) :=
  codec_word (fun h => decode_bare _ _ (.call off) ((rowOf_33 ..).trans (by simp [rowBranch]))
    (wf_limits h)) rfl

theorem callr (a : BitVec 6) : Statement (.callr a) :=
  codec_word (fun h => decode_bare _ _ (.callr a) ((rowOf_34 ..).trans (by simp [rowBranch]))
    (wf_limits h)) rfl

theorem ubz (off : BitVec 32) : Statement (.ubz off) :=
  codec_word (fun h => decode_bare _ _ (.ubz off) ((rowOf_36 ..).trans (by simp [rowBranch]))
    (wf_limits h)) rfl

theorem ubnz (off : BitVec 32) : Statement (.ubnz off) :=
  codec_word (fun h => decode_bare _ _ (.ubnz off) ((rowOf_36 ..).trans (by simp [rowBranch]))
    (wf_limits h)) rfl

theorem loop (lv : BitVec 3) (a : BitVec 6) (off : BitVec 32) : Statement (.loop lv a off) :=
  codec_word (fun h => decode_bare _ _ (.loop lv a off) ((rowOf_38 ..).trans (by simp [rowLoop]))
    (wf_limits h)) rfl

theorem ploop (lv : BitVec 3) (a : BitVec 6) (nst : BitVec 3) (off : BitVec 32) : Statement (.ploop lv a nst off) :=
  codec_word (fun h => decode_bare _ _ (.ploop lv a nst off) ((rowOf_39 ..).trans (by simp [rowLoop]))
    (wf_limits h)) rfl

theorem lend (lv : BitVec 3) (off : BitVec 32) : Statement (.lend lv off) :=
  codec_word (fun h => decode_bare _ _ (.lend lv off) ((rowOf_3A ..).trans (by simp [rowLoop]))
    (wf_limits h)) rfl

theorem lbrk (lv : BitVec 3) (off : BitVec 32) : Statement (.lbrk lv off) :=
  codec_word (fun h => decode_bare _ _ (.lbrk lv off) ((rowOf_3B ..).trans (by simp [rowLoop]))
    (wf_limits h)) rfl

theorem join (tag : BitVec 32) : Statement (.join tag) :=
  codec_word (fun h => decode_bare _ _ (.join tag) ((rowOf_3C ..).trans (by simp []))
    (wf_limits h)) rfl

theorem detq (d : BitVec 6) : Statement (.detq d) :=
  codec_word (fun h => decode_bare _ _ (.detq d) ((rowOf_3D ..).trans (by simp []))
    (wf_limits h)) rfl

theorem ldb (q : Qual) (d : BitVec 6) (a : BitVec 6) (sc : Scope) (o : Ord) (off : BitVec 24) : Statement (.ldb q d a sc o off) :=
  codec_word (fun h => decode_scalar _ _ _ (.ldb · d a sc o off) ((rowOf_40 ..).trans (by simp [rowLdst, rowMem]))
    (by exact wf_limits (i := .ldb q d a sc o off) h)) rfl

theorem ldh (q : Qual) (d : BitVec 6) (a : BitVec 6) (sc : Scope) (o : Ord) (off : BitVec 24) : Statement (.ldh q d a sc o off) :=
  codec_word (fun h => decode_scalar _ _ _ (.ldh · d a sc o off) ((rowOf_40 ..).trans (by simp [rowLdst, rowMem]))
    (by exact wf_limits (i := .ldh q d a sc o off) h)) rfl

theorem ldw (q : Qual) (d : BitVec 6) (a : BitVec 6) (sc : Scope) (o : Ord) (off : BitVec 24) : Statement (.ldw q d a sc o off) :=
  codec_word (fun h => decode_scalar _ _ _ (.ldw · d a sc o off) ((rowOf_40 ..).trans (by simp [rowLdst, rowMem]))
    (by exact wf_limits (i := .ldw q d a sc o off) h)) rfl

theorem ldd (q : Qual) (d : BitVec 6) (a : BitVec 6) (sc : Scope) (o : Ord) (off : BitVec 24) : Statement (.ldd q d a sc o off) :=
  codec_word (fun h => decode_scalar _ _ _ (.ldd · d a sc o off) ((rowOf_40 ..).trans (by simp [rowLdst, rowMem]))
    (by exact wf_limits (i := .ldd q d a sc o off) h)) rfl

theorem ldbn (q : Qual) (d : BitVec 6) (a : BitVec 6) (sc : Scope) (o : Ord) (off : BitVec 24) : Statement (.ldbn q d a sc o off) :=
  codec_word (fun h => decode_scalar _ _ _ (.ldbn · d a sc o off) ((rowOf_41 ..).trans (by simp [rowLdst, rowMem]))
    (by exact wf_limits (i := .ldbn q d a sc o off) h)) rfl

theorem ldhn (q : Qual) (d : BitVec 6) (a : BitVec 6) (sc : Scope) (o : Ord) (off : BitVec 24) : Statement (.ldhn q d a sc o off) :=
  codec_word (fun h => decode_scalar _ _ _ (.ldhn · d a sc o off) ((rowOf_41 ..).trans (by simp [rowLdst, rowMem]))
    (by exact wf_limits (i := .ldhn q d a sc o off) h)) rfl

theorem ldwn (q : Qual) (d : BitVec 6) (a : BitVec 6) (sc : Scope) (o : Ord) (off : BitVec 24) : Statement (.ldwn q d a sc o off) :=
  codec_word (fun h => decode_scalar _ _ _ (.ldwn · d a sc o off) ((rowOf_41 ..).trans (by simp [rowLdst, rowMem]))
    (by exact wf_limits (i := .ldwn q d a sc o off) h)) rfl

theorem stb (q : Qual) (s : BitVec 6) (a : BitVec 6) (sc : Scope) (o : Ord) (off : BitVec 24) : Statement (.stb q s a sc o off) :=
  codec_word (fun h => decode_scalar _ _ _ (.stb · s a sc o off) ((rowOf_42 ..).trans (by simp [rowLdst, rowMem]))
    (by exact wf_limits (i := .stb q s a sc o off) h)) rfl

theorem sth (q : Qual) (s : BitVec 6) (a : BitVec 6) (sc : Scope) (o : Ord) (off : BitVec 24) : Statement (.sth q s a sc o off) :=
  codec_word (fun h => decode_scalar _ _ _ (.sth · s a sc o off) ((rowOf_42 ..).trans (by simp [rowLdst, rowMem]))
    (by exact wf_limits (i := .sth q s a sc o off) h)) rfl

theorem stw (q : Qual) (s : BitVec 6) (a : BitVec 6) (sc : Scope) (o : Ord) (off : BitVec 24) : Statement (.stw q s a sc o off) :=
  codec_word (fun h => decode_scalar _ _ _ (.stw · s a sc o off) ((rowOf_42 ..).trans (by simp [rowLdst, rowMem]))
    (by exact wf_limits (i := .stw q s a sc o off) h)) rfl

theorem std (q : Qual) (s : BitVec 6) (a : BitVec 6) (sc : Scope) (o : Ord) (off : BitVec 24) : Statement (.std q s a sc o off) :=
  codec_word (fun h => decode_scalar _ _ _ (.std · s a sc o off) ((rowOf_42 ..).trans (by simp [rowLdst, rowMem]))
    (by exact wf_limits (i := .std q s a sc o off) h)) rfl

theorem engineEnqueue (w : Word) : Statement (.engineEnqueue w) :=
  codec_none rfl rfl

theorem vadd (p : Engw) (ty : Ty) (d : BitVec 5) (a : BitVec 5) (b : BitVec 5) (m : BitVec 3) : Statement (.vadd p ty d a b m) :=
  codec_word (fun h => decode_engine _ _ _ (.vadd · ty d a b m) ((rowOf_50 ..).trans (by simp [rowVArith, rowV3]))
    (by exact wf_limits (i := .vadd p ty d a b m) h) (by exact wf_tokens (i := .vadd p ty d a b m) h)) rfl

theorem vsub (p : Engw) (ty : Ty) (d : BitVec 5) (a : BitVec 5) (b : BitVec 5) (m : BitVec 3) : Statement (.vsub p ty d a b m) :=
  codec_word (fun h => decode_engine _ _ _ (.vsub · ty d a b m) ((rowOf_50 ..).trans (by simp [rowVArith, rowV3]))
    (by exact wf_limits (i := .vsub p ty d a b m) h) (by exact wf_tokens (i := .vsub p ty d a b m) h)) rfl

theorem vmul (p : Engw) (ty : Ty) (d : BitVec 5) (a : BitVec 5) (b : BitVec 5) (m : BitVec 3) : Statement (.vmul p ty d a b m) :=
  codec_word (fun h => decode_engine _ _ _ (.vmul · ty d a b m) ((rowOf_50 ..).trans (by simp [rowVArith, rowV3]))
    (by exact wf_limits (i := .vmul p ty d a b m) h) (by exact wf_tokens (i := .vmul p ty d a b m) h)) rfl

theorem vfma (p : Engw) (ty : Ty) (d : BitVec 5) (a : BitVec 5) (b : BitVec 5) (c : BitVec 5) (m : BitVec 3) : Statement (.vfma p ty d a b c m) :=
  codec_word (fun h => decode_engine _ _ _ (.vfma · ty d a b c m) ((rowOf_50 ..).trans (by simp [rowVArith, rowV4]))
    (by exact wf_limits (i := .vfma p ty d a b c m) h) (by exact wf_tokens (i := .vfma p ty d a b c m) h)) rfl

theorem vfms (p : Engw) (ty : Ty) (d : BitVec 5) (a : BitVec 5) (b : BitVec 5) (c : BitVec 5) (m : BitVec 3) : Statement (.vfms p ty d a b c m) :=
  codec_word (fun h => decode_engine _ _ _ (.vfms · ty d a b c m) ((rowOf_50 ..).trans (by simp [rowVArith, rowV4]))
    (by exact wf_limits (i := .vfms p ty d a b c m) h) (by exact wf_tokens (i := .vfms p ty d a b c m) h)) rfl

theorem vmin (p : Engw) (ty : Ty) (d : BitVec 5) (a : BitVec 5) (b : BitVec 5) (m : BitVec 3) : Statement (.vmin p ty d a b m) :=
  codec_word (fun h => decode_engine _ _ _ (.vmin · ty d a b m) ((rowOf_50 ..).trans (by simp [rowVArith, rowV3]))
    (by exact wf_limits (i := .vmin p ty d a b m) h) (by exact wf_tokens (i := .vmin p ty d a b m) h)) rfl

theorem vmax (p : Engw) (ty : Ty) (d : BitVec 5) (a : BitVec 5) (b : BitVec 5) (m : BitVec 3) : Statement (.vmax p ty d a b m) :=
  codec_word (fun h => decode_engine _ _ _ (.vmax · ty d a b m) ((rowOf_50 ..).trans (by simp [rowVArith, rowV3]))
    (by exact wf_limits (i := .vmax p ty d a b m) h) (by exact wf_tokens (i := .vmax p ty d a b m) h)) rfl

theorem vabs (p : Engw) (ty : Ty) (d : BitVec 5) (a : BitVec 5) (m : BitVec 3) : Statement (.vabs p ty d a m) :=
  codec_word (fun h => decode_engine _ _ _ (.vabs · ty d a m) ((rowOf_50 ..).trans (by simp [rowVArith, rowV2]))
    (by exact wf_limits (i := .vabs p ty d a m) h) (by exact wf_tokens (i := .vabs p ty d a m) h)) rfl

theorem vneg (p : Engw) (ty : Ty) (d : BitVec 5) (a : BitVec 5) (m : BitVec 3) : Statement (.vneg p ty d a m) :=
  codec_word (fun h => decode_engine _ _ _ (.vneg · ty d a m) ((rowOf_50 ..).trans (by simp [rowVArith, rowV2]))
    (by exact wf_limits (i := .vneg p ty d a m) h) (by exact wf_tokens (i := .vneg p ty d a m) h)) rfl

theorem vand (p : Engw) (d : BitVec 5) (a : BitVec 5) (b : BitVec 5) (m : BitVec 3) : Statement (.vand p d a b m) :=
  codec_word (fun h => decode_engine _ _ _ (.vand · d a b m) ((rowOf_51 ..).trans (by simp [rowVLogic, wordTyped]))
    (by exact wf_limits (i := .vand p d a b m) h) (by exact wf_tokens (i := .vand p d a b m) h)) rfl

theorem vor (p : Engw) (d : BitVec 5) (a : BitVec 5) (b : BitVec 5) (m : BitVec 3) : Statement (.vor p d a b m) :=
  codec_word (fun h => decode_engine _ _ _ (.vor · d a b m) ((rowOf_51 ..).trans (by simp [rowVLogic, wordTyped]))
    (by exact wf_limits (i := .vor p d a b m) h) (by exact wf_tokens (i := .vor p d a b m) h)) rfl

theorem vxor (p : Engw) (d : BitVec 5) (a : BitVec 5) (b : BitVec 5) (m : BitVec 3) : Statement (.vxor p d a b m) :=
  codec_word (fun h => decode_engine _ _ _ (.vxor · d a b m) ((rowOf_51 ..).trans (by simp [rowVLogic, wordTyped]))
    (by exact wf_limits (i := .vxor p d a b m) h) (by exact wf_tokens (i := .vxor p d a b m) h)) rfl

theorem vnot (p : Engw) (d : BitVec 5) (a : BitVec 5) (m : BitVec 3) : Statement (.vnot p d a m) :=
  codec_word (fun h => decode_engine _ _ _ (.vnot · d a m) ((rowOf_51 ..).trans (by simp [rowVLogic, wordTyped]))
    (by exact wf_limits (i := .vnot p d a m) h) (by exact wf_tokens (i := .vnot p d a m) h)) rfl

theorem vshl (p : Engw) (ty : Ty) (d : BitVec 5) (a : BitVec 5) (b : BitVec 5) (m : BitVec 3) : Statement (.vshl p ty d a b m) :=
  codec_word (fun h => decode_engine _ _ _ (.vshl · ty d a b m) ((rowOf_52 ..).trans (by simp [rowVShift, rowV3]))
    (by exact wf_limits (i := .vshl p ty d a b m) h) (by exact wf_tokens (i := .vshl p ty d a b m) h)) rfl

theorem vshr (p : Engw) (ty : Ty) (d : BitVec 5) (a : BitVec 5) (b : BitVec 5) (m : BitVec 3) : Statement (.vshr p ty d a b m) :=
  codec_word (fun h => decode_engine _ _ _ (.vshr · ty d a b m) ((rowOf_52 ..).trans (by simp [rowVShift, rowV3]))
    (by exact wf_limits (i := .vshr p ty d a b m) h) (by exact wf_tokens (i := .vshr p ty d a b m) h)) rfl

theorem vsar (p : Engw) (ty : Ty) (d : BitVec 5) (a : BitVec 5) (b : BitVec 5) (m : BitVec 3) : Statement (.vsar p ty d a b m) :=
  codec_word (fun h => decode_engine _ _ _ (.vsar · ty d a b m) ((rowOf_52 ..).trans (by simp [rowVShift, rowV3]))
    (by exact wf_limits (i := .vsar p ty d a b m) h) (by exact wf_tokens (i := .vsar p ty d a b m) h)) rfl

theorem vbfx (p : Engw) (ty : Ty) (d : BitVec 5) (a : BitVec 5) (lenm1 : BitVec 5) (pos : BitVec 6) (m : BitVec 3) : Statement (.vbfx p ty d a lenm1 pos m) :=
  codec_word (fun h => decode_engine _ _ _ (.vbfx · ty d a lenm1 pos m) ((rowOf_52 ..).trans (by simp [rowVShift]))
    (by exact wf_limits (i := .vbfx p ty d a lenm1 pos m) h) (by exact wf_tokens (i := .vbfx p ty d a lenm1 pos m) h)) rfl

theorem vfsh (p : Engw) (ty : Ty) (d : BitVec 5) (a : BitVec 5) (b : BitVec 5) (c : BitVec 5) (m : BitVec 3) : Statement (.vfsh p ty d a b c m) :=
  codec_word (fun h => decode_engine _ _ _ (.vfsh · ty d a b c m) ((rowOf_52 ..).trans (by simp [rowVShift, rowV4]))
    (by exact wf_limits (i := .vfsh p ty d a b c m) h) (by exact wf_tokens (i := .vfsh p ty d a b c m) h)) rfl

theorem vclz (p : Engw) (ty : Ty) (d : BitVec 5) (a : BitVec 5) (m : BitVec 3) : Statement (.vclz p ty d a m) :=
  codec_word (fun h => decode_engine _ _ _ (.vclz · ty d a m) ((rowOf_52 ..).trans (by simp [rowVShift, rowV2]))
    (by exact wf_limits (i := .vclz p ty d a m) h) (by exact wf_tokens (i := .vclz p ty d a m) h)) rfl

theorem vpopc (p : Engw) (ty : Ty) (d : BitVec 5) (a : BitVec 5) (m : BitVec 3) : Statement (.vpopc p ty d a m) :=
  codec_word (fun h => decode_engine _ _ _ (.vpopc · ty d a m) ((rowOf_52 ..).trans (by simp [rowVShift, rowV2]))
    (by exact wf_limits (i := .vpopc p ty d a m) h) (by exact wf_tokens (i := .vpopc p ty d a m) h)) rfl

theorem vcmp (p : Engw) (ty : Ty) (cond : Cond) (t : BitVec 3) (a : BitVec 5) (b : BitVec 5) (m : BitVec 3) : Statement (.vcmp p ty cond t a b m) :=
  codec_word (fun h => decode_engine _ _ _ (.vcmp · ty cond t a b m) ((rowOf_53 ..).trans (by simp [rowVcmp, maskVd]))
    (by exact wf_limits (i := .vcmp p ty cond t a b m) h) (by exact wf_tokens (i := .vcmp p ty cond t a b m) h)) rfl

theorem vsel (p : Engw) (d : BitVec 5) (a : BitVec 5) (b : BitVec 5) (k : BitVec 3) : Statement (.vsel p d a b k) :=
  codec_word (fun h => decode_engine _ _ _ (.vsel · d a b k) ((rowOf_54 ..).trans (by simp [wordTyped]))
    (by exact wf_limits (i := .vsel p d a b k) h) (by exact wf_tokens (i := .vsel p d a b k) h)) rfl

theorem vmov (p : Engw) (d : BitVec 5) (a : BitVec 5) (m : BitVec 3) : Statement (.vmov p d a m) :=
  codec_word (fun h => decode_engine _ _ _ (.vmov · d a m) ((rowOf_55 ..).trans (by simp [rowVMove, wordTyped]))
    (by exact wf_limits (i := .vmov p d a m) h) (by exact wf_tokens (i := .vmov p d a m) h)) rfl

theorem vli (p : Engw) (ty : Ty) (d : BitVec 5) (imm : BitVec 16) (m : BitVec 3) : Statement (.vli p ty d imm m) :=
  codec_word (fun h => decode_engine _ _ _ (.vli · ty d imm m) ((rowOf_55 ..).trans (by simp [rowVMove]))
    (by exact wf_limits (i := .vli p ty d imm m) h) (by exact wf_tokens (i := .vli p ty d imm m) h)) rfl

theorem vext (p : Engw) (ty : Ty) (d : BitVec 5) (a : BitVec 5) (row : BitVec 4) (col : BitVec 8) : Statement (.vext p ty d a row col) :=
  codec_word (fun h => decode_engine _ _ _ (.vext · ty d a row col) ((rowOf_55 ..).trans (by simp [rowVMove, VF.col, colVc, colImm]))
    (by exact wf_limits (i := .vext p ty d a row col) h) (by exact wf_tokens (i := .vext p ty d a row col) h)) rfl

theorem vins (p : Engw) (ty : Ty) (d : BitVec 5) (a : BitVec 5) (row : BitVec 4) (col : BitVec 8) (m : BitVec 3) : Statement (.vins p ty d a row col m) :=
  codec_word (fun h => decode_engine _ _ _ (.vins · ty d a row col m) ((rowOf_55 ..).trans (by simp [rowVMove, VF.col, colVc, colImm]))
    (by exact wf_limits (i := .vins p ty d a row col m) h) (by exact wf_tokens (i := .vins p ty d a row col m) h)) rfl

theorem vcvt (p : Engw) (dst : Ty) (src : Ty) (d : BitVec 5) (a : BitVec 5) (part : BitVec 2) (rm : Rm) (m : BitVec 3) : Statement (.vcvt p dst src d a part rm m) :=
  codec_word (fun h => decode_engine _ _ _ (.vcvt · dst src d a part rm m) ((rowOf_56 ..).trans (by simp [rowVcvt, partVc, VF.cvtZero]))
    (by exact wf_limits (i := .vcvt p dst src d a part rm m) h) (by exact wf_tokens (i := .vcvt p dst src d a part rm m) h)) rfl

theorem vqnt (p : Engw) (ty : Ty) (cmpd : Bool) (d : BitVec 5) (a : BitVec 5) (part : BitVec 2) (rm : Rm) (m : BitVec 3) : Statement (.vqnt p ty cmpd d a part rm m) :=
  codec_word (fun h => decode_engine _ _ _ (.vqnt · ty cmpd d a part rm m) ((rowOf_57 ..).trans (by simp [rowVqnt, partVc, VF.cvtZero]))
    (by exact wf_limits (i := .vqnt p ty cmpd d a part rm m) h) (by exact wf_tokens (i := .vqnt p ty cmpd d a part rm m) h)) rfl

theorem vdqnt (p : Engw) (ty : Ty) (cmpd : Bool) (d : BitVec 5) (a : BitVec 5) (part : BitVec 2) (m : BitVec 3) : Statement (.vdqnt p ty cmpd d a part m) :=
  codec_word (fun h => decode_engine _ _ _ (.vdqnt · ty cmpd d a part m) ((rowOf_58 ..).trans (by simp [rowVdqnt, partVc, VF.cvtZero]))
    (by exact wf_limits (i := .vdqnt p ty cmpd d a part m) h) (by exact wf_tokens (i := .vdqnt p ty cmpd d a part m) h)) rfl

theorem vpack6 (p : Engw) (ty : Ty) (d : BitVec 5) (a : BitVec 5) (part : BitVec 2) (m : BitVec 3) : Statement (.vpack6 p ty d a part m) :=
  codec_word (fun h => decode_engine _ _ _ (.vpack6 · ty d a part m) ((rowOf_59 ..).trans (by simp [rowVpack6, partVc, VF.cvtZero]))
    (by exact wf_limits (i := .vpack6 p ty d a part m) h) (by exact wf_tokens (i := .vpack6 p ty d a part m) h)) rfl

theorem vunpk6 (p : Engw) (dst : Ty) (src : Ty) (d : BitVec 5) (a : BitVec 5) (part : BitVec 2) (rm : Rm) (m : BitVec 3) : Statement (.vunpk6 p dst src d a part rm m) :=
  codec_word (fun h => decode_engine _ _ _ (.vunpk6 · dst src d a part rm m) ((rowOf_5A ..).trans (by simp [rowVunpk6, partVc, VF.cvtZero]))
    (by exact wf_limits (i := .vunpk6 p dst src d a part rm m) h) (by exact wf_tokens (i := .vunpk6 p dst src d a part rm m) h)) rfl

theorem vhad (p : Engw) (ty : Ty) (d : BitVec 5) (a : BitVec 5) (n : BitVec 6) (m : BitVec 3) : Statement (.vhad p ty d a n m) :=
  codec_word (fun h => decode_engine _ _ _ (.vhad · ty d a n m) ((rowOf_5B ..).trans (by simp []))
    (by exact wf_limits (i := .vhad p ty d a n m) h) (by exact wf_tokens (i := .vhad p ty d a n m) h)) rfl

theorem vrotr (p : Engw) (ty : Ty) (d : BitVec 5) (a : BitVec 5) (k : BitVec 8) (m : BitVec 3) : Statement (.vrotr p ty d a k m) :=
  codec_word (fun h => decode_engine _ _ _ (.vrotr · ty d a k m) ((rowOf_5C ..).trans (by simp [rowVrot, VF.col, colVc, colImm]))
    (by exact wf_limits (i := .vrotr p ty d a k m) h) (by exact wf_tokens (i := .vrotr p ty d a k m) h)) rfl

theorem vrotc (p : Engw) (ty : Ty) (d : BitVec 5) (a : BitVec 5) (k : BitVec 8) (m : BitVec 3) : Statement (.vrotc p ty d a k m) :=
  codec_word (fun h => decode_engine _ _ _ (.vrotc · ty d a k m) ((rowOf_5C ..).trans (by simp [rowVrot, VF.col, colVc, colImm]))
    (by exact wf_limits (i := .vrotc p ty d a k m) h) (by exact wf_tokens (i := .vrotc p ty d a k m) h)) rfl

theorem vbcr (p : Engw) (ty : Ty) (d : BitVec 5) (a : BitVec 5) (k : BitVec 8) (m : BitVec 3) : Statement (.vbcr p ty d a k m) :=
  codec_word (fun h => decode_engine _ _ _ (.vbcr · ty d a k m) ((rowOf_5C ..).trans (by simp [rowVrot, VF.col, colVc, colImm]))
    (by exact wf_limits (i := .vbcr p ty d a k m) h) (by exact wf_tokens (i := .vbcr p ty d a k m) h)) rfl

theorem vbcc (p : Engw) (ty : Ty) (d : BitVec 5) (a : BitVec 5) (k : BitVec 8) (m : BitVec 3) : Statement (.vbcc p ty d a k m) :=
  codec_word (fun h => decode_engine _ _ _ (.vbcc · ty d a k m) ((rowOf_5C ..).trans (by simp [rowVrot, VF.col, colVc, colImm]))
    (by exact wf_limits (i := .vbcc p ty d a k m) h) (by exact wf_tokens (i := .vbcc p ty d a k m) h)) rfl

theorem vredr (p : Engw) (op : RedOp) (ty : Ty) (d : BitVec 5) (a : BitVec 5) (m : BitVec 3) : Statement (.vredr p op ty d a m) :=
  codec_word (fun h => decode_engine _ _ _ (.vredr · op ty d a m) ((rowOf_5D ..).trans (by simp [rowVred]))
    (by exact wf_limits (i := .vredr p op ty d a m) h) (by exact wf_tokens (i := .vredr p op ty d a m) h)) rfl

theorem vredc (p : Engw) (op : RedOp) (ty : Ty) (d : BitVec 5) (a : BitVec 5) (m : BitVec 3) : Statement (.vredc p op ty d a m) :=
  codec_word (fun h => decode_engine _ _ _ (.vredc · op ty d a m) ((rowOf_5D ..).trans (by simp [rowVred]))
    (by exact wf_limits (i := .vredc p op ty d a m) h) (by exact wf_tokens (i := .vredc p op ty d a m) h)) rfl

theorem vscanr (p : Engw) (op : RedOp) (ty : Ty) (d : BitVec 5) (a : BitVec 5) (m : BitVec 3) : Statement (.vscanr p op ty d a m) :=
  codec_word (fun h => decode_engine _ _ _ (.vscanr · op ty d a m) ((rowOf_5D ..).trans (by simp [rowVred]))
    (by exact wf_limits (i := .vscanr p op ty d a m) h) (by exact wf_tokens (i := .vscanr p op ty d a m) h)) rfl

theorem vhist (p : Engw) (ty : Ty) (d : BitVec 5) (a : BitVec 5) (pos : BitVec 6) (m : BitVec 3) : Statement (.vhist p ty d a pos m) :=
  codec_word (fun h => decode_engine _ _ _ (.vhist · ty d a pos m) ((rowOf_5E ..).trans (by simp [rowVsel]))
    (by exact wf_limits (i := .vhist p ty d a pos m) h) (by exact wf_tokens (i := .vhist p ty d a pos m) h)) rfl

theorem vrkey (p : Engw) (ty : Ty) (d : BitVec 5) (a : BitVec 5) (m : BitVec 3) : Statement (.vrkey p ty d a m) :=
  codec_word (fun h => decode_engine _ _ _ (.vrkey · ty d a m) ((rowOf_5E ..).trans (by simp [rowVsel, rowV2]))
    (by exact wf_limits (i := .vrkey p ty d a m) h) (by exact wf_tokens (i := .vrkey p ty d a m) h)) rfl

theorem vselk (p : Engw) (d : BitVec 5) (a : BitVec 5) (b : BitVec 5) (km1 : BitVec 6) (m : BitVec 3) : Statement (.vselk p d a b km1 m) :=
  codec_word (fun h => decode_engine _ _ _ (.vselk · d a b km1 m) ((rowOf_5E ..).trans (by simp [rowVsel, wordTyped]))
    (by exact wf_limits (i := .vselk p d a b km1 m) h) (by exact wf_tokens (i := .vselk p d a b km1 m) h)) rfl

theorem vcomp (p : Engw) (ty : Ty) (d : BitVec 5) (a : BitVec 5) (m : BitVec 3) : Statement (.vcomp p ty d a m) :=
  codec_word (fun h => decode_engine _ _ _ (.vcomp · ty d a m) ((rowOf_5E ..).trans (by simp [rowVsel, rowV2]))
    (by exact wf_limits (i := .vcomp p ty d a m) h) (by exact wf_tokens (i := .vcomp p ty d a m) h)) rfl

theorem vlut (p : Engw) (ty : Ty) (d : BitVec 5) (a : BitVec 5) (b : BitVec 5) (m : BitVec 3) : Statement (.vlut p ty d a b m) :=
  codec_word (fun h => decode_engine _ _ _ (.vlut · ty d a b m) ((rowOf_5F ..).trans (by simp []))
    (by exact wf_limits (i := .vlut p ty d a b m) h) (by exact wf_tokens (i := .vlut p ty d a b m) h)) rfl

theorem vld (p : Engw) (ty : Ty) (d : BitVec 5) (addr : VAddr) (m : BitVec 3) : Statement (.vld p ty d addr m) :=
  codec_word (fun h => decode_engine _ _ _ (.vld · ty d addr m) ((rowOf_60 ..).trans (by rcases addr with q | ⟨s, _ | inc⟩ <;> simp [rowVmem, VF.addr, VF.addrZero, VAddr.va, VAddr.vb, VAddr.ax, VAddr.imm]))
    (by exact wf_limits (i := .vld p ty d addr m) h) (by exact wf_tokens (i := .vld p ty d addr m) h)) rfl

theorem vst (p : Engw) (ty : Ty) (d : BitVec 5) (addr : VAddr) (m : BitVec 3) : Statement (.vst p ty d addr m) :=
  codec_word (fun h => decode_engine _ _ _ (.vst · ty d addr m) ((rowOf_61 ..).trans (by rcases addr with q | ⟨s, _ | inc⟩ <;> simp [rowVmem, VF.addr, VF.addrZero, VAddr.va, VAddr.vb, VAddr.ax, VAddr.imm]))
    (by exact wf_limits (i := .vst p ty d addr m) h) (by exact wf_tokens (i := .vst p ty d addr m) h)) rfl

theorem vlda (p : Engw) (ty : Ty) (d : BitVec 5) (addr : VAddr) (m : BitVec 3) : Statement (.vlda p ty d addr m) :=
  codec_word (fun h => decode_engine _ _ _ (.vlda · ty d addr m) ((rowOf_62 ..).trans (by rcases addr with q | ⟨s, _ | inc⟩ <;> simp [rowVmem, VF.addr, VF.addrZero, VAddr.va, VAddr.vb, VAddr.ax, VAddr.imm]))
    (by exact wf_limits (i := .vlda p ty d addr m) h) (by exact wf_tokens (i := .vlda p ty d addr m) h)) rfl

theorem vsta (p : Engw) (ty : Ty) (d : BitVec 5) (addr : VAddr) (m : BitVec 3) : Statement (.vsta p ty d addr m) :=
  codec_word (fun h => decode_engine _ _ _ (.vsta · ty d addr m) ((rowOf_63 ..).trans (by rcases addr with q | ⟨s, _ | inc⟩ <;> simp [rowVmem, VF.addr, VF.addrZero, VAddr.va, VAddr.vb, VAddr.ax, VAddr.imm]))
    (by exact wf_limits (i := .vsta p ty d addr m) h) (by exact wf_tokens (i := .vsta p ty d addr m) h)) rfl

theorem vgth (p : Engw) (ty : Ty) (d : BitVec 5) (addr : VAddr) (c : BitVec 5) (m : BitVec 3) : Statement (.vgth p ty d addr c m) :=
  codec_word (fun h => decode_engine _ _ _ (.vgth · ty d addr c m) ((rowOf_64 ..).trans (by rcases addr with q | ⟨s, _ | inc⟩ <;> simp [rowVidx, VF.addr, VF.addrZero, VAddr.va, VAddr.vb, VAddr.ax, VAddr.imm]))
    (by exact wf_limits (i := .vgth p ty d addr c m) h) (by exact wf_tokens (i := .vgth p ty d addr c m) h)) rfl

theorem vsct (p : Engw) (ty : Ty) (d : BitVec 5) (addr : VAddr) (c : BitVec 5) (m : BitVec 3) : Statement (.vsct p ty d addr c m) :=
  codec_word (fun h => decode_engine _ _ _ (.vsct · ty d addr c m) ((rowOf_65 ..).trans (by rcases addr with q | ⟨s, _ | inc⟩ <;> simp [rowVidx, VF.addr, VF.addrZero, VAddr.va, VAddr.vb, VAddr.ax, VAddr.imm]))
    (by exact wf_limits (i := .vsct p ty d addr c m) h) (by exact wf_tokens (i := .vsct p ty d addr c m) h)) rfl

theorem mpush (p : Engw) (k : BitVec 3) : Statement (.mpush p k) :=
  codec_word (fun h => decode_engine _ _ _ (.mpush · k) ((rowOf_70 ..).trans (by simp [rowMask]))
    (by exact wf_limits (i := .mpush p k) h) (by exact wf_tokens (i := .mpush p k) h)) rfl

theorem minv (p : Engw) : Statement (.minv p) :=
  codec_word (fun h => decode_engine _ _ _ .minv ((rowOf_70 ..).trans (by simp [rowMask]))
    (by exact wf_limits (i := .minv p) h) (by exact wf_tokens (i := .minv p) h)) rfl

theorem mpop (p : Engw) : Statement (.mpop p) :=
  codec_word (fun h => decode_engine _ _ _ .mpop ((rowOf_70 ..).trans (by simp [rowMask]))
    (by exact wf_limits (i := .mpop p) h) (by exact wf_tokens (i := .mpop p) h)) rfl

theorem mset (p : Engw) (t : BitVec 3) (v : Bool) : Statement (.mset p t v) :=
  codec_word (fun h => decode_engine _ _ _ (.mset · t v) ((rowOf_70 ..).trans (by cases v <;> simp [rowMask, maskVd]))
    (by exact wf_limits (i := .mset p t v) h) (by exact wf_tokens (i := .mset p t v) h)) rfl

theorem mmov (p : Engw) (t : BitVec 3) (k : BitVec 3) : Statement (.mmov p t k) :=
  codec_word (fun h => decode_engine _ _ _ (.mmov · t k) ((rowOf_70 ..).trans (by simp [rowMask, maskVd]))
    (by exact wf_limits (i := .mmov p t k) h) (by exact wf_tokens (i := .mmov p t k) h)) rfl

theorem many (p : Engw) (t : BitVec 3) (k : BitVec 3) : Statement (.many p t k) :=
  codec_word (fun h => decode_engine _ _ _ (.many · t k) ((rowOf_70 ..).trans (by simp [rowMask, maskVd]))
    (by exact wf_limits (i := .many p t k) h) (by exact wf_tokens (i := .many p t k) h)) rfl

theorem mnone (p : Engw) (t : BitVec 3) (k : BitVec 3) : Statement (.mnone p t k) :=
  codec_word (fun h => decode_engine _ _ _ (.mnone · t k) ((rowOf_70 ..).trans (by simp [rowMask, maskVd]))
    (by exact wf_limits (i := .mnone p t k) h) (by exact wf_tokens (i := .mnone p t k) h)) rfl

theorem mcnt (p : Engw) (d : BitVec 5) (k : BitVec 3) : Statement (.mcnt p d k) :=
  codec_word (fun h => decode_engine _ _ _ (.mcnt · d k) ((rowOf_70 ..).trans (by simp [rowMask]))
    (by exact wf_limits (i := .mcnt p d k) h) (by exact wf_tokens (i := .mcnt p d k) h)) rfl

theorem vexp (p : Engw) (ty : Ty) (d : BitVec 5) (a : BitVec 5) (m : BitVec 3) : Statement (.vexp p ty d a m) :=
  codec_word (fun h => decode_engine _ _ _ (.vexp · ty d a m) ((rowOf_71 ..).trans (by simp [rowSpecial, rowV2]))
    (by exact wf_limits (i := .vexp p ty d a m) h) (by exact wf_tokens (i := .vexp p ty d a m) h)) rfl

theorem vexp2 (p : Engw) (ty : Ty) (d : BitVec 5) (a : BitVec 5) (m : BitVec 3) : Statement (.vexp2 p ty d a m) :=
  codec_word (fun h => decode_engine _ _ _ (.vexp2 · ty d a m) ((rowOf_71 ..).trans (by simp [rowSpecial, rowV2]))
    (by exact wf_limits (i := .vexp2 p ty d a m) h) (by exact wf_tokens (i := .vexp2 p ty d a m) h)) rfl

theorem vlog2 (p : Engw) (ty : Ty) (d : BitVec 5) (a : BitVec 5) (m : BitVec 3) : Statement (.vlog2 p ty d a m) :=
  codec_word (fun h => decode_engine _ _ _ (.vlog2 · ty d a m) ((rowOf_71 ..).trans (by simp [rowSpecial, rowV2]))
    (by exact wf_limits (i := .vlog2 p ty d a m) h) (by exact wf_tokens (i := .vlog2 p ty d a m) h)) rfl

theorem vrcp (p : Engw) (ty : Ty) (d : BitVec 5) (a : BitVec 5) (m : BitVec 3) : Statement (.vrcp p ty d a m) :=
  codec_word (fun h => decode_engine _ _ _ (.vrcp · ty d a m) ((rowOf_71 ..).trans (by simp [rowSpecial, rowV2]))
    (by exact wf_limits (i := .vrcp p ty d a m) h) (by exact wf_tokens (i := .vrcp p ty d a m) h)) rfl

theorem vrsq (p : Engw) (ty : Ty) (d : BitVec 5) (a : BitVec 5) (m : BitVec 3) : Statement (.vrsq p ty d a m) :=
  codec_word (fun h => decode_engine _ _ _ (.vrsq · ty d a m) ((rowOf_71 ..).trans (by simp [rowSpecial, rowV2]))
    (by exact wf_limits (i := .vrsq p ty d a m) h) (by exact wf_tokens (i := .vrsq p ty d a m) h)) rfl

theorem vsqrt (p : Engw) (ty : Ty) (d : BitVec 5) (a : BitVec 5) (m : BitVec 3) : Statement (.vsqrt p ty d a m) :=
  codec_word (fun h => decode_engine _ _ _ (.vsqrt · ty d a m) ((rowOf_71 ..).trans (by simp [rowSpecial, rowV2]))
    (by exact wf_limits (i := .vsqrt p ty d a m) h) (by exact wf_tokens (i := .vsqrt p ty d a m) h)) rfl

theorem vsin (p : Engw) (ty : Ty) (d : BitVec 5) (a : BitVec 5) (m : BitVec 3) : Statement (.vsin p ty d a m) :=
  codec_word (fun h => decode_engine _ _ _ (.vsin · ty d a m) ((rowOf_71 ..).trans (by simp [rowSpecial, rowV2]))
    (by exact wf_limits (i := .vsin p ty d a m) h) (by exact wf_tokens (i := .vsin p ty d a m) h)) rfl

theorem vcos (p : Engw) (ty : Ty) (d : BitVec 5) (a : BitVec 5) (m : BitVec 3) : Statement (.vcos p ty d a m) :=
  codec_word (fun h => decode_engine _ _ _ (.vcos · ty d a m) ((rowOf_71 ..).trans (by simp [rowSpecial, rowV2]))
    (by exact wf_limits (i := .vcos p ty d a m) h) (by exact wf_tokens (i := .vcos p ty d a m) h)) rfl

theorem vtanh (p : Engw) (ty : Ty) (d : BitVec 5) (a : BitVec 5) (m : BitVec 3) : Statement (.vtanh p ty d a m) :=
  codec_word (fun h => decode_engine _ _ _ (.vtanh · ty d a m) ((rowOf_71 ..).trans (by simp [rowSpecial, rowV2]))
    (by exact wf_limits (i := .vtanh p ty d a m) h) (by exact wf_tokens (i := .vtanh p ty d a m) h)) rfl

theorem qbind (q : Qual) (qa : BitVec 4) (obj : BitVec 16) : Statement (.qbind q qa obj) :=
  codec_word (fun h => decode_scalar _ _ _ (.qbind · qa obj) ((rowOf_80 ..).trans (by simp [wX]))
    (by exact wf_limits (i := .qbind q qa obj) h)) rfl

theorem qpos (q : Qual) (qa : BitVec 4) (s : BitVec 6) : Statement (.qpos q qa s) :=
  codec_word (fun h => decode_scalar _ _ _ (.qpos · qa s) ((rowOf_81 ..).trans (by simp [wX]))
    (by exact wf_limits (i := .qpos q qa s) h)) rfl

theorem qadv (q : Qual) (qa : BitVec 4) (n : BitVec 16) : Statement (.qadv q qa n) :=
  codec_word (fun h => decode_scalar _ _ _ (.qadv · qa n) ((rowOf_82 ..).trans (by simp [wX]))
    (by exact wf_limits (i := .qadv q qa n) h)) rfl

theorem mma (p : Engw) (ty : Ty) (alt : Bool) (td : BitVec 2) (qa : BitVec 4) (b : BSrc) (n : BitVec 16) : Statement (.mma p ty alt td qa b n) :=
  codec_word (fun h => decode_engine _ _ _ (.mma · ty alt td qa b n) ((rowOf_84 ..).trans (by rcases b with x | _ <;> simp [rowMma, XF.bsrc, BSrc.qb, wX]))
    (by exact wf_limits (i := .mma p ty alt td qa b n) h) (by exact wf_tokens (i := .mma p ty alt td qa b n) h)) rfl

theorem mmas (p : Engw) (ty : Ty) (alt : Bool) (td : BitVec 2) (qa : BitVec 4) (b : BSrc) (n : BitVec 16) (rowsm1 : BitVec 2) (colsm1 : BitVec 2) : Statement (.mmas p ty alt td qa b n rowsm1 colsm1) :=
  codec_word (fun h => decode_engine _ _ _ (.mmas · ty alt td qa b n rowsm1 colsm1) ((rowOf_85 ..).trans (by rcases b with x | _ <;> simp [rowMmas, XF.bsrc, BSrc.qb, wX]))
    (by exact wf_limits (i := .mmas p ty alt td qa b n rowsm1 colsm1) h) (by exact wf_tokens (i := .mmas p ty alt td qa b n rowsm1 colsm1) h)) rfl

theorem mzero (p : Engw) (td : BitVec 2) : Statement (.mzero p td) :=
  codec_word (fun h => decode_engine _ _ _ (.mzero · td) ((rowOf_86 ..).trans (by simp [wX]))
    (by exact wf_limits (i := .mzero p td) h) (by exact wf_tokens (i := .mzero p td) h)) rfl

theorem mrd (p : Engw) (ty : Ty) (rm : Rm) (qa : BitVec 4) (td : BitVec 2) : Statement (.mrd p ty rm qa td) :=
  codec_word (fun h => decode_engine _ _ _ (.mrd · ty rm qa td) ((rowOf_87 ..).trans (by simp [wX]))
    (by exact wf_limits (i := .mrd p ty rm qa td) h) (by exact wf_tokens (i := .mrd p ty rm qa td) h)) rfl

theorem mwr (p : Engw) (td : BitVec 2) (qa : BitVec 4) : Statement (.mwr p td qa) :=
  codec_word (fun h => decode_engine _ _ _ (.mwr · td qa) ((rowOf_88 ..).trans (by simp [wX]))
    (by exact wf_limits (i := .mwr p td qa) h) (by exact wf_tokens (i := .mwr p td qa) h)) rfl

theorem mldw (p : Engw) (ty : Ty) (packed : Bool) (qa : BitVec 4) : Statement (.mldw p ty packed qa) :=
  codec_word (fun h => decode_engine _ _ _ (.mldw · ty packed qa) ((rowOf_89 ..).trans (by simp [wX]))
    (by exact wf_limits (i := .mldw p ty packed qa) h) (by exact wf_tokens (i := .mldw p ty packed qa) h)) rfl

theorem ptrn (p : Engw) (ty : Ty) (d : BitVec 5) (a : BitVec 5) (b : BitVec 6) (m : BitVec 3) : Statement (.ptrn p ty d a b m) :=
  codec_word (fun h => decode_engine _ _ _ (.ptrn · ty d a b m) ((rowOf_8C ..).trans (by simp [rowPtrn]))
    (by exact wf_limits (i := .ptrn p ty d a b m) h) (by exact wf_tokens (i := .ptrn p ty d a b m) h)) rfl

theorem pshf (p : Engw) (ty : Ty) (d : BitVec 5) (a : BitVec 5) (b : BitVec 5) (m : BitVec 3) : Statement (.pshf p ty d a b m) :=
  codec_word (fun h => decode_engine _ _ _ (.pshf · ty d a b m) ((rowOf_8D ..).trans (by simp [rowPshf]))
    (by exact wf_limits (i := .pshf p ty d a b m) h) (by exact wf_tokens (i := .pshf p ty d a b m) h)) rfl

theorem prot (p : Engw) (ty : Ty) (d : BitVec 5) (a : BitVec 5) (k : BitVec 8) (m : BitVec 3) : Statement (.prot p ty d a k m) :=
  codec_word (fun h => decode_engine _ _ _ (.prot · ty d a k m) ((rowOf_8E ..).trans (by simp [rowProt, VF.col, colVc, colImm]))
    (by exact wf_limits (i := .prot p ty d a k m) h) (by exact wf_tokens (i := .prot p ty d a k m) h)) rfl

theorem pzip (p : Engw) (high : Bool) (ty : Ty) (d : BitVec 5) (a : BitVec 5) (b : BitVec 5) (m : BitVec 3) : Statement (.pzip p high ty d a b m) :=
  codec_word (fun h => decode_engine _ _ _ (.pzip · high ty d a b m) ((rowOf_8F ..).trans (by simp [rowPzip]))
    (by exact wf_limits (i := .pzip p high ty d a b m) h) (by exact wf_tokens (i := .pzip p high ty d a b m) h)) rfl

theorem cpy (q : Qual) (sd : BitVec 6) (a : BitVec 6) (flag : BitVec 10) (rel : Bool) : Statement (.cpy q sd a flag rel) :=
  codec_word (fun h => decode_scalar _ _ _ (.cpy · sd a flag rel) ((rowOf_90 ..).trans (by simp [rowCmd]))
    (by exact wf_limits (i := .cpy q sd a flag rel) h)) rfl

theorem cpym (q : Qual) (sd : BitVec 6) (a : BitVec 6) (flag : BitVec 10) (rel : Bool) : Statement (.cpym q sd a flag rel) :=
  codec_word (fun h => decode_scalar _ _ _ (.cpym · sd a flag rel) ((rowOf_91 ..).trans (by simp [rowCmd]))
    (by exact wf_limits (i := .cpym q sd a flag rel) h)) rfl

theorem gthr (q : Qual) (sd : BitVec 6) (a : BitVec 6) (flag : BitVec 10) (rel : Bool) (cntm1 : BitVec 14) : Statement (.gthr q sd a flag rel cntm1) :=
  codec_word (fun h => decode_scalar _ _ _ (.gthr · sd a flag rel cntm1) ((rowOf_92 ..).trans (by simp []))
    (by exact wf_limits (i := .gthr q sd a flag rel cntm1) h)) rfl

theorem red (q : Qual) (sd : BitVec 6) (a : BitVec 6) (flag : BitVec 10) (rel : Bool) (ordered : Bool) (op : RemOp) (ty : Ty) (srcs : BitVec 10) : Statement (.red q sd a flag rel ordered op ty srcs) :=
  codec_word (fun h => decode_scalar _ _ _ (.red · sd a flag rel ordered op ty srcs) ((rowOf_93 ..).trans (by have hl := wf_limits h; cases ordered <;> simp [Instr.limits] at hl <;> simp [rowRed, hl]))
    (by exact wf_limits (i := .red q sd a flag rel ordered op ty srcs) h)) rfl

theorem send (q : Qual) (sd : BitVec 6) (a : BitVec 6) (flag : BitVec 10) (rel : Bool) : Statement (.send q sd a flag rel) :=
  codec_word (fun h => decode_scalar _ _ _ (.send · sd a flag rel) ((rowOf_94 ..).trans (by simp [rowCmd]))
    (by exact wf_limits (i := .send q sd a flag rel) h)) rfl

theorem xlat (q : Qual) (sd : BitVec 6) (a : BitVec 6) (flag : BitVec 10) (rel : Bool) : Statement (.xlat q sd a flag rel) :=
  codec_word (fun h => decode_scalar _ _ _ (.xlat · sd a flag rel) ((rowOf_95 ..).trans (by simp [rowCmd]))
    (by exact wf_limits (i := .xlat q sd a flag rel) h)) rfl

theorem aadd (q : Qual) (w64 : Bool) (sc : Scope) (o : Ord) (d : BitVec 6) (a : BitVec 6) (b : BitVec 6) : Statement (.aadd q w64 sc o d a b) :=
  codec_word (fun h => decode_scalar _ _ _ (.aadd · w64 sc o d a b) ((rowOf_A0 ..).trans (by simp [rowAtomic, rowAtom]))
    (by exact wf_limits (i := .aadd q w64 sc o d a b) h)) rfl

theorem aand (q : Qual) (w64 : Bool) (sc : Scope) (o : Ord) (d : BitVec 6) (a : BitVec 6) (b : BitVec 6) : Statement (.aand q w64 sc o d a b) :=
  codec_word (fun h => decode_scalar _ _ _ (.aand · w64 sc o d a b) ((rowOf_A0 ..).trans (by simp [rowAtomic, rowAtom]))
    (by exact wf_limits (i := .aand q w64 sc o d a b) h)) rfl

theorem aor (q : Qual) (w64 : Bool) (sc : Scope) (o : Ord) (d : BitVec 6) (a : BitVec 6) (b : BitVec 6) : Statement (.aor q w64 sc o d a b) :=
  codec_word (fun h => decode_scalar _ _ _ (.aor · w64 sc o d a b) ((rowOf_A0 ..).trans (by simp [rowAtomic, rowAtom]))
    (by exact wf_limits (i := .aor q w64 sc o d a b) h)) rfl

theorem axor (q : Qual) (w64 : Bool) (sc : Scope) (o : Ord) (d : BitVec 6) (a : BitVec 6) (b : BitVec 6) : Statement (.axor q w64 sc o d a b) :=
  codec_word (fun h => decode_scalar _ _ _ (.axor · w64 sc o d a b) ((rowOf_A0 ..).trans (by simp [rowAtomic, rowAtom]))
    (by exact wf_limits (i := .axor q w64 sc o d a b) h)) rfl

theorem amin (q : Qual) (w64 : Bool) (sc : Scope) (o : Ord) (d : BitVec 6) (a : BitVec 6) (b : BitVec 6) : Statement (.amin q w64 sc o d a b) :=
  codec_word (fun h => decode_scalar _ _ _ (.amin · w64 sc o d a b) ((rowOf_A0 ..).trans (by simp [rowAtomic, rowAtom]))
    (by exact wf_limits (i := .amin q w64 sc o d a b) h)) rfl

theorem amax (q : Qual) (w64 : Bool) (sc : Scope) (o : Ord) (d : BitVec 6) (a : BitVec 6) (b : BitVec 6) : Statement (.amax q w64 sc o d a b) :=
  codec_word (fun h => decode_scalar _ _ _ (.amax · w64 sc o d a b) ((rowOf_A0 ..).trans (by simp [rowAtomic, rowAtom]))
    (by exact wf_limits (i := .amax q w64 sc o d a b) h)) rfl

theorem aminn (q : Qual) (w64 : Bool) (sc : Scope) (o : Ord) (d : BitVec 6) (a : BitVec 6) (b : BitVec 6) : Statement (.aminn q w64 sc o d a b) :=
  codec_word (fun h => decode_scalar _ _ _ (.aminn · w64 sc o d a b) ((rowOf_A0 ..).trans (by simp [rowAtomic, rowAtom]))
    (by exact wf_limits (i := .aminn q w64 sc o d a b) h)) rfl

theorem amaxn (q : Qual) (w64 : Bool) (sc : Scope) (o : Ord) (d : BitVec 6) (a : BitVec 6) (b : BitVec 6) : Statement (.amaxn q w64 sc o d a b) :=
  codec_word (fun h => decode_scalar _ _ _ (.amaxn · w64 sc o d a b) ((rowOf_A0 ..).trans (by simp [rowAtomic, rowAtom]))
    (by exact wf_limits (i := .amaxn q w64 sc o d a b) h)) rfl

theorem axchg (q : Qual) (w64 : Bool) (sc : Scope) (o : Ord) (d : BitVec 6) (a : BitVec 6) (b : BitVec 6) : Statement (.axchg q w64 sc o d a b) :=
  codec_word (fun h => decode_scalar _ _ _ (.axchg · w64 sc o d a b) ((rowOf_A0 ..).trans (by simp [rowAtomic, rowAtom]))
    (by exact wf_limits (i := .axchg q w64 sc o d a b) h)) rfl

theorem acas (q : Qual) (w64 : Bool) (sc : Scope) (o : Ord) (d : BitVec 6) (a : BitVec 6) (b : BitVec 6) (c : BitVec 6) : Statement (.acas q w64 sc o d a b c) :=
  codec_word (fun h => decode_scalar _ _ _ (.acas · w64 sc o d a b c) ((rowOf_A0 ..).trans (by simp [rowAtomic]))
    (by exact wf_limits (i := .acas q w64 sc o d a b c) h)) rfl

theorem afadd (q : Qual) (sc : Scope) (o : Ord) (d : BitVec 6) (a : BitVec 6) (b : BitVec 6) : Statement (.afadd q sc o d a b) :=
  codec_word (fun h => decode_scalar _ _ _ (.afadd · sc o d a b) ((rowOf_A0 ..).trans (by simp [rowAtomic]))
    (by exact wf_limits (i := .afadd q sc o d a b) h)) rfl

theorem fence (q : Qual) (sc : Scope) (o : Ord) : Statement (.fence q sc o) :=
  codec_word (fun h => decode_scalar _ _ _ (.fence · sc o) ((rowOf_A1 ..).trans (by simp [rowFence]))
    (by exact wf_limits (i := .fence q sc o) h)) rfl

theorem waita (q : Qual) (sc : Scope) (o : Ord) (d : BitVec 6) (a : BitVec 6) (b : BitVec 6) (t : BitVec 6) : Statement (.waita q sc o d a b t) :=
  codec_word (fun h => decode_scalar _ _ _ (.waita · sc o d a b t) ((rowOf_A2 ..).trans (by simp [rowWaita]))
    (by exact wf_limits (i := .waita q sc o d a b t) h)) rfl

theorem fsig (q : Qual) (die : Bool) (d : BitVec 6) (a : BitVec 6) (b : BitVec 6) (obj : BitVec 10) : Statement (.fsig q die d a b obj) :=
  codec_word (fun h => decode_scalar _ _ _ (.fsig · die d a b obj) ((rowOf_A4 ..).trans (by simp [rowFlag, flagFn]))
    (by exact wf_limits (i := .fsig q die d a b obj) h)) rfl

theorem fset (q : Qual) (die : Bool) (d : BitVec 6) (a : BitVec 6) (b : BitVec 6) (obj : BitVec 10) : Statement (.fset q die d a b obj) :=
  codec_word (fun h => decode_scalar _ _ _ (.fset · die d a b obj) ((rowOf_A4 ..).trans (by simp [rowFlag, flagFn]))
    (by exact wf_limits (i := .fset q die d a b obj) h)) rfl

theorem fwait (q : Qual) (die : Bool) (d : BitVec 6) (a : BitVec 6) (b : BitVec 6) (obj : BitVec 10) (e : BitVec 8) : Statement (.fwait q die d a b obj e) :=
  codec_word (fun h => decode_scalar _ _ _ (.fwait · die d a b obj e) ((rowOf_A4 ..).trans (by simp [rowFlag, flagFn]))
    (by exact wf_limits (i := .fwait q die d a b obj e) h)) rfl

theorem fread (q : Qual) (die : Bool) (d : BitVec 6) (a : BitVec 6) (obj : BitVec 10) : Statement (.fread q die d a obj) :=
  codec_word (fun h => decode_scalar _ _ _ (.fread · die d a obj) ((rowOf_A4 ..).trans (by simp [rowFlag, flagFn]))
    (by exact wf_limits (i := .fread q die d a obj) h)) rfl

theorem rclm (q : Qual) (d : BitVec 6) (a : BitVec 6) (ring : BitVec 6) (e : BitVec 8) : Statement (.rclm q d a ring e) :=
  codec_word (fun h => decode_scalar _ _ _ (.rclm · d a ring e) ((rowOf_A5 ..).trans (by simp [rowRing]))
    (by exact wf_limits (i := .rclm q d a ring e) h)) rfl

theorem rpub (q : Qual) (d : BitVec 6) (a : BitVec 6) (ring : BitVec 6) : Statement (.rpub q d a ring) :=
  codec_word (fun h => decode_scalar _ _ _ (.rpub · d a ring) ((rowOf_A5 ..).trans (by simp [rowRing]))
    (by exact wf_limits (i := .rpub q d a ring) h)) rfl

theorem rwf (q : Qual) (d : BitVec 6) (a : BitVec 6) (ring : BitVec 6) (e : BitVec 8) : Statement (.rwf q d a ring e) :=
  codec_word (fun h => decode_scalar _ _ _ (.rwf · d a ring e) ((rowOf_A5 ..).trans (by simp [rowRing]))
    (by exact wf_limits (i := .rwf q d a ring e) h)) rfl

theorem rrel (q : Qual) (d : BitVec 6) (a : BitVec 6) (ring : BitVec 6) : Statement (.rrel q d a ring) :=
  codec_word (fun h => decode_scalar _ _ _ (.rrel · d a ring) ((rowOf_A5 ..).trans (by simp [rowRing]))
    (by exact wf_limits (i := .rrel q d a ring) h)) rfl

theorem rinfo (q : Qual) (d : BitVec 6) (a : BitVec 6) (ring : BitVec 6) : Statement (.rinfo q d a ring) :=
  codec_word (fun h => decode_scalar _ _ _ (.rinfo · d a ring) ((rowOf_A5 ..).trans (by simp [rowRing]))
    (by exact wf_limits (i := .rinfo q d a ring) h)) rfl

theorem binit (q : Qual) (b : BitVec 4) (count : BitVec 8) : Statement (.binit q b count) :=
  codec_word (fun h => decode_scalar _ _ _ (.binit · b count) ((rowOf_A6 ..).trans (by simp [rowBar]))
    (by exact wf_limits (i := .binit q b count) h)) rfl

theorem bara (q : Qual) (d : BitVec 6) (b : BitVec 4) : Statement (.bara q d b) :=
  codec_word (fun h => decode_scalar _ _ _ (.bara · d b) ((rowOf_A6 ..).trans (by simp [rowBar]))
    (by exact wf_limits (i := .bara q d b) h)) rfl

theorem barw (q : Qual) (d : BitVec 6) (b : BitVec 4) : Statement (.barw q d b) :=
  codec_word (fun h => decode_scalar _ _ _ (.barw · d b) ((rowOf_A6 ..).trans (by simp [rowBar]))
    (by exact wf_limits (i := .barw q d b) h)) rfl

theorem barq (q : Qual) (d : BitVec 6) (b : BitVec 4) : Statement (.barq q d b) :=
  codec_word (fun h => decode_scalar _ _ _ (.barq · d b) ((rowOf_A6 ..).trans (by simp [rowBar]))
    (by exact wf_limits (i := .barq q d b) h)) rfl

theorem tkq (q : Qual) (d : BitVec 6) (t : TokQ) : Statement (.tkq q d t) :=
  codec_word (fun h => decode_scalar _ _ _ (.tkq · d t) ((rowOf_A7 ..).trans (by cases t <;> simp [rowTkq, TokQ.code, TokQ.ofCode]))
    (by exact wf_limits (i := .tkq q d t) h)) rfl

theorem tsub (q : Qual) (d : BitVec 6) (a : BitVec 6) (b : BitVec 6) (flag : BitVec 10) : Statement (.tsub q d a b flag) :=
  codec_word (fun h => decode_scalar _ _ _ (.tsub · d a b flag) ((rowOf_B0 ..).trans (by simp [rowTask]))
    (by exact wf_limits (i := .tsub q d a b flag) h)) rfl

theorem tdep (q : Qual) (d : BitVec 6) (a : BitVec 6) (b : BitVec 6) (nm1 : BitVec 8) : Statement (.tdep q d a b nm1) :=
  codec_word (fun h => decode_scalar _ _ _ (.tdep · d a b nm1) ((rowOf_B1 ..).trans (by simp [rowTask]))
    (by exact wf_limits (i := .tdep q d a b nm1) h)) rfl

theorem tcan (q : Qual) (d : BitVec 6) (a : BitVec 6) : Statement (.tcan q d a) :=
  codec_word (fun h => decode_scalar _ _ _ (.tcan · d a) ((rowOf_B2 ..).trans (by simp [rowTask]))
    (by exact wf_limits (i := .tcan q d a) h)) rfl

theorem tqry (q : Qual) (d : BitVec 6) (a : BitVec 6) (obj : BitVec 10) (sel : BitVec 8) : Statement (.tqry q d a obj sel) :=
  codec_word (fun h => decode_scalar _ _ _ (.tqry · d a obj sel) ((rowOf_B3 ..).trans (by simp [rowTask, tqry_zero _ _ _ (wf_rowOk h)]))
    (by exact wf_limits (i := .tqry q d a obj sel) h)) rfl

theorem xqpush (q : Qual) (a : BitVec 6) (queue : BitVec 10) : Statement (.xqpush q a queue) :=
  codec_word (fun h => decode_scalar _ _ _ (.xqpush · a queue) ((rowOf_B4 ..).trans (by simp [rowTask]))
    (by exact wf_limits (i := .xqpush q a queue) h)) rfl

theorem xqtake (q : Qual) (d : BitVec 6) (a : BitVec 6) (b : BitVec 6) (queue : BitVec 10) (maxm1 : BitVec 8) : Statement (.xqtake q d a b queue maxm1) :=
  codec_word (fun h => decode_scalar _ _ _ (.xqtake · d a b queue maxm1) ((rowOf_B5 ..).trans (by simp [rowTask]))
    (by exact wf_limits (i := .xqtake q d a b queue maxm1) h)) rfl

theorem xqcomb (q : Qual) (ty : Ty) (d : BitVec 6) (a : BitVec 6) (b : BitVec 6) (flag : BitVec 10) (km1 : BitVec 4) : Statement (.xqcomb q ty d a b flag km1) :=
  codec_word (fun h => decode_scalar _ _ _ (.xqcomb · ty d a b flag km1) ((rowOf_B6 ..).trans (by simp [rowTask]))
    (by exact wf_limits (i := .xqcomb q ty d a b flag km1) h)) rfl

theorem srch (q : Qual) (d : BitVec 6) (a : BitVec 6) (b : BitVec 6) (ring : BitVec 6) : Statement (.srch q d a b ring) :=
  codec_word (fun h => decode_scalar _ _ _ (.srch · d a b ring) ((rowOf_B8 ..).trans (by simp [rowRetr]))
    (by exact wf_limits (i := .srch q d a b ring) h)) rfl

theorem ixapp (q : Qual) (d : BitVec 6) (a : BitVec 6) (flag : BitVec 10) : Statement (.ixapp q d a flag) :=
  codec_word (fun h => decode_scalar _ _ _ (.ixapp · d a flag) ((rowOf_B9 ..).trans (by simp [rowRetr]))
    (by exact wf_limits (i := .ixapp q d a flag) h)) rfl

theorem kvbind (q : Qual) (d : BitVec 6) (a : BitVec 6) (b : BitVec 6) (flag : BitVec 10) : Statement (.kvbind q d a b flag) :=
  codec_word (fun h => decode_scalar _ _ _ (.kvbind · d a b flag) ((rowOf_BA ..).trans (by simp [rowRetr]))
    (by exact wf_limits (i := .kvbind q d a b flag) h)) rfl

theorem kvlookPos (q : Qual) (d : BitVec 6) (a : BitVec 6) (b : BitVec 6) : Statement (.kvlookPos q d a b) :=
  codec_word (fun h => decode_scalar _ _ _ (.kvlookPos · d a b) ((rowOf_BB ..).trans (by simp [rowRetr]))
    (by exact wf_limits (i := .kvlookPos q d a b) h)) rfl

theorem kvlookPsg (q : Qual) (d : BitVec 6) (a : BitVec 6) (b : BitVec 6) : Statement (.kvlookPsg q d a b) :=
  codec_word (fun h => decode_scalar _ _ _ (.kvlookPsg · d a b) ((rowOf_BB ..).trans (by simp [rowRetr]))
    (by exact wf_limits (i := .kvlookPsg q d a b) h)) rfl

theorem kvlookPfx (q : Qual) (d : BitVec 6) (a : BitVec 6) (b : BitVec 6) : Statement (.kvlookPfx q d a b) :=
  codec_word (fun h => decode_scalar _ _ _ (.kvlookPfx · d a b) ((rowOf_BB ..).trans (by simp [rowRetr]))
    (by exact wf_limits (i := .kvlookPfx q d a b) h)) rfl

theorem kvposPos (q : Qual) (d : BitVec 6) (a : BitVec 6) (b : BitVec 6) (c : BitVec 6) : Statement (.kvposPos q d a b c) :=
  codec_word (fun h => decode_scalar _ _ _ (.kvposPos · d a b c) ((rowOf_BC ..).trans (by simp [rowRetr]))
    (by exact wf_limits (i := .kvposPos q d a b c) h)) rfl

theorem kvposPfx (q : Qual) (d : BitVec 6) (a : BitVec 6) (b : BitVec 6) (c : BitVec 6) : Statement (.kvposPfx q d a b c) :=
  codec_word (fun h => decode_scalar _ _ _ (.kvposPfx · d a b c) ((rowOf_BC ..).trans (by simp [rowRetr]))
    (by exact wf_limits (i := .kvposPfx q d a b c) h)) rfl

theorem astart (q : Qual) (d : BitVec 6) (a : BitVec 6) (flag : BitVec 10) : Statement (.astart q d a flag) :=
  codec_word (fun h => decode_scalar _ _ _ (.astart · d a flag) ((rowOf_BD ..).trans (by simp [rowRetr]))
    (by exact wf_limits (i := .astart q d a flag) h)) rfl

theorem csrr (d : BitVec 6) (csr : BitVec 16) : Statement (.csrr d csr) :=
  codec_word (fun h => decode_bare _ _ (.csrr d csr) ((rowOf_C0 ..).trans (by simp [rowSys]))
    (wf_limits h)) rfl

theorem csrw (a : BitVec 6) (csr : BitVec 16) : Statement (.csrw a csr) :=
  codec_word (fun h => decode_bare _ _ (.csrw a csr) ((rowOf_C1 ..).trans (by simp [rowSys, csrwInstr_csrw _ _ (by simpa [Instr.rowOk] using wf_rowOk h)]))
    (wf_limits h)) rfl

theorem fpCtrlWrite (a : BitVec 6) : Statement (.fpCtrlWrite a) :=
  codec_word (fun h => decode_bare _ _ (.fpCtrlWrite a) ((rowOf_C1 ..).trans (by simp [rowSys, csrwInstr]))
    (wf_limits h)) rfl

theorem stochSeedWrite (a : BitVec 6) : Statement (.stochSeedWrite a) :=
  codec_word (fun h => decode_bare _ _ (.stochSeedWrite a) ((rowOf_C1 ..).trans (by simp [rowSys, csrwInstr]))
    (wf_limits h)) rfl

theorem cmpdTableWrite (a : BitVec 6) (csr : BitVec 16) : Statement (.cmpdTableWrite a csr) :=
  codec_word (fun h => decode_bare _ _ (.cmpdTableWrite a csr) ((rowOf_C1 ..).trans (by simp [rowSys, csrwInstr_table _ _ (wf_rowOk h)]))
    (wf_limits h)) rfl

theorem cmpdArm (a : BitVec 6) : Statement (.cmpdArm a) :=
  codec_word (fun h => decode_bare _ _ (.cmpdArm a) ((rowOf_C1 ..).trans (by simp [rowSys, csrwInstr]))
    (wf_limits h)) rfl

theorem syscBadcall (n : BitVec 16) : Statement (.syscBadcall n) :=
  codec_word (fun h => decode_bare _ _ (.syscBadcall n) ((rowOf_C2 ..).trans (by simp [rowSys, syscInstr_bad _ (by simpa [Instr.rowOk] using wf_rowOk h)]))
    (wf_limits h)) rfl

theorem trmark (a : BitVec 6) (imm : BitVec 16) : Statement (.trmark a imm) :=
  codec_word (fun h => decode_bare _ _ (.trmark a imm) ((rowOf_C4 ..).trans (by simp [rowSys]))
    (wf_limits h)) rfl

theorem wpset (a : BitVec 6) (d : BitVec 6) (slot : BitVec 2) (sc : Scope) (kind : WpKind) : Statement (.wpset a d slot sc kind) :=
  codec_word (fun h => decode_bare _ _ (.wpset a d slot sc kind) ((rowOf_C5 ..).trans (by simp [rowSys]))
    (wf_limits h)) rfl

theorem dbrk (tag : BitVec 16) : Statement (.dbrk tag) :=
  codec_word (fun h => decode_bare _ _ (.dbrk tag) ((rowOf_FF ..).trans (by simp [rowSys]))
    (wf_limits h)) rfl

theorem pavaneLit (n : BitVec 11) : Statement (.pavaneLit n) :=
  codec_pavane (fun _ => by
    show decodePavane (wP 0x00 n) = _
    simp only [decodePavane, wP_op, wP_n]
    simp) rfl

theorem pavaneLith (n : BitVec 11) : Statement (.pavaneLith n) :=
  codec_pavane (fun _ => by
    show decodePavane (wP 0x01 n) = _
    simp only [decodePavane, wP_op, wP_n]
    simp) rfl

theorem pavaneParm (k : BitVec 4) : Statement (.pavaneParm k) :=
  codec_pavane (fun _ => by
    show decodePavane (wP 0x02 ((0 : BitVec 7) ++ k)) = _
    simp only [decodePavane, wP_op, wP_n]
    simp) rfl

theorem pavaneJmp (off : BitVec 11) : Statement (.pavaneJmp off) :=
  codec_pavane (fun _ => by
    show decodePavane (wP 0x0A off) = _
    simp only [decodePavane, wP_op, wP_n]
    simp) rfl

theorem pavaneBz (off : BitVec 11) : Statement (.pavaneBz off) :=
  codec_pavane (fun _ => by
    show decodePavane (wP 0x0B off) = _
    simp only [decodePavane, wP_op, wP_n]
    simp) rfl

theorem pavaneDjnz (off : BitVec 11) : Statement (.pavaneDjnz off) :=
  codec_pavane (fun _ => by
    show decodePavane (wP 0x0C off) = _
    simp only [decodePavane, wP_op, wP_n]
    simp) rfl

theorem pavaneWait (g : BitVec 4) : Statement (.pavaneWait g) :=
  codec_pavane (fun _ => by
    show decodePavane (wP 0x0D ((0 : BitVec 7) ++ g)) = _
    simp only [decodePavane, wP_op, wP_n]
    simp) rfl

theorem pavaneSig (f : BitVec 10) : Statement (.pavaneSig f) :=
  codec_pavane (fun h => by
    show decodePavane (wP 0x0E ((0 : BitVec 1) ++ f)) = _
    simp only [decodePavane, wP_op, wP_n]
    simpa [Instr.rowOk] using h) rfl

theorem pavaneKvblk (region : BitVec 1) (b : BitVec 2) : Statement (.pavaneKvblk region b) :=
  codec_pavane (fun _ => by
    show decodePavane (wP 0x10 ((0 : BitVec 8) ++ b ++ region)) = _
    simp only [decodePavane, wP_op, wP_n]
    simp) rfl

theorem pavaneQk (b : BitVec 2) : Statement (.pavaneQk b) :=
  codec_pavane (fun _ => by
    show decodePavane (wP 0x11 ((0 : BitVec 8) ++ b ++ (0 : BitVec 1))) = _
    simp only [decodePavane, wP_op, wP_n]
    simp) rfl

theorem pavaneSoft (b : BitVec 2) : Statement (.pavaneSoft b) :=
  codec_pavane (fun _ => by
    show decodePavane (wP 0x12 ((0 : BitVec 8) ++ b ++ (0 : BitVec 1))) = _
    simp only [decodePavane, wP_op, wP_n]
    simp) rfl

theorem pavanePv (b : BitVec 2) : Statement (.pavanePv b) :=
  codec_pavane (fun _ => by
    show decodePavane (wP 0x13 ((0 : BitVec 8) ++ b ++ (0 : BitVec 1))) = _
    simp only [decodePavane, wP_op, wP_n]
    simp) rfl

theorem ret : Statement .ret :=
  codec_word (fun h => decode_bare _ _ .ret ((rowOf_35 ..).trans (by simp [rowBranch]))
    (wf_limits h)) rfl

theorem exit : Statement .exit :=
  codec_word (fun h => decode_bare _ _ .exit ((rowOf_3E ..).trans (by simp []))
    (wf_limits h)) rfl

theorem nop : Statement .nop :=
  codec_word (fun h => decode_bare _ _ .nop ((rowOf_3F ..).trans (by simp []))
    (wf_limits h)) rfl

theorem hret : Statement .hret :=
  codec_word (fun h => decode_bare _ _ .hret ((rowOf_C3 ..).trans (by simp [rowSys]))
    (wf_limits h)) rfl

theorem pavaneDup : Statement .pavaneDup :=
  codec_pavane (fun _ => by
    show decodePavane (wP 0x03 0) = _
    simp only [decodePavane, wP_op, wP_n]
    simp) rfl

theorem pavaneDrop : Statement .pavaneDrop :=
  codec_pavane (fun _ => by
    show decodePavane (wP 0x04 0) = _
    simp only [decodePavane, wP_op, wP_n]
    simp) rfl

theorem pavaneSwap : Statement .pavaneSwap :=
  codec_pavane (fun _ => by
    show decodePavane (wP 0x05 0) = _
    simp only [decodePavane, wP_op, wP_n]
    simp) rfl

theorem pavaneOver : Statement .pavaneOver :=
  codec_pavane (fun _ => by
    show decodePavane (wP 0x06 0) = _
    simp only [decodePavane, wP_op, wP_n]
    simp) rfl

theorem pavaneAdd : Statement .pavaneAdd :=
  codec_pavane (fun _ => by
    show decodePavane (wP 0x07 0) = _
    simp only [decodePavane, wP_op, wP_n]
    simp) rfl

theorem pavaneSub : Statement .pavaneSub :=
  codec_pavane (fun _ => by
    show decodePavane (wP 0x08 0) = _
    simp only [decodePavane, wP_op, wP_n]
    simp) rfl

theorem pavaneMul : Statement .pavaneMul :=
  codec_pavane (fun _ => by
    show decodePavane (wP 0x09 0) = _
    simp only [decodePavane, wP_op, wP_n]
    simp) rfl

theorem pavaneHalt : Statement .pavaneHalt :=
  codec_pavane (fun _ => by
    show decodePavane (wP 0x0F 0) = _
    simp only [decodePavane, wP_op, wP_n]
    simp) rfl

theorem pavaneFinal : Statement .pavaneFinal :=
  codec_pavane (fun _ => by
    show decodePavane (wP 0x14 0) = _
    simp only [decodePavane, wP_op, wP_n]
    simp) rfl

theorem pavaneTriple : Statement .pavaneTriple :=
  codec_pavane (fun _ => by
    show decodePavane (wP 0x15 0) = _
    simp only [decodePavane, wP_op, wP_n]
    simp) rfl

theorem pavaneMerge : Statement .pavaneMerge :=
  codec_pavane (fun _ => by
    show decodePavane (wP 0x16 0) = _
    simp only [decodePavane, wP_op, wP_n]
    simp) rfl

theorem pavaneRev : Statement .pavaneRev :=
  codec_pavane (fun _ => by
    show decodePavane (wP 0x17 0) = _
    simp only [decodePavane, wP_op, wP_n]
    simp) rfl

theorem syscVersion : Statement .syscVersion :=
  codec_word (fun h => decode_bare _ _ .syscVersion ((rowOf_C2 ..).trans (by simp [rowSys, syscInstr]))
    (wf_limits h)) rfl

theorem syscObjset : Statement .syscObjset :=
  codec_word (fun h => decode_bare _ _ .syscObjset ((rowOf_C2 ..).trans (by simp [rowSys, syscInstr]))
    (wf_limits h)) rfl

theorem syscObjdel : Statement .syscObjdel :=
  codec_word (fun h => decode_bare _ _ .syscObjdel ((rowOf_C2 ..).trans (by simp [rowSys, syscInstr]))
    (wf_limits h)) rfl

theorem syscRingset : Statement .syscRingset :=
  codec_word (fun h => decode_bare _ _ .syscRingset ((rowOf_C2 ..).trans (by simp [rowSys, syscInstr]))
    (wf_limits h)) rfl

theorem syscXqset : Statement .syscXqset :=
  codec_word (fun h => decode_bare _ _ .syscXqset ((rowOf_C2 ..).trans (by simp [rowSys, syscInstr]))
    (wf_limits h)) rfl

theorem syscMap : Statement .syscMap :=
  codec_word (fun h => decode_bare _ _ .syscMap ((rowOf_C2 ..).trans (by simp [rowSys, syscInstr]))
    (wf_limits h)) rfl

theorem syscUnmap : Statement .syscUnmap :=
  codec_word (fun h => decode_bare _ _ .syscUnmap ((rowOf_C2 ..).trans (by simp [rowSys, syscInstr]))
    (wf_limits h)) rfl

theorem syscPreempt : Statement .syscPreempt :=
  codec_word (fun h => decode_bare _ _ .syscPreempt ((rowOf_C2 ..).trans (by simp [rowSys, syscInstr]))
    (wf_limits h)) rfl

theorem syscSwitch : Statement .syscSwitch :=
  codec_word (fun h => decode_bare _ _ .syscSwitch ((rowOf_C2 ..).trans (by simp [rowSys, syscInstr]))
    (wf_limits h)) rfl

theorem syscPreset : Statement .syscPreset :=
  codec_word (fun h => decode_bare _ _ .syscPreset ((rowOf_C2 ..).trans (by simp [rowSys, syscInstr]))
    (wf_limits h)) rfl

theorem syscPower : Statement .syscPower :=
  codec_word (fun h => decode_bare _ _ .syscPower ((rowOf_C2 ..).trans (by simp [rowSys, syscInstr]))
    (wf_limits h)) rfl

theorem syscCkpt : Statement .syscCkpt :=
  codec_word (fun h => decode_bare _ _ .syscCkpt ((rowOf_C2 ..).trans (by simp [rowSys, syscInstr]))
    (wf_limits h)) rfl

theorem syscAttest : Statement .syscAttest :=
  codec_word (fun h => decode_bare _ _ .syscAttest ((rowOf_C2 ..).trans (by simp [rowSys, syscInstr]))
    (wf_limits h)) rfl

theorem engineResultWrite : Statement .engineResultWrite :=
  codec_none rfl rfl

theorem monitorWake : Statement .monitorWake :=
  codec_none rfl rfl

theorem waitaTimeout : Statement .waitaTimeout :=
  codec_none rfl rfl

theorem flagWaitReturn : Statement .flagWaitReturn :=
  codec_none rfl rfl

theorem fwaitTimeout : Statement .fwaitTimeout :=
  codec_none rfl rfl

theorem ringWaitReturn : Statement .ringWaitReturn :=
  codec_none rfl rfl

theorem ringWaitTimeout : Statement .ringWaitTimeout :=
  codec_none rfl rfl

theorem ringDelivery : Statement .ringDelivery :=
  codec_none rfl rfl

theorem barrierWaitReturn : Statement .barrierWaitReturn :=
  codec_none rfl rfl

theorem xqcombCombine : Statement .xqcombCombine :=
  codec_none rfl rfl

theorem ixappDurable : Statement .ixappDurable :=
  codec_none rfl rfl

theorem kvbindComplete : Statement .kvbindComplete :=
  codec_none rfl rfl

theorem phasetimeExpiry : Statement .phasetimeExpiry :=
  codec_none rfl rfl

theorem tokdeadExpiry : Statement .tokdeadExpiry :=
  codec_none rfl rfl

theorem waitInterrupt : Statement .waitInterrupt :=
  codec_none rfl rfl

theorem joinTimeout : Statement .joinTimeout :=
  codec_none rfl rfl

theorem quadrilleDecode : Statement .quadrilleDecode :=
  codec_none rfl rfl

theorem lineRefill : Statement .lineRefill :=
  codec_none rfl rfl

theorem loadResponse : Statement .loadResponse :=
  codec_none rfl rfl

theorem smbDrainStart : Statement .smbDrainStart :=
  codec_none rfl rfl

theorem smbDrainComplete : Statement .smbDrainComplete :=
  codec_none rfl rfl

theorem stagingExpire : Statement .stagingExpire :=
  codec_none rfl rfl

theorem copyCommandComplete : Statement .copyCommandComplete :=
  codec_none rfl rfl

theorem redContribution : Statement .redContribution :=
  codec_none rfl rfl

theorem peerPayloadArrival : Statement .peerPayloadArrival :=
  codec_none rfl rfl

theorem linkPortFail : Statement .linkPortFail :=
  codec_none rfl rfl

theorem taskComplete : Statement .taskComplete :=
  codec_none rfl rfl

theorem dispatchSlot : Statement .dispatchSlot :=
  codec_none rfl rfl

theorem nodePromote : Statement .nodePromote :=
  codec_none rfl rfl

theorem nodeOffer : Statement .nodeOffer :=
  codec_none rfl rfl

theorem nodeTransferArrive : Statement .nodeTransferArrive :=
  codec_none rfl rfl

theorem galliardPreemptRequest : Statement .galliardPreemptRequest :=
  codec_none rfl rfl

theorem cancelToken : Statement .cancelToken :=
  codec_none rfl rfl

theorem instanceEnd : Statement .instanceEnd :=
  codec_none rfl rfl

theorem hostTailWrite : Statement .hostTailWrite :=
  codec_none rfl rfl

theorem hostHeadWrite : Statement .hostHeadWrite :=
  codec_none rfl rfl

theorem hostHdmAccess : Statement .hostHdmAccess :=
  codec_none rfl rfl

theorem cmdNop : Statement .cmdNop :=
  codec_none rfl rfl

theorem cmdLaunch : Statement .cmdLaunch :=
  codec_none rfl rfl

theorem cmdCancel : Statement .cmdCancel :=
  codec_none rfl rfl

theorem cmdFence : Statement .cmdFence :=
  codec_none rfl rfl

theorem cmdqBrkResume : Statement .cmdqBrkResume :=
  codec_none rfl rfl

theorem hostRegisterWrite : Statement .hostRegisterWrite :=
  codec_none rfl rfl

theorem msixCoalesceExpire : Statement .msixCoalesceExpire :=
  codec_none rfl rfl

theorem xqAgeDue : Statement .xqAgeDue :=
  codec_none rfl rfl

theorem xqFiringSlot : Statement .xqFiringSlot :=
  codec_none rfl rfl

theorem flashReadComplete : Statement .flashReadComplete :=
  codec_none rfl rfl

theorem indexMergeCommit : Statement .indexMergeCommit :=
  codec_none rfl rfl

theorem pavaneMergeTimeout : Statement .pavaneMergeTimeout :=
  codec_none rfl rfl

theorem pvlost : Statement .pvlost :=
  codec_none rfl rfl

theorem msetlost : Statement .msetlost :=
  codec_none rfl rfl

theorem debugHaltRequest : Statement .debugHaltRequest :=
  codec_none rfl rfl

theorem debugSessionAccess : Statement .debugSessionAccess :=
  codec_none rfl rfl

theorem preemptStop : Statement .preemptStop :=
  codec_none rfl rfl

theorem contextSaveComplete : Statement .contextSaveComplete :=
  codec_none rfl rfl

theorem contextResume : Statement .contextResume :=
  codec_none rfl rfl

theorem partitionResetComplete : Statement .partitionResetComplete :=
  codec_none rfl rfl

theorem deviceReset : Statement .deviceReset :=
  codec_none rfl rfl

theorem checkpointCommit : Statement .checkpointCommit :=
  codec_none rfl rfl

theorem restore : Statement .restore :=
  codec_none rfl rfl

theorem domainEpochCheckpoint : Statement .domainEpochCheckpoint :=
  codec_none rfl rfl

theorem deviceFailureDetect : Statement .deviceFailureDetect :=
  codec_none rfl rfl

theorem backgroundScrub : Statement .backgroundScrub :=
  codec_none rfl rfl

theorem pavaneOperationComplete : Statement .pavaneOperationComplete :=
  codec_none rfl rfl

theorem xqSpillRefill : Statement .xqSpillRefill :=
  codec_none rfl rfl

theorem homeAcknowledgement : Statement .homeAcknowledgement :=
  codec_none rfl rfl

theorem debugSessionAttach : Statement .debugSessionAttach :=
  codec_none rfl rfl

theorem debugSessionDetach : Statement .debugSessionDetach :=
  codec_none rfl rfl

theorem debugResume : Statement .debugResume :=
  codec_none rfl rfl

theorem imageLoad : Statement .imageLoad :=
  codec_none rfl rfl

theorem indexCreate : Statement .indexCreate :=
  codec_none rfl rfl

theorem indexRemove : Statement .indexRemove :=
  codec_none rfl rfl

theorem galliardCtlWrite : Statement .galliardCtlWrite :=
  codec_none rfl rfl

theorem dieScratchGrant : Statement .dieScratchGrant :=
  codec_none rfl rfl

theorem powerLoss : Statement .powerLoss :=
  codec_none rfl rfl

theorem flitReplay : Statement .flitReplay :=
  codec_none rfl rfl

theorem hostDumpRead : Statement .hostDumpRead :=
  codec_none rfl rfl

end Laws.Codec

end Sys2Proof
end

