-- ==== Sys2Proof/Safety.lean ====
section
/-!
DEFINITION. What counts as a safe run: storage, the baseline and the checkpoint images keep their canonical form, and no step stops.
-/

namespace Sys2Proof.Machine

/-- The invariant of storage: in storage, in the baseline of the loaded images and in every checkpoint image locations rise strictly and
no listed byte is 0. -/
def State.Inv (s : State) : Prop :=
  s.mem.wf = true ∧ s.baseline.wf = true ∧ ∀ x ∈ s.images, x.mem.wf = true ∧ x.baseline.wf = true

/-- A step that does not stop. -/
def State.goesOn (s : State) : Prop := ∃ t, step s = .next t

end Sys2Proof.Machine
end

