-- ==== Sys2Proof/Certificates/Slice0/Obligations.lean ====
section
/-!
DEFINITION. The statements for the provers, one `def Obligations.<Name> : Prop` each; `namespace Sys2Proof.Spec` holds the
shapes that several of them share.
-/

namespace Sys2Proof.Spec

open Sys2Proof Sys2Proof.Machine

/-! ## Shapes of scalar words -/

/-- The word's qualifier lets it act (R26, R42) and every register it names is final (R95). -/
abbrev Fires (q : Qual) (rs : List (BitVec 6)) (cs : List (BitVec 3)) (s : State) : Prop :=
  s.myCore.isOn q = true ∧ s.myCore.ready rs cs = true

/-- The word writes `f` of the core to scalar register `d`, moves on to the next word and changes nothing else. -/
def Yields (i : Instr) (q : Qual) (d : BitVec 6) (rs : List (BitVec 6)) (cs : List (BitVec 3)) (f : Core → Word) : Prop :=
  ∀ s : State, Fires q (d :: rs) cs s → exec i s = .next (s.updMe fun c => (c.setReg d (f c)).advance)

/-- A word of two scalar sources with result `f`. -/
def Alu2 (mk : Qual → BitVec 6 → BitVec 6 → BitVec 6 → Instr) (f : Word → Word → Word) : Prop :=
  ∀ q d a b, Yields (mk q d a b) q d [a, b] [] fun c => f (c.reg a) (c.reg b)

/-- A word of three scalar sources with result `f`. -/
def Alu3 (mk : Qual → BitVec 6 → BitVec 6 → BitVec 6 → BitVec 6 → Instr) (f : Word → Word → Word → Word) : Prop :=
  ∀ q d a b e, Yields (mk q d a b e) q d [a, b, e] [] fun c => f (c.reg a) (c.reg b) (c.reg e)

/-- A word of one scalar source with result `f`. -/
def Alu1 (mk : Qual → BitVec 6 → BitVec 6 → Instr) (f : Word → Word) : Prop :=
  ∀ q d a, Yields (mk q d a) q d [a] [] fun c => f (c.reg a)

/-- A word of one scalar source and a 32-bit immediate with result `f`. -/
def AluI (mk : Qual → BitVec 6 → BitVec 6 → BitVec 32 → Instr) (f : Word → BitVec 32 → Word) : Prop :=
  ∀ q d a i, Yields (mk q d a i) q d [a] [] fun c => f (c.reg a) i

/-- A word that writes `f` of the core to condition register `t` and changes nothing else. -/
def Sets (i : Instr) (q : Qual) (t : BitVec 3) (rs : List (BitVec 6)) (f : Core → Bool) : Prop :=
  ∀ s : State, Fires q rs [t] s → exec i s = .next (s.updMe fun c => (c.setCreg t (f c)).advance)

/-- An arithmetic floating-point word: with result bits `r.1` and flags `r.2`, and unless a NaN traps (R94), the register
is written, the flags are recorded and nothing else changes. -/
def Floats (i : Instr) (q : Qual) (ty : Ty) (d : BitVec 6) (rs : List (BitVec 6)) (r : Core → FR) : Prop :=
  ∀ s : State, Fires q (d :: rs) [] s → (s.myCore.nten && isNanBits ty (r s.myCore).1) = false →
    exec i s = .next (s.updMe fun c => ((c.setReg d (BitVec.ofNat 64 (r c).1)).orFlags (r c).2).advance)

/-- A word of an attached core whose next address is the one the Quadrille's copy holds, or a word of a core that is not
attached: it goes on without a detachment (R114). -/
def Follows (s : State) (next : Word) (trip : BitVec 32) : Prop :=
  s.myCore.att = false ∨ ∃ e, s.entryOf s.me = some e ∧ e.ref = some next ∧ e.trip = trip

/-- A pausing word goes to `f` of the core, with `eff` as its only other effect. -/
def Goes (i : Instr) (rs : List (BitVec 6)) (cs : List (BitVec 3)) (f : Core → Word) (eff : Core → Core) : Prop :=
  ∀ s : State, s.myCore.ready rs cs = true → codeOk (f s.myCore) = true → Follows s (f s.myCore) 0 →
    exec i s = .next (s.updMe fun c => (eff c).goto (f c))

/-- Target of a direct transfer: the word's address plus eight times its offset (R110). -/
def target (s : State) (off : BitVec 32) : Word := s.myCore.pc + (off.signExtend 64 <<< 3)

/-- At LEND or LBRK: the core is not attached, or goes where the Quadrille's own copy of the loop state goes (R114). -/
def Agrees (s : State) (next : Word) : Prop :=
  s.myCore.att = false ∨ ∃ e, s.entryOf s.me = some e ∧ e.ref = some next

/-- The word takes its full effect on the core's registers and goes to `next`, and the core then detaches (R114). -/
def Departs (i : Instr) (s : State) (next : Word) (eff : Core → Core) : Prop :=
  ∃ t, exec i s = .next t ∧ t.myCore.att = false ∧ t.myCore.pc = next ∧ (∀ r, t.myCore.reg r = (eff s.myCore).reg r) ∧
    t.myCore.loops = (eff s.myCore).loops ∧ t.mem = s.mem ∧ ∀ g, g ≠ s.me → (t.core g).att = (s.core g).att

/-- An attached core at a word whose reference is another next address, or at LOOP and PLOOP another trip count (R114). -/
abbrev Diverts (s : State) (next : Word) (trip : BitVec 32) : Prop :=
  s.myCore.att = true ∧ ∃ e r, s.entryOf s.me = some e ∧ e.ref = some r ∧ (r ≠ next ∨ e.trip ≠ trip)

/-- An attached core at LEND or LBRK that goes elsewhere than the Quadrille's own copy of the loop state (R114). -/
abbrev Disagrees (s : State) (next : Word) : Prop :=
  s.myCore.att = true ∧ ∃ e, s.entryOf s.me = some e ∧ e.ref ≠ some next

/-- The bit that LEND shifts into the stage window: 1 while iterations are left and no LBRK has marked the level (R25, R117). -/
def shiftsIn (x : LoopLv) : Bool := decide (x.k + 1 < x.trip.toNat) && !x.brk

/-- The stage window after LEND, truncated to its S bits (R25, R117). -/
def windowAfter (l : LoopState) (x : LoopLv) : Nat := (2 * l.sp.toNat + if shiftsIn x then 1 else 0) % 2 ^ (l.nst.toNat + 1)

/-- Whether LEND on level `v` goes back: a pipelined level while its window is not empty (R117). -/
def goesOn (l : LoopState) (v : Nat) : Bool :=
  if (l.get v).pipelined then windowAfter l (l.get v) != 0 else shiftsIn (l.get v)

/-- The loop state after a LEND on level `v` that goes back (R117). -/
def nextLoops (l : LoopState) (v : Nat) : LoopState :=
  let x := l.get v
  { (l.set v { x with k := x.k + 1 }) with sp := if x.pipelined then BitVec.ofNat 8 (windowAfter l x) else l.sp }

/-- A word on whose operands the result is a NaN raises NANTRAP while NTEN is set, and has no other effect (R94). -/
def NanTraps (i : Instr) (q : Qual) (rs : List (BitVec 6)) (ty : Ty) (r : Core → Nat) : Prop :=
  ∀ s : State, Fires q rs [] s → s.myCore.nten = true → isNanBits ty (r s.myCore) = true →
    exec i s = .next (s.raise s.me none { cause := cNANTRAP })

/-- An access of `n` bytes at `va` raises WINBOUND at 2^52 or more, and SALIGN below when `va` is no multiple of `n` (R182, R212). -/
def AddressTraps (i : Instr) (q : Qual) (rs : List (BitVec 6)) (va : Core → Word) (n : Nat) : Prop :=
  ∀ s : State, Fires q rs [] s →
    (2 ^ 52 ≤ (va s.myCore).toNat → exec i s = .next (s.raise s.me none { cause := cWINBOUND, addr := (va s.myCore).toNat })) ∧
    ((va s.myCore).toNat < 2 ^ 52 → (va s.myCore).toNat % n ≠ 0 →
      exec i s = .next (s.raise s.me none { cause := cSALIGN, addr := (va s.myCore).toNat }))

/-- A scalar load or store of `n` bytes. -/
def AccessTraps (mk : Qual → BitVec 6 → BitVec 6 → Scope → Ord → BitVec 24 → Instr) (n : Nat) : Prop :=
  ∀ q d a sc o off, AddressTraps (mk q d a sc o off) q [d, a] (fun c => c.reg a + off.signExtend 64) n

/-- An atomic in both widths. -/
def AtomicTraps (mk : Qual → Bool → Scope → Ord → BitVec 6 → BitVec 6 → BitVec 6 → Instr) : Prop :=
  ∀ q w64 sc o d a b, AddressTraps (mk q w64 sc o d a b) q [d, a, b] (fun c => c.reg a) (if w64 then 8 else 4)

/-- A transfer that goes to `f`, where it transfers at all, raises PCRANGE there when that is no word of the code window (R109). -/
def RangeTraps (i : Instr) (rs : List (BitVec 6)) (cs : List (BitVec 3)) (f : State → Option Word) : Prop :=
  ∀ (s : State) x, s.myCore.ready rs cs = true → f s = some x → codeOk x = false →
    exec i s = .next (s.raise s.me none { cause := cPCRANGE, addr := x.toNat })

/-- The core with its loop state replaced. -/
def withLoops (c : Core) (l : LoopState) : Core := { c with loops := l }

/-- The scalar words of integer arithmetic, with their destination. -/
def intDest : Instr → Option (BitVec 6)
  | .add _ d .. | .sub _ d .. | .lea _ d .. | .min _ d .. | .max _ d .. | .minn _ d .. | .maxn _ d .. | .and _ d ..
  | .or _ d .. | .xor _ d .. | .andn _ d .. | .orn _ d .. | .sel _ d .. | .shl _ d .. | .shr _ d .. | .sar _ d ..
  | .rol _ d .. | .ror _ d .. | .fshl _ d .. | .fshr _ d .. | .clz _ d .. | .ctz _ d .. | .popc _ d .. | .brev _ d ..
  | .bswp _ d .. | .mul _ d .. | .mulh _ d .. | .mulhn _ d .. | .div _ d .. | .divn _ d .. | .rem _ d .. | .remn _ d ..
  | .addi _ d .. | .andi _ d .. | .ori _ d .. | .xori _ d .. | .shli _ d .. | .shri _ d .. | .sari _ d .. | .bfx _ d ..
  | .bfxn _ d .. | .bfi _ d .. | .li _ d .. | .lih _ d .. => some d
  | _ => none

/-- The qualifier of a scalar-pipe word that may be gated (R42). -/
def gateOf : Instr → Option Qual
  | .add q .. | .sub q .. | .addx q .. | .lea q .. | .min q .. | .max q .. | .minn q .. | .maxn q .. | .and q .. | .or q ..
  | .xor q .. | .andn q .. | .orn q .. | .sel q .. | .shl q .. | .shr q .. | .sar q .. | .rol q .. | .ror q .. | .fshl q ..
  | .fshr q .. | .clz q .. | .ctz q .. | .popc q .. | .brev q .. | .bswp q .. | .mul q .. | .mulh q .. | .mulhn q ..
  | .div q .. | .divn q .. | .rem q .. | .remn q .. | .cmp q .. | .addi q .. | .andi q .. | .ori q .. | .xori q ..
  | .shli q .. | .shri q .. | .sari q .. | .bfx q .. | .bfxn q .. | .bfi q .. | .cmpi q .. | .li q .. | .lih q ..
  | .fadd q .. | .fsub q .. | .fmul q .. | .ffma q .. | .fdiv q .. | .fsqrt q .. | .fmin q .. | .fmax q .. | .fcmp q ..
  | .fcvt q .. | .fclass q .. | .ldb q .. | .ldh q .. | .ldw q .. | .ldd q .. | .ldbn q .. | .ldhn q .. | .ldwn q ..
  | .stb q .. | .sth q .. | .stw q .. | .std q .. | .qbind q .. | .qpos q .. | .qadv q .. | .cpy q .. | .cpym q ..
  | .gthr q .. | .red q .. | .send q .. | .xlat q .. | .aadd q .. | .aand q .. | .aor q .. | .axor q .. | .amin q ..
  | .amax q .. | .aminn q .. | .amaxn q .. | .axchg q .. | .acas q .. | .afadd q .. | .fence q .. | .waita q .. | .fsig q ..
  | .fset q .. | .fwait q .. | .fread q .. | .rclm q .. | .rpub q .. | .rwf q .. | .rrel q .. | .rinfo q .. | .binit q ..
  | .bara q .. | .barw q .. | .barq q .. | .tkq q .. | .tsub q .. | .tdep q .. | .tcan q .. | .tqry q .. | .xqpush q ..
  | .xqtake q .. | .xqcomb q .. | .srch q .. | .ixapp q .. | .kvbind q .. | .kvlookPos q .. | .kvlookPsg q ..
  | .kvlookPfx q .. | .kvposPos q .. | .kvposPfx q .. | .astart q .. => some q
  | _ => none

/-! ## Shapes of memory words -/

/-- An access of `n` bytes at `va` passes the checks of R182, R212 and R330 and reaches `loc`, which holds no uncorrectable
error, is met by no pending strong store of the core and is watched by none of its slots. -/
abbrev Reaches (s : State) (need : Need) (va : Word) (n loc : Nat) : Prop :=
  va.toNat < vaLimit ∧ va.toNat % n = 0 ∧ isCtl va.toNat = false ∧
  resolve s (s.whoCore s.me) need va.toNat n = .ok loc ∧ s.unc loc n = false ∧
  outTouches s.myCore.out loc n = false ∧ s.myCore.outFree = true ∧
  s.myCore.wpMatch false loc n = none ∧ s.myCore.wpMatch true loc n = none

/-- The core has nothing that a release waits for and an empty store-merge buffer (R198). -/
abbrev Quiet (c : Core) : Prop := c.settled = true ∧ c.smb = []

/-- The registers of the core are as before, and it stands at the next word. -/
def Moved (c c' : Core) : Prop := (∀ r, c'.reg r = c.reg r) ∧ c'.c = c.c ∧ c'.pc = c.pc + 8

/-- As `Moved`, but for scalar register `d`, which holds `v` (unless it is s0). -/
def MovedTo (c c' : Core) (d : BitVec 6) (v : Word) : Prop :=
  (d ≠ 0 → c'.reg d = v) ∧ (∀ r, r ≠ d → c'.reg r = c.reg r) ∧ c'.c = c.c ∧ c'.pc = c.pc + 8

/-- A load of `n` bytes: what the core sees at the location waits in the core's outstanding accesses for LOAD_RESPONSE;
no register and no byte of storage changes at issue. -/
def LoadWord (mk : Qual → BitVec 6 → BitVec 6 → Scope → Ord → BitVec 24 → Instr) (n : Nat) (zero : Bool) : Prop :=
  ∀ q d a sc o off (s : State) loc, Fires q [d, a] [] s →
    Reaches s .rd (s.myCore.reg a + off.signExtend 64) n loc → (o = .sc → Quiet s.myCore) → s.myCore.staging = [] →
    loc / 64 = (loc + n - 1) / 64 →
    ∃ t, exec (mk q d a sc o off) s = .next t ∧ Moved s.myCore t.myCore ∧ t.mem = s.mem ∧
      t.myCore.out = s.myCore.out ++ [.load d s.myCore.inh (loadValue n zero (s.coreBytes s.me loc n))]

/-- Whether a store or load of this ordering and scope is strong (R193). -/
abbrev strong (o : Ord) (sc : Scope) : Bool := o != .rlx || sc = .dev || sc = .sys

/-- A store of `n` bytes. In own near scratch it performs at once; a weak one elsewhere enters the store-merge buffer; a .sc one
performs at once; any other strong one waits in the outstanding accesses. -/
def StoreWord (mk : Qual → BitVec 6 → BitVec 6 → Scope → Ord → BitVec 24 → Instr) (n : Nat) : Prop :=
  ∀ q b a sc o off (s : State) loc, Fires q [b, a] [] s →
    Reaches s .wr (s.myCore.reg a + off.signExtend 64) n loc →
    (inNear s.me loc = true ∨ smbRoom s.myCore.smb (gransOf loc n) = true) → (strong o sc = true → Quiet s.myCore) →
    let bytes := wordBytes n (s.myCore.reg b)
    ∃ t, exec (mk q b a sc o off) s = .next t ∧ Moved s.myCore t.myCore ∧
      (inNear s.me loc = true ∨ o = .sc → t.mem = memWrite s.mem loc bytes) ∧
      (inNear s.me loc = false → o ≠ .sc → t.mem = s.mem) ∧
      (inNear s.me loc = false → strong o sc = false → t.myCore.smb = smbPutAll s.cycle s.myCore.smb loc bytes) ∧
      (inNear s.me loc = false → strong o sc = true → o ≠ .sc →
        t.myCore.out = s.myCore.out ++ [.store loc bytes (s.myCore.reg a + off.signExtend 64).toNat])

/-- An atomic on `n` bytes with old value `a`, source `b` and new value `f`, none where nothing is written: storage holds the
new value, and the old one waits in the outstanding accesses. -/
def AtomicAt (i : Instr) (n : Nat) (o : Ord) (d a b : BitVec 6) (rs : List (BitVec 6)) (q : Qual)
    (f : Core → Nat → Nat → Option Nat) : Prop :=
  ∀ (s : State) loc, Fires q (d :: a :: b :: rs) [] s → Reaches s .both (s.myCore.reg a) n loc → isHostLoc loc = false →
    s.myCore.smb = [] → (ordReleases o = true → s.myCore.settled = true) →
    let old := bytesNat (s.homeBytes loc n)
    ∃ t, exec i s = .next t ∧ Moved s.myCore t.myCore ∧
      t.mem = (match f s.myCore old ((s.myCore.reg b).toNat % 2 ^ (8 * n)) with
        | some x => memWrite s.mem loc (natBytes n x)
        | none => s.mem) ∧
      t.myCore.out = s.myCore.out ++ [.atomic d s.myCore.inh (BitVec.ofNat 64 old)]

/-- A two-source atomic in both widths. -/
def AtomicWord (mk : Qual → Bool → Scope → Ord → BitVec 6 → BitVec 6 → BitVec 6 → Instr) (f : Nat → Nat → Nat → Nat) : Prop :=
  ∀ q w64 sc o d a b, AtomicAt (mk q w64 sc o d a b) (if w64 then 8 else 4) o d a b [] q
    fun _ x y => some (f (if w64 then 64 else 32) x y)

/-- A step on barrier `b` of the issuing core's cluster left `x`: every other core that waits at it and is now in neither CUR nor NXT
is to return, with the status and MEMBER_LOST of this step (R232). -/
def Releases (s t : State) (b : Nat) (x : Barrier) : Prop :=
  ∀ g d, g ≠ s.me → clusOf g = clusOf s.me → (s.core g).wait = some (.barw b d none) →
    (t.core g).wait = some (.barw b d (if x.doneFor (g % 16) then some (x.status (g % 16) false, x.lost) else none))

/-! ## Engine queues: what an entry captures -/

/-- `p` is the effective position of stream register `x` for a word with qualifier `q` that enters its queue now: each coordinate moves by
the entry's step with the iteration of the level that its dimension binds, a stage's word at a pipelined level counting from its stage;
a dimension bound to no active level stays (R164). -/
def EffectiveAt (l : LoopState) (q : Qual) (x : StreamReg) (p : Pos) : Prop :=
  let idx (d : Nat) : Int :=
    let v := entLv x.entry d
    if v = 7 ∨ (l.get v).active = false then 0
    else (l.get v).k - (match q with
      | .stage n => if (l.get v).pipelined then (n.toNat : Int) else 0
      | _ => 0)
  p.p0 = x.p0.toNat + entStep x.entry 0 * idx 0 ∧ p.p1 = x.p1.toNat + entStep x.entry 1 * idx 1 ∧
  p.p2 = x.p2.toNat + entStep x.entry 2 * idx 2 ∧ p.p3 = x.p3.toNat + entStep x.entry 3 * idx 3

/-! ## Shapes of engine words -/

/-- Entry `h` stands at the head of engine `e`'s queue, is on and not held, and the tokens let it issue (R33). -/
abbrev Issues (e : Eng) (p : Engw) (s : State) (h : QEntry) : Prop :=
  (s.myCore.getEng e).queue.head? = some h ∧ s.myCore.holds h = false ∧ h.on = true ∧ s.myCore.tokensReady p = true

/-- The head has left engine `e`'s queue, and the scalar side of the core is as before. -/
def Retired (s t : State) (e : Eng) : Prop :=
  (t.myCore.getEng e).queue = (s.myCore.getEng e).queue.drop 1 ∧
  t.myCore.s = s.myCore.s ∧ t.myCore.c = s.myCore.c ∧ t.myCore.pc = s.myCore.pc

/-- The only vector register that differs is `d`: in lane `j` of its lanes of `w` bits stands `val j`, or the old lane where
`val` gives none. The flags recorded are `fl`. Masks, tiles and storage are as before. -/
def Wrote (s t : State) (d : BitVec 5) (w : Nat) (val : Nat → Option Nat) (fl : FFlags) : Prop :=
  (∀ j, j < 32768 / w → laneOf w (t.myCore.vreg d) j =
    match val j with
    | some x => x % 2 ^ w
    | none => laneOf w (s.myCore.vreg d) j) ∧
  (∀ r, r ≠ d → t.myCore.vreg r = s.myCore.vreg r) ∧ t.myCore.fpstat = s.myCore.fpstat ||| fl ∧
  t.myCore.m = s.myCore.m ∧ t.myCore.mstack = s.myCore.mstack ∧ t.myCore.t = s.myCore.t ∧ t.mem = s.mem

/-- An engine word that delivers lanes of type `ty` to `d`, when `free` lets it issue and no NaN traps (R94). -/
def DeliversWhen (free : State → Prop) (i : Instr) (e : Eng) (p : Engw) (ty : Ty) (d : BitVec 5) (rs : Core → LaneRes) : Prop :=
  ∀ (s : State) h, Issues e p s h → i.limits = true → free s →
    (ty.isFloat && s.myCore.nten && (nanAt ty (rs s.myCore)).isSome) = false →
    ∃ t, exec i s = .next t ∧ Retired s t e ∧
      Wrote s t d ty.bits (fun j => ((rs s.myCore).getD j none).map (·.1)) (laneFlags (rs s.myCore))

/-- An engine word that delivers lanes and that only its tokens hold. -/
def Delivers (i : Instr) (e : Eng) (p : Engw) (ty : Ty) (d : BitVec 5) (rs : Core → LaneRes) : Prop :=
  DeliversWhen (fun _ => True) i e p ty d rs

/-- An engine word that moves bits to lanes of `w` bits of `d`: no flag and no trap (R71). -/
def Moves (i : Instr) (e : Eng) (p : Engw) (w : Nat) (d : BitVec 5) (val : Core → QEntry → Nat → Option Nat) : Prop :=
  ∀ (s : State) h, Issues e p s h → i.limits = true →
    ∃ t, exec i s = .next t ∧ Retired s t e ∧ Wrote s t d w (val s.myCore h) 0

/-- `f` in the lanes where mask `m` is on. -/
def masked (m : BitVec 3) (w : Nat) (f : Core → Nat → Nat) (c : Core) (_ : QEntry) (j : Nat) : Option Nat :=
  if laneOn (c.mask m) w j then some (f c j) else none

/-- A three-register elementwise word. -/
def Elementwise (mk : Engw → Ty → BitVec 5 → BitVec 5 → BitVec 5 → BitVec 3 → Instr)
    (ff : Fmt → Rm → Bool → Nat → Nat → FR) (fi : Ty → Nat → Nat → FR) : Prop :=
  ∀ p ty d a b m, Delivers (mk p ty d a b m) .arith p ty d fun c =>
    onLanes (c.mask m) ty.bits ty.lanes fun j =>
      if ty.isFloat then ff (fmtOf ty) .rne c.ftz (c.lane ty a j) (c.lane ty b j) else fi ty (c.lane ty a j) (c.lane ty b j)

/-- A word of one source register whose lanes `f` gives. -/
def Lanewise1 (mk : Engw → Ty → BitVec 5 → BitVec 5 → BitVec 3 → Instr) (f : Ty → Nat → Nat) : Prop :=
  ∀ p ty d a m, Moves (mk p ty d a m) .arith p ty.bits d (masked m ty.bits fun c j => f ty (c.lane ty a j))

/-- A word of two source registers whose lanes `f` gives. -/
def Lanewise2 (mk : Engw → Ty → BitVec 5 → BitVec 5 → BitVec 5 → BitVec 3 → Instr) (f : Ty → Nat → Nat → Nat) : Prop :=
  ∀ p ty d a b m, Moves (mk p ty d a b m) .arith p ty.bits d
    (masked m ty.bits fun c j => f ty (c.lane ty a j) (c.lane ty b j))

/-- A logical word on 32-bit containers. -/
def Logic (mk : Engw → BitVec 5 → BitVec 5 → BitVec 5 → BitVec 3 → Instr) (f : Nat → Nat → Nat) : Prop :=
  ∀ p d a b m, Moves (mk p d a b m) .arith p 32 d (masked m 32 fun c j => f (c.lane .n32 a j) (c.lane .n32 b j))

/-- A word that moves lane (row, column) `f` of its source to each lane. -/
def Shuffle (mk : Engw → Ty → BitVec 5 → BitVec 5 → BitVec 8 → BitVec 3 → Instr) (e : Eng)
    (f : Nat → Nat → Nat → Nat → Nat × Nat) : Prop :=
  ∀ p ty d a (k : BitVec 8) m, Moves (mk p ty d a k m) e p ty.bits d (masked m ty.bits fun c j =>
    let x := f ty.cols k.toNat (j / ty.cols) (j % ty.cols)
    c.lane ty a (x.1 * ty.cols + x.2))

/-- A special-function word, which waits while the cluster's Pavane runs (R39, R145, R146). -/
def SpecialWord (mk : Engw → Ty → BitVec 5 → BitVec 5 → BitVec 3 → Instr) (fn : SpecFn) : Prop :=
  ∀ p ty d a m, DeliversWhen (fun s => s.pavRuns = false) (mk p ty d a m) .arith p ty d fun c =>
    onLanes (c.mask m) ty.bits ty.lanes fun j => special fn (fmtOf ty) c.ftz (c.lane ty a j)

/-- A word that writes mask `t` and changes no register. -/
def MaskWrites (i : Instr) (p : Engw) (t : BitVec 3) (f : Core → MaskData) : Prop :=
  ∀ (s : State) h, Issues .arith p s h →
    ∃ u, exec i s = .next u ∧ Retired s u .arith ∧ u.myCore.mask t = f s.myCore ∧
      (∀ k, k ≠ t → u.myCore.mask k = s.myCore.mask k) ∧ u.myCore.mstack.drop 1 = s.myCore.mstack.drop 1 ∧
      u.myCore.v = s.myCore.v ∧ u.mem = s.mem

/-- An arithmetic word whose one result, in flight when it issues, is written by ENGINE_RESULT_WRITE. -/
def Sends (i : Instr) (p : Engw) (f : Core → Option (BitVec 6 × Word) × Option (BitVec 3 × Bool)) : Prop :=
  ∀ (s : State) h, Issues .arith p s h →
    ∃ u, exec i s = .next u ∧ Retired s u .arith ∧ u.myCore.v = s.myCore.v ∧ u.mem = s.mem ∧
      (u.myCore.getEng .arith).inflight =
        (s.myCore.getEng .arith).inflight ++ [⟨h.seq, p.push, (f s.myCore).1, (f s.myCore).2⟩]

/-! ## Shapes of vector memory and matrix words -/

/-- The location is bytes `[x.1, x.1 + length)` of one of the stores `bs`; the last one counts. -/
def storedOver (bs : List (Nat × List Byte)) (a : Nat) (old : Byte) : Byte :=
  bs.foldl (fun b x => if x.1 ≤ a ∧ a < x.1 + x.2.length then byteAt x.2 (a - x.1) else b) old

/-- The core reads the stored bytes where `bs` stores and what it read before elsewhere, and storage itself changes nowhere else. -/
def Stores (s t : State) (bs : List (Nat × List Byte)) : Prop :=
  (∀ a, t.coreByte t.myCore a = storedOver bs a (s.coreByte s.myCore a)) ∧
  (∀ a, (∀ x ∈ bs, a < x.1 ∨ x.1 + x.2.length ≤ a) → memGet t.mem a = memGet s.mem a)

/-- The base register of a memory operand is advanced by 256 times its increment, and no other scalar register changes (R154). -/
def Advanced (s t : State) (h : QEntry) : VAddr → Prop
  | .base b (some n) => (b ≠ 0 → t.myCore.s.toArray.getD (b.setWidth 6 : BitVec 6).toNat 0 = h.scalar + 256 * n.signExtend 64) ∧
      ∀ r, r ≠ (b.setWidth 6 : BitVec 6).toNat → t.myCore.s.toArray.getD r 0 = s.myCore.s.toArray.getD r 0
  | _ => t.myCore.s = s.myCore.s

/-- None of the accesses meets one of the core's own watchpoints. -/
abbrev Unwatched (s : State) (write : Bool) (xs : List (Nat × Nat)) : Prop := ∀ x ∈ xs, s.myCore.wpMatch write x.1 x.2 = none

/-- No strong store of the core that is still to perform touches a granule of the accesses. -/
abbrev NoPending (s : State) (xs : List (Nat × Nat)) : Prop :=
  ∀ x ∈ xs, ∀ γ ∈ gransOf x.1 x.2, outTouches s.myCore.out (64 * γ) 64 = false

/-- A vector load in shape `sh` whose lanes are `ls`: each masked-on lane takes the element at its location, as the core sees it. -/
def VLoads (i : Instr) (p : Engw) (ty : Ty) (d : BitVec 5) (addr : VAddr) (sh : VShape) (m : BitVec 3) : Prop :=
  ∀ (s : State) h ls, Issues .load p s h → i.limits = true →
    vmemLanes s h ty addr sh false (s.myCore.mask m) = .ok ls → (∀ x ∈ ls, s.unc x.2 (fmtBytes ty) = false) →
    Unwatched s false (ls.map fun x => (x.2, fmtBytes ty)) → s.myCore.staging = [] →
    ∃ t, exec i s = .next t ∧ (t.myCore.getEng .load).queue = (s.myCore.getEng .load).queue.drop 1 ∧
      t.myCore.pc = s.myCore.pc ∧ t.myCore.c = s.myCore.c ∧ Advanced s t h addr ∧
      Wrote s t d ty.bits
        (fun j => (ls.find? fun x => x.1.lane = j).map fun x => bytesNat (s.coreBytes s.me x.2 (fmtBytes ty))) 0

/-- A vector store in shape `sh` whose lanes are `ls`. -/
def VStores (i : Instr) (p : Engw) (ty : Ty) (d : BitVec 5) (addr : VAddr) (sh : VShape) (m : BitVec 3) : Prop :=
  ∀ (s : State) h ls, s.mem.wf = true → Issues .store p s h → i.limits = true →
    vmemLanes s h ty addr sh true (s.myCore.mask m) = .ok ls →
    Unwatched s true (ls.map fun x => (x.2, fmtBytes ty)) → NoPending s (ls.map fun x => (x.2, fmtBytes ty)) →
    s.myCore.smb = [] →
    ∃ t, exec i s = .next t ∧ (t.myCore.getEng .store).queue = (s.myCore.getEng .store).queue.drop 1 ∧
      t.myCore.pc = s.myCore.pc ∧ t.myCore.c = s.myCore.c ∧ t.myCore.v = s.myCore.v ∧ t.myCore.fpstat = s.myCore.fpstat ∧
      Advanced s t h addr ∧
      Stores s t (ls.map fun x => (x.2, natBytes (fmtBytes ty) (laneOf ty.bits (s.myCore.vreg d) x.1.lane)))

/-- A product word `w` whose checks gave `r` reads no bad byte, meets no watchpoint and traps on no NaN. -/
abbrev Clear (s : State) (w : MxWord) (h : QEntry) (r : MxReady) : Prop :=
  let ps := allPieces r.a ++ allPieces r.b
  s.piecesUnc ps = none ∧ Unwatched s false (ps.map fun p => p.2) ∧
  let bs := mxBytes2 s s.me w r
  (s.myCore.nten && (firstNan (mxProduct s.myCore w h bs.1 bs.2).1).isSome) = false

/-- The product stands in its tile, whose kind is the accumulator's; the other tiles, the vector registers and storage are as
before; a product of the weight buffer moves KCUR on. -/
def Accumulated (s t : State) (w : MxWord) (h : QEntry) (r : MxReady) : Prop :=
  let bs := mxBytes2 s s.me w r
  let pr := mxProduct s.myCore w h bs.1 bs.2
  Retired s t .matrix ∧
  (∀ i j, i < 128 → j < 128 → tileEl (t.myCore.tile w.td) i j = match pr.1.getD (128 * i + j) none with
    | some a => a.x % 2 ^ 32
    | none => tileEl (s.myCore.tile w.td) i j) ∧
  (∀ u, u ≠ w.td → t.myCore.tile u = s.myCore.tile u) ∧ t.myCore.tk w.td.toNat = (if w.ty = .i8 then .int else .float) ∧
  t.myCore.wbuf = (if w.b = .wb then { s.myCore.wbuf with kcur := (s.myCore.wbuf.kcur + w.n) % s.myCore.wbuf.kld }
    else s.myCore.wbuf) ∧
  t.myCore.v = s.myCore.v ∧ t.mem = s.mem

/-- The bytes of one row laid over its pieces. -/
def splitPieces : List Piece → List Byte → List (Nat × List Byte)
  | [], _ => []
  | (_, loc, n) :: ps, bs => (loc, bs.take n) :: splitPieces ps (bs.drop n)

/-- The pairs of a conversion: `n = min ns nd` of them, in part `part` of the longer side. -/
def pairResults (c : Core) (ns nd part ws : Nat) (rm : Rm) (a : BitVec 5) (m : BitVec 3) (f : Nat → Nat → FR) : LaneRes :=
  let pr := pairsOf ns nd part
  let ds := (takeDraws rm pr.n c.genV).1
  pairLanes pr.n nd part ns ((List.range pr.n).map fun j =>
    if pairOn (c.mask m) pr.n j then some (f (laneOf ws (c.vreg a) (pr.src j)) (ds.getD j 0)) else none)

/-- Bytes `[at, at + k·n)` of the destination in blocks of `k`, `f b` giving block `b` where `on b`. -/
def blockVal (pos k n : Nat) (on : Nat → Bool) (f : Nat → List Byte) (j : Nat) : Option Nat :=
  if pos ≤ j ∧ j < pos + k * n ∧ on ((j - pos) / k) = true then some (byteAt (f ((j - pos) / k)) ((j - pos) % k)).toNat
  else none

/-- A word of the mask stack: the new stack, or MSTACK where `f` gives none. -/
def StackWord (i : Instr) (p : Engw) (f : Core → Option (List MaskData)) : Prop :=
  ∀ (s : State) h, Issues .arith p s h →
    (∀ l, f s.myCore = some l →
      ∃ u, exec i s = .next u ∧ Retired s u .arith ∧ u.myCore.mstack = l ∧ u.myCore.m = s.myCore.m ∧
        u.myCore.v = s.myCore.v ∧ u.mem = s.mem) ∧
    (f s.myCore = none → exec i s = .next ((s.raise s.me (some h)
      { cause := cMSTACK, aux := s.myCore.mstack.length, eng := some .arith }).updCore s.me (·.unmarkHead .arith)))

/-! ## Shapes of commands, task words and retrieval words -/

/-- The engine of the core's next command has room, nothing waits at it unstarted, and no cancel token has reached the instance. -/
abbrev EngineFree (s : State) : Prop :=
  (∀ c ∈ s.cmds, c.id < s.nextId) ∧ (s.cmdsOf false s.myEngine).length < 32 ∧
  (∀ c ∈ s.cmdsOf false s.myEngine, c.started = true) ∧ s.tokenAt (s.instOf s.me) = false

/-- The one new command, at its cluster's engine, with the addresses that its hand-off read. -/
def Accepted (s t : State) (flag : BitVec 10) (k : CmdKind) (rs : List (Nat × Nat)) : Prop :=
  ∃ st, t.cmds = s.cmds ++ [{ newCmd s s.myEngine flag k with id := s.nextId, started := st, reads := rs }]

/-- A copy-engine word whose checks passed hands its command off: no byte of storage changes until the command performs. A word whose
scalar pipe reads more than the records waits for the core's own strong writes (R192). -/
def HandsOff (i : Instr) (q : Qual) (sd a : BitVec 6) (op : CopyOp) (flag : BitVec 10) (rel : Bool) : Prop :=
  ∀ (s : State) x, Fires q [sd, a] [] s → s.myCore.inh = false →
    (op.readsEarly = true → s.myCore.writesOut = false) →
    checkCopy s (s.whoCore s.me) op (s.myCore.reg sd) (s.myCore.reg a) = .ok x → EngineFree s → (rel = true → Quiet s.myCore) →
    Unwatched s false (pieceRuns x.rd) → Unwatched s true (pieceRuns x.wr) →
    ∃ t, exec i s = .next t ∧ Moved s.myCore t.myCore ∧ t.mem = s.mem ∧ Accepted s t flag x.kind x.reads

/-- Storage with bytes laid over runs of locations. -/
def memRuns (m : Memory) : List (Nat × Nat) → List Byte → Memory
  | [], _ => m
  | (loc, n) :: rs, bs => memRuns (memWrite m loc (bs.take n)) rs (bs.drop n)

/-- The source and destination runs of a command that only moves bytes. -/
def moveRuns : CmdKind → Option (List (Nat × Nat) × List (Nat × Nat))
  | .copy a b => some (a.runs, b.runs)
  | .transpose a b => some (transRuns a.entry a.pos a.box, b.runs)
  | .gather a b is => some (boxRuns a.entry a.pos a.box (some is), b.runs)
  | _ => none

/-- What a contribution `x` that its receive side takes does (R93, R207, R240): an ordered one that leaves its round open is held in rising
rank, storage as it was; an unordered one, and the one that completes its round, combine the destination's elements with each
contribution in turn and add 1 to DFLAG. A completed round is closed, and each contributing command of this device ends and adds
1 to its flag. -/
def RedEffect (s t : State) (x : RedIn) : Prop :=
  let held := insertRank x.contribution ((x.round s).elim [] (·.held))
  let cs := if x.ordered then held else [x.contribution]
  let ks := if x.ordered then held.filterMap fun k => k.cmd.bind s.cmd else []
  (x.ordered = true → held.length ≠ x.srcs → t.mem = s.mem ∧ ∃ r, x.round t = some r ∧ r.held = held) ∧
  (x.ordered = false ∨ held.length = x.srcs →
    t.mem = memRuns s.mem (pieceRuns (x.pieces s))
      (elemBytes x.ty (cs.foldl (fun es k => redStepAll x.ty x.op k.ftz es k.data) (x.old s))) ∧
    (x.ordered = true → x.round t = none) ∧
    ((ks.map (·.id)).Nodup → (∀ k ∈ ks, k.die = false ∧ k.node = none) →
      (x.dflag ≠ 0 → t.dieFlag x.who.part (x.die s) x.dflag = s.dieFlag x.who.part (x.die s) x.dflag + 1) ∧
      (x.ordered = true → t.cmds = s.cmds.filter (fun c => !(ks.map (·.id)).contains c.id) ∧
        ∀ e f, f ≠ 0 → t.clusFlag e f =
          s.clusFlag e f + BitVec.ofNat 32 (ks.filter fun k => k.engine / 2 = e ∧ k.flag = f).length)))

/-- The state after the release steps at a scope beyond .near. -/
abbrev released (s : State) : State := s.releaseSteps s.me .dev

/-- The word writes `v` to `d`, and storage is as before. -/
def Replies (i : Instr) (s : State) (d : BitVec 6) (v : Word) : Prop :=
  ∃ t, exec i s = .next t ∧ MovedTo s.myCore t.myCore d v ∧ t.mem = s.mem

/-- Nothing waits unstarted at any engine. -/
abbrev AllStarted (s : State) : Prop := ∀ x ∈ s.cmds, x.started = true

/-! ## Shapes of Pavane words -/

/-- The moving cluster's pass with another stack and the next word. -/
def stepTo (s : State) (p : Pass) (st : List Word) (pc : Nat) : State :=
  s.setPass s.clus (some { p with stack := st, pc := pc })

/-- The moving cluster's pass is `p`, and no FINAL of it is unfinished, behind whose writes every later word waits (R317). -/
abbrev AtWord (s : State) (p : Pass) : Prop := s.passOf s.clus = some p ∧ ∀ o ∈ p.ops, o.op ≠ 0x14

/-- A word that takes the stack of the pass to another: it goes to the next word; where `f` gives none, or more than eight
entries, the pass stops with PVSTACK. -/
def Micro (i : Instr) (f : Pass → Option (List Word)) : Prop :=
  ∀ (s : State) p, AtWord s p →
    (∀ st, f p = some st → st.length ≤ 8 → p.pc + 1 < 4096 → exec i s = .next (stepTo s p st (p.pc + 1))) ∧
    ((∀ st, f p = some st → 8 < st.length) → exec i s = .next (s.passFault s.clus p.pc cPVSTACK))

/-- A word a b → f a b. -/
def Micro2 (i : Instr) (f : Word → Word → Word) : Prop :=
  Micro i fun p => match p.stack with
    | b :: a :: st => some (f a b :: st)
    | _ => none

/-- Target of a micro-word's offset. -/
def microTarget (p : Pass) (off : BitVec 11) : Int := p.pc + off.toInt

/-- A launch word that enters operation `op` on buffer `buf`: it waits while its group holds four unfinished operations, and a cancel
token stops the pass before it. -/
def Launches (i : Instr) (op buf : Nat) : Prop :=
  ∀ (s : State) p, AtWord s p →
    let held := (p.ops.filter fun e => opGroup e.op = opGroup op).length
    (s.tokenAt p.inst = false → held < 4 → p.pc + 1 < 4096 →
      exec i s = .next (s.setPass s.clus (some { p with ops := p.ops ++ [⟨p.pc, op, buf, false, 0, none, none⟩], pc := p.pc + 1 }))) ∧
    (s.tokenAt p.inst = false → 4 ≤ held → exec i s = .next s) ∧
    (s.tokenAt p.inst = true → exec i s = .next (s.stopPass s.clus))

/-- A micro-word behind an unfinished FINAL waits (R317). -/
def Waits (i : Instr) : Prop := ∀ (s : State) p, s.passOf s.clus = some p → (∃ o ∈ p.ops, o.op = 0x14) → exec i s = .next s

/-! ## What a pass computes (R317) -/

/-- Element `i` of a row of stored bytes. -/
def elemAt (t : Ty) (bs : List Byte) (i : Nat) : FV := (fmtOf t).decode (natAt bs (fmtBytes t * i) (fmtBytes t))

/-- The n products of `x` and `y` added to an accumulator by the k-steps of R89: each step's exact sum is rounded to FP32 and added. -/
def dotSteps (t : Ty) (n acc : Nat) (x y : Nat → FV) : Nat :=
  (chunks (kStep t) n ((List.range n).map fun i => (x i).mul (y i))).foldl
    (fun a ps => (fAdd fmtF32 .rne false a (fmtF32.deliver .rne 0 false (exactSum ps)).1).1) acc

/-- The larger of two FP32 values (R75). -/
def maxF (a b : BitVec 32) : BitVec 32 := BitVec.ofNat 32 (fMinMax .f32 true a.toNat b.toNat).1

/-- Exp(RoundToFP32(a − b, rne)). -/
def expSub (a b : BitVec 32) : BitVec 32 :=
  BitVec.ofNat 32 (special .exp fmtF32 false (fSub fmtF32 .rne false a.toNat b.toNat).1).1

/-- The score that QK gives query row `r` against key `j` of buffer `b`. -/
def scoreOf (p : Pass) (b : PavBuf) (r j : Nat) : BitVec 32 :=
  if b.masked.getLsbD j then 0xFF800000
  else BitVec.ofNat 32 (fMul fmtF32 .rne false (((p.params.getD 3 0).extractLsb' 0 32).toNat)
    (dotSteps p.fmt p.dh 0 (elemAt p.fmt (p.qry.getD r [])) (elemAt p.fmt (bytesAt b.keys (j * p.rowBytes) p.rowBytes)))).1

/-- What SOFT makes of the scores, m and l of a row: m2, alpha, the probabilities and the new l. -/
def softOf (m l : BitVec 32) (scores : List (BitVec 32)) : BitVec 32 × BitVec 32 × List (BitVec 32) × BitVec 32 :=
  let m2 := maxF m (scores.tail.foldl maxF (scores.headD 0xFF800000))
  let off : Bool := m2 = 0xFF800000
  let alpha : BitVec 32 := if off then 0x3F800000 else if m = 0xFF800000 then 0 else expSub m m2
  let ps := if off then scores.map fun _ => 0 else scores.map fun x => expSub x m2
  let sum := (tree (fAdd fmtF32 .rne false) 6 (ps.map fun x => (x.toNat, 0))).1
  (m2, alpha, ps, BitVec.ofNat 32 (fFma fmtF32 .rne false false alpha.toNat l.toNat sum).1)

/-- Element `e` of a row whose accumulator holds `a` and whose probabilities are `ps`, after PV of buffer `b`. -/
def pvOf (p : Pass) (b : PavBuf) (ps : List (BitVec 32)) (e : Nat) (a : BitVec 32) : BitVec 32 :=
  BitVec.ofNat 32 (dotSteps p.fmt 64 a.toNat
    (fun j => (fmtOf p.fmt).decode ((fmtOf p.fmt).deliver .rne 0 false (fmtF32.decode (ps.getD j 0).toNat)).1)
    fun j => if b.filled then elemAt p.fmt (bytesAt b.vals (j * p.rowBytes) p.rowBytes) e else .fin false 0 0)

/-- The payload of TRIPLE (R319). -/
def triplePayload (p : Pass) : List Byte :=
  natBytes 8 (p.revn.toNat + p.origin * 2 ^ 32 + (p.hop + 1) * 2 ^ 38) ++ List.replicate 56 0 ++ p.qry.flatten ++
  ((List.range p.rows).map fun r => natBytes 4 (p.m.getD r 0).toNat ++ natBytes 4 (p.l.getD r 0).toNat).flatten ++
  (p.o.flatten.map fun x => natBytes 4 x.toNat).flatten

/-- The state with the oldest request of each core of cluster `k` in task `t` taken. -/
def takeReqs (s : State) (k : Nat) (t : Option Nat) : State :=
  s.updCluster k fun x => { x with pav := { x.pav with reqs := (coresOf k).foldl (fun l g => dropFirst t g l) x.pav.reqs } }

/-! ## Shapes of system words -/

/-- CSRW of register `n` takes the core to `f` of it and the value, and moves on. -/
def WritesCsr (n : Nat) (f : Core → Word → Core) : Prop :=
  ∀ (a : BitVec 6) (s : State), s.myCore.ready [a] [] = true →
    ∃ t, exec (.csrw a (BitVec.ofNat 16 n)) s = .next t ∧ t.myCore = (f s.myCore (s.myCore.reg a)).advance ∧ t.mem = s.mem

/-- A write of a register that waits until every engine of the core has drained (R83). -/
def WritesDrained (i : BitVec 6 → Instr) (f : Core → Word → Core) : Prop :=
  ∀ (a : BitVec 6) (s : State), s.myCore.ready [a] [] = true →
    (s.myCore.drained = true → exec (i a) s = .next (s.updMe fun c => (f c (c.reg a)).advance)) ∧
    (s.myCore.drained = false → exec (i a) s = .next s)

/-- A core calls: its arguments are final and nothing older is outstanding. -/
def Calls (s : State) : Prop :=
  (∀ g a b c d, s.arg ≠ .service g a b c d) ∧ s.myCore.ready [1, 2, 3, 4, 5, 6, 7, 8] [] = true ∧ Quiet s.myCore

/-- The call returns status `st` in s1 and, where there is one, a result in s2; every other register stays (R370). -/
def Answers (i : Instr) (s : State) (st : Nat) (res : Option Word) (more : State → Prop) : Prop :=
  ∃ t, exec i s = .next t ∧ t.myCore.reg 1 = BitVec.ofNat 64 st ∧ (∀ v, res = some v → t.myCore.reg 2 = v) ∧
    (∀ r, r ≠ 1 → (res = none ∨ r ≠ 2) → t.myCore.reg r = s.myCore.reg r) ∧ t.myCore.c = s.myCore.c ∧
    t.myCore.pc = s.myCore.pc + 8 ∧ t.myCore.staging = [] ∧ more t

/-- A call that changes nothing but s1 and the core's place. -/
def Rejects (i : Instr) (s : State) (st : Nat) : Prop := Answers i s st none fun t => t.mem = s.mem

/-- The call waits in progress, the core at its word with its registers as they were. -/
def Stalls (i : Instr) (s : State) (more : State → Prop) : Prop :=
  ∃ t, exec i s = .next t ∧ t.myCore.wait = some (.sysc i) ∧ t.myCore.pc = s.myCore.pc ∧ (∀ r, t.myCore.reg r = s.myCore.reg r) ∧ more t

/-- Service firmware, which runs, makes the call for core `g` with arguments `a` to `d`. -/
abbrev Serves (s : State) (g : Nat) (a b c d : Word) : Prop := s.firmware = .running ∧ s.arg = .service g a b c d

/-- The call of service firmware ends with a status. -/
def Serviced (i : Instr) (s : State) (st : Nat) (more : State → Prop) : Prop :=
  ∃ t, exec i s = .next t ∧ t.svcStatus = BitVec.ofNat 64 st ∧ more t

/-- What the calls that any caller may make come to, for core `g` with arguments `a` by register number: `r` is the state that the call
finds after its release, `ret` says that it ends with a status and perhaps a result, and `wait` that it waits (R370). -/
def AnyCalls (s r : State) (g : Nat) (a : Nat → Nat) (ret : Instr → Nat → Option Word → (State → Prop) → Prop)
    (wait : Instr → (State → Prop) → Prop) : Prop :=
  let p := s.partOf g
  let fails (i : Instr) (st : Nat) : Prop := ret i st none fun t => t.mem = s.mem
  (∀ n, fails (.syscBadcall n) 1) ∧ ret .syscVersion 0 (some Config.firmwareVersion) (fun t => t.mem = s.mem) ∧
  (∀ e, a 2 < 65536 → objImage r g (a 3) = some e → entryOk e = true → r.objUsed p (a 2) = false →
    ret .syscObjset 0 none fun t => t.mem = s.mem ∧
      ((t.part p).objs.find (a 2)).map (·.bits) = some (entInstalled e p) ∧
      (∀ j, j ≠ a 2 → (t.part p).objs.find j = (s.part p).objs.find j) ∧
      ∀ k, ((t.core g).stream k).bound = true → ((t.core g).stream k).index.toNat ≠ a 2) ∧
  ((objImage r g (a 3) = none ∨ 65536 ≤ a 2 ∨ ∃ e, objImage r g (a 3) = some e ∧ entryOk e = false) → fails .syscObjset 3) ∧
  (∀ e, (s.part p).objs.find (a 2) = some e → r.objUsed p (a 2) = false →
    ret .syscObjdel 0 none fun t => t.mem = s.mem ∧ (t.part p).objs.find (a 2) = none ∧
      ∀ j, j ≠ a 2 → (t.part p).objs.find j = (s.part p).objs.find j) ∧
  (∀ e, (s.part p).objs.find (a 2) = some e → r.objUsed p (a 2) = true → wait .syscObjdel fun t => (t.part p).objs = (s.part p).objs) ∧
  ((s.part p).objs.find (a 2) = none → fails .syscObjdel 3) ∧
  (∀ bs, a 2 ≤ 32 → a 3 < 64 →
    let k := if a 2 = 0 then clusOf g else a 2 - 1
    ((s.cluster k).part ≠ p → fails .syscRingset 2) ∧
    ((s.cluster k).part = p → sysBytes r g (a 4) 16 = some bs → ringImageOk r p k (dwordAt bs 0) (dwordAt bs 8) = true →
      ((s.ring k (a 3)).claimed ≠ (s.ring k (a 3)).head → fails .syscRingset 4) ∧
      ((s.ring k (a 3)).claimed = (s.ring k (a 3)).head → ret .syscRingset 0 none fun t => t.mem = s.mem ∧
        let x := t.ring k (a 3)
        x.base = (dwordAt bs 0).extractLsb' 0 52 ∧ x.slotsz = (dwordAt bs 8).extractLsb' 0 16 ∧
        x.count = (dwordAt bs 8).extractLsb' 16 11 ∧ x.dlv = (dwordAt bs 8).getLsbD 36 ∧ x.valid = true ∧
        x.part = BitVec.ofNat 3 p ∧ x.claimed = 0 ∧ x.tail = 0 ∧ x.taken = 0 ∧ x.head = 0 ∧ x.filled = [] ∧ x.released = []))) ∧
  (∀ bs, a 2 < 1024 → sysBytes r g (a 3) 16 = some bs →
    let x := BitVec.ofNat 128 (bytesNat bs)
    (xqConfigOk r p x = false → fails .syscXqset 3) ∧
    (xqConfigOk r p x = true → (r.xq p (a 2)).elim false (fun q => q.descs != []) = false →
      ret .syscXqset 0 none fun t => t.mem = s.mem ∧ (t.part p).xqs.find (a 2) = some (xqOf p x))) ∧
  (let change (old : List PageMap) (res : Option Word) : Remap := ⟨s.caller g, old, (s.part p).pages, s.nextId, res⟩
  (s.part p).remap = none →
  (∀ t' ms root, a 4 ≤ 4 → a 5 < 4 → a 2 % pageSize (a 4) = 0 → a 3 ≠ 0 →
    let z := pageSize (a 4)
    let n := roundUp (a 3) z
    let old := (s.part p).mapped.filter fun m => m.meets (a 2) n
    let x := change old (some (BitVec.ofNat 64 n))
    a 2 + n ≤ winBase → (∀ m ∈ old, m.size ≤ z) → s.rootOf p = some root →
    mapPages (a 4) (a 5) (⟨0, 65536, root, 0⟩ :: s.usedPages) old (s.part p).pages ((List.range (n / z)).map fun i => a 2 + i * z) =
      some (t', ms) →
    let mapped (t : State) : Prop := (t.part p).pages = t' ∧ (t.part p).root = some root ∧
      (s.mem.wf = true → ∀ loc, memGet t.mem loc =
        if (∃ m ∈ ms, physBase + m.pa ≤ loc ∧ loc < physBase + m.pa + m.size) then 0 else memGet s.mem loc)
    (r.pagesUsed p x = false → ret .syscMap 0 x.res fun t => mapped t ∧ (t.part p).remap = none) ∧
    (r.pagesUsed p x = true → wait .syscMap fun t => mapped t ∧ (t.part p).remap = some x)) ∧
  (a 2 % 4096 = 0 → a 3 % 4096 = 0 → a 3 ≠ 0 → a 2 + a 3 ≤ winBase →
    let old := (s.part p).mapped.filter fun m => m.meets (a 2) (a 3)
    let x := change old none
    (∀ m ∈ old, a 2 ≤ m.va ∧ m.va + m.size ≤ a 2 + a 3) →
    let unmapped (t : State) : Prop := t.mem = s.mem ∧ (t.part p).root = (s.part p).root ∧
      (t.part p).pages = old.foldl (fun t m => clearRange t m.lv m.va m.size) (s.part p).pages
    (r.pagesUsed p x = false → ret .syscUnmap 0 none fun t => unmapped t ∧ (t.part p).remap = none) ∧
    (r.pagesUsed p x = true → wait .syscUnmap fun t => unmapped t ∧ (t.part p).remap = some x))) ∧
  (∀ x, (s.part p).remap = some x → ∀ i ∈ [Instr.syscMap, .syscUnmap],
    let kept (t : State) : Prop := t.mem = s.mem ∧ (t.part p).pages = (s.part p).pages
    (x.caller = s.caller g → r.pagesUsed p x = false → ret i 0 x.res fun t => kept t ∧ (t.part p).remap = none) ∧
    (x.caller ≠ s.caller g ∨ r.pagesUsed p x = true → wait i fun t => kept t ∧ (t.part p).remap = some x)) ∧
  (1048576 ≤ s.sigNext → fails .syscAttest 6) ∧
  (∀ nonce rs, s.sigNext < 1048576 → sysBytes r g (a 2) 32 = some nonce →
    resolveRange r (r.whoCore g) .wr (a 3) Config.reportSize = .ok rs →
    ret .syscAttest 0 none fun t => t.sigNext = s.sigNext + 1 ∧ t.mem = memRuns s.mem rs (r.report339 nonce))

/-- The report of a fault of the issuing core's scalar word at its pc. -/
abbrev reportHere (s : State) (t : Trap) : Vector Word 8 := s.report s.me s.myCore.pc s.myCore.pc t

/-- The core stands at no fault that waits and in no system call, and every older engine entry has completed (R350). -/
abbrev Delivers350 (s : State) : Prop :=
  s.myCore.pend = none ∧ s.myCore.inSysc = false ∧ s.myCore.olderDone s.myCore.seq = true

/-- The command queue of partition `p`. -/
abbrev cmdqOf (s : State) (p : Nat) : CmdQ := (s.part p).cmdq

/-- A write of the queue's TAIL or control that is looked at: a processor that serves and finds an overrun halts (R250). -/
def overrunHalts (s : State) (p : Nat) (q : CmdQ) : CmdQ := if s.serving p && q.over then { q with ovr := true, halted := true } else q

/-- The record of packet `x` reaches storage, and HEAD has moved past it. -/
def Recorded (s t : State) (p : Nat) (x : BitVec 512) (inst status cause : Nat) : Prop :=
  (cmdqOf t p).head = (cmdqOf s p).head + 1 ∧
  (∀ loc, pkCpl x ≠ 0 → (pkCpl x).toNat % 16 = 0 → resolve s (cmdWho p) .wr (pkCpl x).toNat 16 = .ok loc →
    t.mem = memWrite s.mem loc (completionBytes (pkSeq x) inst status cause)) ∧
  (pkCpl x = 0 → t.mem = s.mem)

/-- The processor of partition `p` reads packet `x`, which no check rejects. -/
abbrev Reads (s : State) (p : Nat) (x : BitVec 512) (opc : Nat) : Prop :=
  s.arg = .unit p ∧ s.nextPacket p = some x ∧ pkReject x (cmdqOf s p).head = 0 ∧ pkOpc x = opc

/-- Storage after a reset of the device: the host keeps its bytes, the device reads 0. -/
def HostKept (s t : State) : Prop := s.mem.wf = true → ∀ a, memGet t.mem a = if hostBase ≤ a then memGet s.mem a else 0

end Sys2Proof.Spec

open Sys2Proof Sys2Proof.Machine Sys2Proof.Spec

/-! ## Integer words -/

/-- R97 to R100: the integer words of two and three sources. Shifts and rotates take the low six bits of the count, a division
by zero gives all ones and leaves the dividend as remainder, and signed division rounds toward zero. -/
def Obligations.IntegerResults : Prop :=
  (Alu2 .add (fun x y => x + y) ∧ Alu2 .sub (fun x y => x - y) ∧
  Alu2 .and (fun x y => x &&& y) ∧ Alu2 .or (fun x y => x ||| y) ∧ Alu2 .xor (fun x y => x ^^^ y) ∧
  Alu2 .andn (fun x y => x &&& ~~~y) ∧ Alu2 .orn (fun x y => x ||| ~~~y) ∧
  Alu2 .min (fun x y => if x.toInt ≤ y.toInt then x else y) ∧ Alu2 .max (fun x y => if x.toInt ≤ y.toInt then y else x) ∧
  Alu2 .minn (fun x y => if x.toNat ≤ y.toNat then x else y) ∧
  Alu2 .maxn (fun x y => if x.toNat ≤ y.toNat then y else x) ∧
  (∀ q d a b sh, Yields (.lea q d a b sh) q d [a, b] [] fun c => c.reg a + (c.reg b <<< sh.toNat)) ∧
  (∀ q d a b k, Yields (.sel q d a b k) q d [a, b] [k] fun c => if c.creg k then c.reg a else c.reg b)) ∧
  (Alu2 .shl (fun x y => x <<< (y.toNat % 64)) ∧ Alu2 .shr (fun x y => x >>> (y.toNat % 64)) ∧
  Alu2 .sar (fun x y => x.sshiftRight (y.toNat % 64)) ∧ Alu2 .rol (fun x y => x.rotateLeft (y.toNat % 64)) ∧
  Alu2 .ror (fun x y => x.rotateRight (y.toNat % 64)) ∧
  Alu3 .fshl (fun x y e => ((x ++ y : BitVec 128) <<< (e.toNat % 64)).extractLsb' 64 64) ∧
  Alu3 .fshr (fun x y e => ((x ++ y : BitVec 128) >>> (e.toNat % 64)).extractLsb' 0 64)) ∧
  (Alu2 .mul (fun x y => x * y) ∧
  Alu2 .mulh (fun x y => BitVec.ofInt 64 (x.toInt * y.toInt / 2 ^ 64)) ∧
  Alu2 .mulhn (fun x y => BitVec.ofNat 64 (x.toNat * y.toNat / 2 ^ 64)) ∧
  Alu2 .div (fun x y => if y = 0 then BitVec.allOnes 64 else BitVec.ofInt 64 (x.toInt.tdiv y.toInt)) ∧
  Alu2 .divn (fun x y => if y = 0 then BitVec.allOnes 64 else BitVec.ofNat 64 (x.toNat / y.toNat)) ∧
  Alu2 .rem (fun x y => if y = 0 then x else BitVec.ofInt 64 (x.toInt.tmod y.toInt)) ∧
  Alu2 .remn (fun x y => if y = 0 then x else BitVec.ofNat 64 (x.toNat % y.toNat)))

/-- R97, R98, R99: ADDX adds the carry and leaves the carry out in the condition register, with c0 it adds 1 and keeps no
carry; with NOT b and a carry in the carry out says that no borrow occurred. CLZ counts the zeros above the highest 1, CTZ
those below the lowest 1, POPC the 1 bits; a zero operand gives 64, 64 and 0. BREV reverses the bits and BSWP the bytes. -/
def Obligations.CarryAndBitCounts : Prop :=
  (∀ (q : Qual) (d a b : BitVec 6) (k : BitVec 3) (s : State), Fires q [d, a, b] [k] s →
    ∃ t, exec (.addx q d a b k) s = .next t ∧
      (d ≠ 0 → t.myCore.reg d =
        s.myCore.reg a + s.myCore.reg b + if s.myCore.creg k then 1 else 0) ∧
      (k ≠ 0 → t.myCore.creg k =
        decide (2 ^ 64 ≤ (s.myCore.reg a).toNat + (s.myCore.reg b).toNat + if s.myCore.creg k then 1 else 0)) ∧
      (k ≠ 0 → s.myCore.creg k = true → ∀ y : Word, s.myCore.reg b = ~~~y →
        t.myCore.creg k = decide (y.toNat ≤ (s.myCore.reg a).toNat)) ∧
      (∀ r, r ≠ d → t.myCore.reg r = s.myCore.reg r) ∧ (∀ j, j ≠ k → t.myCore.creg j = s.myCore.creg j) ∧
      t.myCore.pc = s.myCore.pc + 8 ∧ t.mem = s.mem) ∧
  ((∃ f : Word → Word, Alu1 .clz f ∧ ∀ x, (f x).toNat ≤ 64 ∧ (∀ i, 64 - (f x).toNat ≤ i → i < 64 → x.getLsbD i = false) ∧
    ((f x).toNat < 64 → x.getLsbD (63 - (f x).toNat) = true)) ∧
  (∃ f : Word → Word, Alu1 .ctz f ∧ ∀ x, (f x).toNat ≤ 64 ∧ (∀ i, i < (f x).toNat → x.getLsbD i = false) ∧
    ((f x).toNat < 64 → x.getLsbD (f x).toNat = true)) ∧
  (∃ f : Word → Word, Alu1 .popc f ∧ ∀ x, (f x).toNat = ((List.range 64).filter fun i => x.getLsbD i).length) ∧
  (∃ f : Word → Word, Alu1 .brev f ∧ ∀ x i, i < 64 → (f x).getLsbD i = x.getLsbD (63 - i)) ∧
  (∃ f : Word → Word, Alu1 .bswp f ∧ ∀ x j i, j < 8 → i < 8 → (f x).getLsbD (8 * j + i) = x.getLsbD (8 * (7 - j) + i)))

/-- R101, R102: comparisons and the immediate forms. -/
def Obligations.ImmediateAndCompareResults : Prop :=
  AluI .addi (fun x i => x + i.signExtend 64) ∧ AluI .andi (fun x i => x &&& i.signExtend 64) ∧
  AluI .ori (fun x i => x ||| i.signExtend 64) ∧ AluI .xori (fun x i => x ^^^ i.signExtend 64) ∧
  AluI .shli (fun x i => x <<< i.toNat) ∧ AluI .shri (fun x i => x >>> i.toNat) ∧
  AluI .sari (fun x i => x.sshiftRight i.toNat) ∧
  (∀ q d i, Yields (.li q d i) q d [] [] fun _ => i.signExtend 64) ∧
  (∀ q d i, Yields (.lih q d i) q d [d] [] fun c => i ++ (c.reg d).extractLsb' 0 32) ∧
  (∀ q d a pos len, Yields (.bfxn q d a pos len) q d [a] [] fun c =>
    ((c.reg a).extractLsb' pos.toNat len.toNat).setWidth 64) ∧
  (∀ q d a pos len, Yields (.bfx q d a pos len) q d [a] [] fun c =>
    ((c.reg a).extractLsb' pos.toNat len.toNat).signExtend 64) ∧
  (∀ q d a pos len, ∃ f : Word → Word → Word, Yields (.bfi q d a pos len) q d [d, a] [] (fun c => f (c.reg d) (c.reg a)) ∧
    (pos.toNat + len.toNat ≤ 64 → ∀ x y j, j < 64 → (f x y).getLsbD j =
      if pos.toNat ≤ j ∧ j < pos.toNat + len.toNat then y.getLsbD (j - pos.toNat) else x.getLsbD j)) ∧
  (∀ q k t a b, Sets (.cmp q k t a b) q t [a, b] fun c => condHolds k (c.reg a) (c.reg b)) ∧
  (∀ q k t a i, Sets (.cmpi q k t a i) q t [a] fun c => condHolds k (c.reg a) (i.signExtend 64))

/-- The frame of the integer words: whenever one of them answers a next state, every scalar register but its destination,
every condition register, and all of storage are as before, and only its core's registers, pc and place in the window differ. -/
def Obligations.IntegerFrame : Prop :=
  ∀ (i : Instr) (d : BitVec 6) (s t : State), intDest i = some d → exec i s = .next t →
    (∀ r, r ≠ d → t.myCore.reg r = s.myCore.reg r) ∧ t.myCore.c = s.myCore.c ∧ t.mem = s.mem ∧
    (t = s ∨ t = s.updMe fun c =>
      { c with s := t.myCore.s, shadow := t.myCore.shadow, pc := c.pc + 8, qpos := t.myCore.qpos, noWatch := false })

/-- R7, R96: s0 reads 0 and a write to it is discarded; any other register reads what was written to it, and no other register
changes. R10: storage read after a write gives the bytes written, and every other byte is as it was. R195: a byte stored in
the store-merge buffer is what the buffer gives for its location, and no other location changes. -/
def Obligations.ReadAfterWrite : Prop :=
  (∀ (c : Core) (d r : BitVec 6) (v : Word), c.reg 0 = 0 ∧ c.setReg 0 v = c ∧
    (d ≠ 0 → (c.setReg d v).reg d = v) ∧ (r ≠ d → (c.setReg d v).reg r = c.reg r)) ∧
  (∀ (m : Memory) (loc : Nat) (bytes : List Byte), m.wf = true →
    memRead (memWrite m loc bytes) loc bytes.length = bytes ∧
    (∀ a, (a < loc ∨ loc + bytes.length ≤ a) → memGet (memWrite m loc bytes) a = memGet m a) ∧
    (memWrite m loc bytes).wf = true) ∧
  (∀ (now : Nat) (es : List SmbEntry) (loc : Nat) (b : Byte), smbGet (smbPut now es loc b) loc = some b ∧
    ∀ a, a ≠ loc → smbGet (smbPut now es loc b) a = smbGet es a)

/-- R26, R42: a word of the scalar pipe whose gate or qualifier is off only passes: the core moves to the next word and
nothing else changes. How the last iteration is told before an LBRK is the model's reading (assumption 70). -/
def Obligations.OffWordsOnlyPass : Prop :=
  ∀ (i : Instr) (q : Qual) (s : State), gateOf i = some q → s.myCore.isOn q = false →
    exec i s = .next (s.updMe Core.advance)

/-! ## Floating-point words -/

/-- R104 to R108: the arithmetic words, FCVT, which draws from the advanced generator under rsto, and the words that never
trap. -/
def Obligations.FloatResults : Prop :=
  (∀ q ty rm d a b, Floats (.fadd q ty rm d a b) q ty d [a, b] fun c =>
    fAdd (fmtOf ty) rm c.ftz (fpArg c ty a) (fpArg c ty b)) ∧
  (∀ q ty rm d a b, Floats (.fsub q ty rm d a b) q ty d [a, b] fun c =>
    fSub (fmtOf ty) rm c.ftz (fpArg c ty a) (fpArg c ty b)) ∧
  (∀ q ty rm d a b, Floats (.fmul q ty rm d a b) q ty d [a, b] fun c =>
    fMul (fmtOf ty) rm c.ftz (fpArg c ty a) (fpArg c ty b)) ∧
  (∀ q ty rm d a b e, Floats (.ffma q ty rm d a b e) q ty d [a, b, e] fun c =>
    fFma (fmtOf ty) rm c.ftz false (fpArg c ty a) (fpArg c ty b) (fpArg c ty e)) ∧
  (∀ q ty rm d a b, Floats (.fdiv q ty rm d a b) q ty d [a, b] fun c =>
    fDiv (fmtOf ty) rm c.ftz (fpArg c ty a) (fpArg c ty b)) ∧
  (∀ q ty rm d a, Floats (.fsqrt q ty rm d a) q ty d [a] fun c => fSqrt (fmtOf ty) rm c.ftz (fpArg c ty a)) ∧
  (∀ q dst src rm d a (s : State), Fires q [d, a] [] s →
    let gen := if rm = .rsto then nextGen s.myCore.genS else s.myCore.genS
    let r := convert src dst rm (drawOf gen) s.myCore.ftz (fcvtWidens src dst) (fpArg s.myCore src a)
    (s.myCore.nten && (dst.isFloat && isNanBits dst r.1)) = false →
      exec (.fcvt q dst src rm d a) s =
        .next (s.updMe fun c => ((({ c with genS := gen } : Core).setReg d (fcvtImage dst r.1)).orFlags r.2).advance)) ∧
  (∀ q ty d a b (s : State), Fires q [d, a, b] [] s →
    exec (.fmin q ty d a b) s = .next (s.updMe fun c =>
      let r := fMinMax ty false (fpArg c ty a) (fpArg c ty b)
      ((c.setReg d (BitVec.ofNat 64 r.1)).orFlags r.2).advance) ∧
    exec (.fmax q ty d a b) s = .next (s.updMe fun c =>
      let r := fMinMax ty true (fpArg c ty a) (fpArg c ty b)
      ((c.setReg d (BitVec.ofNat 64 r.1)).orFlags r.2).advance)) ∧
  (∀ q ty k t a b (s : State), Fires q [a, b] [t] s →
    exec (.fcmp q ty k t a b) s = .next (s.updMe fun c =>
      let r := fCmp (fmtOf ty) k (fpArg c ty a) (fpArg c ty b)
      ((c.setCreg t r.1).orFlags r.2).advance)) ∧
  (∀ q ty d a, Yields (.fclass q ty d a) q d [a] [] fun c => BitVec.ofNat 64 (fClass (fmtOf ty) (fpArg c ty a)))

/-- R94: with NTEN set, an arithmetic word or a conversion whose result is a NaN raises NANTRAP and writes neither its
register nor FP_STATUS. R109: a transfer out of the code window, or to no multiple of 8, raises PCRANGE with the target as its
address. R182, R212: an address of 2^52 or more raises WINBOUND, and one that is no multiple of the access SALIGN, at every
load, store and atomic. -/
def Obligations.ScalarTraps : Prop :=
  ((∀ q ty rm d a b, NanTraps (.fadd q ty rm d a b) q [d, a, b] ty fun c =>
    (fAdd (fmtOf ty) rm c.ftz (fpArg c ty a) (fpArg c ty b)).1) ∧
  (∀ q ty rm d a b, NanTraps (.fsub q ty rm d a b) q [d, a, b] ty fun c =>
    (fSub (fmtOf ty) rm c.ftz (fpArg c ty a) (fpArg c ty b)).1) ∧
  (∀ q ty rm d a b, NanTraps (.fmul q ty rm d a b) q [d, a, b] ty fun c =>
    (fMul (fmtOf ty) rm c.ftz (fpArg c ty a) (fpArg c ty b)).1) ∧
  (∀ q ty rm d a b e, NanTraps (.ffma q ty rm d a b e) q [d, a, b, e] ty fun c =>
    (fFma (fmtOf ty) rm c.ftz false (fpArg c ty a) (fpArg c ty b) (fpArg c ty e)).1) ∧
  (∀ q ty rm d a b, NanTraps (.fdiv q ty rm d a b) q [d, a, b] ty fun c =>
    (fDiv (fmtOf ty) rm c.ftz (fpArg c ty a) (fpArg c ty b)).1) ∧
  (∀ q ty rm d a, NanTraps (.fsqrt q ty rm d a) q [d, a] ty fun c => (fSqrt (fmtOf ty) rm c.ftz (fpArg c ty a)).1) ∧
  (∀ q dst src rm d a, dst.isFloat = true → NanTraps (.fcvt q dst src rm d a) q [d, a] dst fun c =>
    (convert src dst rm (drawOf (if rm = .rsto then nextGen c.genS else c.genS)) c.ftz (fcvtWidens src dst) (fpArg c src a)).1)) ∧
  ((∀ off, RangeTraps (.br off) [] [] fun s => some (target s off)) ∧
  (∀ off, RangeTraps (.call off) [62] [] fun s => some (target s off)) ∧
  (∀ k neg off, RangeTraps (.bc k neg off) [] [k] fun s => if s.myCore.creg k != neg then some (target s off) else none) ∧
  (∀ a, RangeTraps (.jmpr a) [a] [] fun s => some (s.myCore.reg a)) ∧
  (∀ a, RangeTraps (.callr a) [a, 62] [] fun s => some (s.myCore.reg a)) ∧
  RangeTraps .ret [62] [] (fun s => some (s.myCore.reg 62)) ∧
  (let idle (s : State) : Bool := (s.myCore.getEng .arith).queue = [] && (s.myCore.getEng .arith).inflight = []
  ∀ off, RangeTraps (.ubz off) [] [] (fun s => if idle s && s.myCore.m0 = 0 then some (target s off) else none) ∧
    RangeTraps (.ubnz off) [] [] (fun s => if idle s && s.myCore.m0 != 0 then some (target s off) else none)) ∧
  (let skips (s : State) (lv a : Nat) : Bool := !s.myCore.inh && s.myCore.loops.nestOk lv && a % 2 ^ 32 = 0
  ∀ lv a off, RangeTraps (.loop lv a off) [a] [] (fun s =>
      if skips s lv.toNat (s.myCore.reg a).toNat then some (target s off + 8) else none) ∧
    ∀ nst, RangeTraps (.ploop lv a nst off) [a] [] fun s =>
      if skips s lv.toNat (s.myCore.reg a).toNat && s.myCore.phase = .kernel && lv != 0 then some (target s off + 8) else none) ∧
  (∀ lv off, RangeTraps (.lend lv off) [] [] fun s =>
    if !s.myCore.inh && s.myCore.loops.inner = some lv.toNat && goesOn s.myCore.loops lv.toNat then some (target s off) else none) ∧
  (∀ lv off, RangeTraps (.lbrk lv off) [] [] fun s =>
    let x := s.myCore.loops.get lv.toNat
    if !s.myCore.inh && x.active && !x.pipelined && !(s.myCore.phase = .kernel && lv = 0) then some (target s off) else none)) ∧
  (AccessTraps .ldb 1 ∧ AccessTraps .ldh 2 ∧ AccessTraps .ldw 4 ∧ AccessTraps .ldd 8 ∧ AccessTraps .ldbn 1 ∧ AccessTraps .ldhn 2 ∧
  AccessTraps .ldwn 4 ∧ AccessTraps .stb 1 ∧ AccessTraps .sth 2 ∧ AccessTraps .stw 4 ∧ AccessTraps .std 8) ∧
  (AtomicTraps .aadd ∧ AtomicTraps .aand ∧ AtomicTraps .aor ∧ AtomicTraps .axor ∧ AtomicTraps .amin ∧ AtomicTraps .amax ∧
  AtomicTraps .aminn ∧ AtomicTraps .amaxn ∧ AtomicTraps .axchg ∧
  (∀ q w64 sc o d a b e, AddressTraps (.acas q w64 sc o d a b e) q [d, a, b, e] (fun c => c.reg a) (if w64 then 8 else 4)) ∧
  (∀ q sc o d a b, AddressTraps (.afadd q sc o d a b) q [d, a, b] (fun c => c.reg a) 4))

/-! ## Control transfers and loops -/

/-- R109 to R112: where the branches, calls and returns go, and what the calls write; the mask branches, with the arithmetic
queue empty, read the top of the mask stack. -/
def Obligations.BranchResults : Prop :=
  (∀ off (s : State), codeOk (target s off) = true →
    exec (.br off) s = .next (s.updMe (·.goto (target s off)))) ∧
  (∀ off (s : State), s.myCore.ready [62] [] = true → codeOk (target s off) = true →
    exec (.call off) s = .next (s.updMe fun c => (c.setReg 62 (c.pc + 8)).goto (target s off))) ∧
  (∀ k neg (off : BitVec 32), Goes (.bc k neg off) [] [k]
    (fun c => if c.creg k != neg then c.pc + (off.signExtend 64 <<< 3) else c.pc + 8) id) ∧
  (∀ a, Goes (.jmpr a) [a] [] (fun c => c.reg a) id) ∧
  (∀ a, Goes (.callr a) [a, 62] [] (fun c => c.reg a) fun c => c.setReg 62 (c.pc + 8)) ∧
  Goes .ret [62] [] (fun c => c.reg 62) id ∧
  (∀ off (s : State), (s.myCore.getEng .arith).queue = [] → (s.myCore.getEng .arith).inflight = [] →
    let z : Word := if s.myCore.m0 = 0 then target s off else s.myCore.pc + 8
    let n : Word := if s.myCore.m0 = 0 then s.myCore.pc + 8 else target s off
    (codeOk z = true → Follows s z 0 → exec (.ubz off) s = .next (s.updMe (·.goto z))) ∧
    (codeOk n = true → Follows s n 0 → exec (.ubnz off) s = .next (s.updMe (·.goto n))))

/-- R24, R25, R115 to R118, R346: LOOP and PLOOP open a level, or skip the body when the trip count is 0; LEND goes back, a
pipelined level shifting its stage window, or closes the level; LBRK leaves the levels or, on a pipelined level and on the
kernel's l0, marks the break. LEND of the kernel's l0 adopts the power mode, and when it closes the kernel phase ends: the
core goes on to its epilogue, or its part ends. -/
def Obligations.LoopResults : Prop :=
  (∀ lv a off (s : State), s.myCore.ready [a] [] = true → s.myCore.inh = false → s.myCore.loops.nestOk lv.toNat = true →
    let n := (s.myCore.reg a).extractLsb' 0 32
    (n ≠ 0 → Follows s (s.myCore.pc + 8) n →
      exec (.loop lv a off) s = .next (s.updMe fun c => ((withLoops c (c.loops.set lv.toNat ⟨true, n, 0, c.pc + 8, false, false, true⟩)).goto (c.pc + 8)))) ∧
    (n = 0 → codeOk (target s off + 8) = true → Follows s (target s off + 8) 0 →
      exec (.loop lv a off) s = .next (s.updMe (·.goto (target s off + 8))))) ∧
  (∀ lv a nst off (s : State), s.myCore.ready [a] [] = true → s.myCore.inh = false → lv ≠ 0 → s.myCore.phase = .kernel →
    s.myCore.loops.nestOk lv.toNat = true →
    let n := (s.myCore.reg a).extractLsb' 0 32
    (n ≠ 0 → Follows s (s.myCore.pc + 8) n →
      exec (.ploop lv a nst off) s = .next (s.updMe fun c => ((withLoops c ({ (c.loops.set lv.toNat ⟨true, n, 0, c.pc + 8, false, true, true⟩) with sp := 1, nst := nst })).goto (c.pc + 8)))) ∧
    (n = 0 → codeOk (target s off + 8) = true → Follows s (target s off + 8) 0 →
      exec (.ploop lv a nst off) s = .next (s.updMe (·.goto (target s off + 8))))) ∧
  (∀ lv off (s : State), s.myCore.inh = false → s.myCore.loops.inner = some lv.toNat → (s.myCore.phase ≠ .kernel ∨ lv ≠ 0) →
    let x := s.myCore.loops.get lv.toNat
    (goesOn s.myCore.loops lv.toNat = true → codeOk (target s off) = true → Agrees s (target s off) →
      exec (.lend lv off) s = .next (s.updMe fun c => (withLoops c (nextLoops c.loops lv.toNat)).goto (target s off))) ∧
    (goesOn s.myCore.loops lv.toNat = false → Agrees s (s.myCore.pc + 8) →
      (x.pipelined = false → exec (.lend lv off) s = .next (s.updMe fun c =>
        (withLoops c (c.loops.set lv.toNat .reset)).goto (c.pc + 8))) ∧
      (x.pipelined = true → x.opened = true → exec (.lend lv off) s = .next (s.updMe fun c =>
        (withLoops c { (c.loops.set lv.toNat .reset) with sp := 1, nst := 0 }).goto (c.pc + 8))))) ∧
  (∀ off (s : State) t, s.myCore.inh = false → s.myCore.loops.inner = some 0 → s.myCore.phase = .kernel → s.taskOf s.me = some t →
    s.cancelledAt s.me = false →
    let adopted (u : State) : Prop := (u.cluster (clusOf s.me)).mode = s.powerReq
    let keeps (u : State) : Prop := u.myCore.s = s.myCore.s ∧ u.myCore.c = s.myCore.c ∧ u.mem = s.mem
    (goesOn s.myCore.loops 0 = true → codeOk (target s off) = true → Agrees s (target s off) → s.atStop s.me = false →
      ∃ u, exec (.lend 0 off) s = .next u ∧ u.myCore.phase = .kernel ∧ u.myCore.pc = target s off ∧
        u.myCore.loops = nextLoops s.myCore.loops 0 ∧ adopted u ∧ keeps u) ∧
    (goesOn s.myCore.loops 0 = false → t.epi ≠ 0 → Agrees s t.epi →
      ∃ u, exec (.lend 0 off) s = .next u ∧ u.myCore.phase = .epilogue ∧ u.myCore.pc = t.epi ∧ u.myCore.phaseStart = s.cycle ∧
        (u.myCore.loops.get 0).active = false ∧ u.myCore.loops.sp = 0 ∧ adopted u ∧ keeps u) ∧
    (goesOn s.myCore.loops 0 = false → t.epi = 0 →
      ∃ u, exec (.lend 0 off) s = .next u ∧ u.myCore.phase = .ended ∧ u.myCore.loops.sp = 0 ∧ adopted u)) ∧
  (∀ lv off (s : State), s.myCore.inh = false → (s.myCore.loops.get lv.toNat).active = true →
    let x := s.myCore.loops.get lv.toNat
    (x.pipelined = true ∨ (s.myCore.phase = .kernel ∧ lv = 0) → Agrees s (s.myCore.pc + 8) →
      exec (.lbrk lv off) s = .next (s.updMe fun c =>
        (withLoops c (c.loops.set lv.toNat { c.loops.get lv.toNat with brk := true })).goto (c.pc + 8))) ∧
    (x.pipelined = false → (s.myCore.phase ≠ .kernel ∨ lv ≠ 0) → codeOk (target s off) = true → Agrees s (target s off) →
      ∃ t, exec (.lbrk lv off) s = .next t ∧ t.myCore.pc = target s off ∧
        (∀ v, lv.toNat ≤ v → v < 6 → (t.myCore.loops.get v).active = false) ∧
        (∀ v, v < lv.toNat → t.myCore.loops.get v = s.myCore.loops.get v) ∧
        (t.myCore.loops.sp, t.myCore.loops.nst) =
          (if ((List.range 6).any fun v => decide (lv.toNat ≤ v) && (s.myCore.loops.get v).active && (s.myCore.loops.get v).pipelined) = true
            then (1, 0) else (s.myCore.loops.sp, s.myCore.loops.nst)) ∧
        t.myCore.s = s.myCore.s ∧ t.mem = s.mem))

/-- R24, R120 to R124: NOP only passes; DETQ reads the attachment; EXIT in the prologue of a task with iterations enters the
kernel with l0 armed, that of one without iterations the epilogue; where no phase follows, or a cancel token has arrived, the
part ends, and where a halt takes effect at the EXIT the core halts with its queues drained. In handler mode, in the kernel
and inside a loop EXIT faults. JOIN returns at once with c1 false outside a sixteen-core set and with c1 true when attached; a
detached core attaches with c1 true after the JOIN word, which restarts an idle Quadrille, or after the oldest entry of the
window that holds the word; with the word in the history or past the deadline it stays detached with c1 false, and it waits
otherwise. The loop state of a restarted Quadrille is the model's choice (assumption 71). That a halt at an EXIT waits for the
queues, and that a core ends its part in one step, are the model's readings (assumptions 47 and 54). That a word or an event
that waits, or whose condition does not hold, leaves the state as it was is the model's reading (assumption 15). -/
def Obligations.PhaseWords : Prop :=
  (∀ s : State, exec .nop s = .next (s.updMe Core.advance)) ∧
  (∀ d (s : State), s.myCore.ready [d] [] = true →
    exec (.detq d) s = .next (s.updMe fun c => (c.setReg d (detqWord s s.me)).advance)) ∧
  (∀ (s : State) (t : Task), s.myCore.inh = false → s.myCore.phase = .prologue → s.myCore.loops.inner = none →
    s.haltAtExit s.me = false → s.cancelledAt s.me = false → s.taskOf s.me = some t → t.trip ≠ 0 →
    ∃ u, exec .exit s = .next u ∧ u.myCore.phase = .kernel ∧ u.myCore.pc = t.kern ∧
      u.myCore.loops.get 0 = ⟨true, t.trip, 0, t.kern, false, t.nst != 0, false⟩ ∧ u.myCore.loops.sp = 1 ∧
      u.myCore.s = s.myCore.s ∧ u.mem = s.mem) ∧
  (∀ (s : State) (t : Task), s.myCore.inh = false → s.myCore.phase ≠ .kernel → s.myCore.loops.inner = none → s.taskOf s.me = some t →
    (s.haltAtExit s.me = true →
      (s.myCore.drained = false → exec .exit s = .next s) ∧
      (s.myCore.drained = true → ∃ u, exec .exit s = .next u ∧ u.myCore.halted = true ∧ u.myCore.phase = s.myCore.phase ∧
        u.myCore.pc = s.myCore.pc ∧ u.myCore.smb = [])) ∧
    (s.haltAtExit s.me = false → s.cancelledAt s.me = false → s.myCore.phase = .prologue → t.trip = 0 → t.epi ≠ 0 →
      ∃ u, exec .exit s = .next u ∧ u.myCore.phase = .epilogue ∧ u.myCore.pc = t.epi ∧ u.myCore.phaseStart = s.cycle ∧
        u.myCore.s = s.myCore.s ∧ u.mem = s.mem) ∧
    (s.haltAtExit s.me = false →
      s.cancelledAt s.me = true ∨ s.myCore.phase = .epilogue ∨ (s.myCore.phase = .prologue ∧ t.trip = 0 ∧ t.epi = 0) →
      ∃ u, exec .exit s = .next u ∧ u.myCore.phase = .ended ∧ u.myCore.att = false ∧ u.myCore.inh = false ∧ u.myCore.smb = [] ∧
        u.myCore.staging = [] ∧ (s.myCore.smb = [] → s.myCore.out = [] → u.mem = s.mem))) ∧
  (∀ s : State, (s.myCore.inh = true → exec .exit s = .next (s.raise s.me none { cause := cHEXIT })) ∧
    (s.myCore.inh = false → s.myCore.phase = .kernel → exec .exit s = .next (s.raise s.me none { cause := cKERNEXIT })) ∧
    (s.myCore.inh = false → s.myCore.phase ≠ .kernel → s.myCore.loops.inner ≠ none →
      exec .exit s = .next (s.raise s.me none { cause := cLOOPNEST }))) ∧
  (∀ tag (s : State), s.myCore.ready [] [1] = true → (s.myCore.inh = true ∨ s.inSixteen s.me = false) →
    ∃ u, exec (.join tag) s = .next u ∧ u.myCore = { (s.myCore.setCreg 1 false).advance with wait := none } ∧ u.mem = s.mem) ∧
  (∀ tag (s : State), s.myCore.ready [] [1] = true → s.myCore.inh = false → s.inSixteen s.me = true → s.myCore.att = true →
    ∃ u, exec (.join tag) s = .next u ∧ u.myCore = { (s.myCore.setCreg 1 true).advance with wait := none } ∧ u.mem = s.mem) ∧
  (∀ tag (s : State), s.myCore.ready [] [1] = true → s.myCore.inh = false → s.inSixteen s.me = true → s.myCore.att = false →
    let q := (s.cluster (clusOf s.me)).quad
    let due := match s.myCore.wait with
      | some (.join _ d) => d
      | _ => s.cycle + s.myCore.joinTimeout.toNat
    let here (e : WinEntry) : Bool := e.pc = s.myCore.pc && e.word = joinWord tag
    let attached (u : State) (p : Nat) : Prop := u.myCore.att = true ∧ u.myCore.qpos = p + 1 ∧ u.myCore.creg 1 = true ∧
      u.myCore.pc = s.myCore.pc + 8 ∧ u.myCore.wait = none ∧ u.myCore.s = s.myCore.s ∧ u.mem = s.mem
    (q.run = .idle → ∃ u, exec (.join tag) s = .next u ∧ attached u 0 ∧
      let r := (u.cluster (clusOf s.me)).quad
      r.run = .running ∧ r.base = 0 ∧ r.win.map (fun e => (e.pc, e.word)) = [(s.myCore.pc, joinWord tag)] ∧ r.hist = [] ∧
        r.dpc = s.myCore.pc + 8 ∧ r.loops = s.myCore.loops) ∧
    (∀ n, q.run ≠ .idle → q.win.findIdx? here = some n →
      ∃ u, exec (.join tag) s = .next u ∧ attached u (q.base + n) ∧ (u.cluster (clusOf s.me)).quad = q) ∧
    (q.run ≠ .idle → q.win.findIdx? here = none →
      ((s.myCore.pc, tag) ∈ q.hist ∨ due ≤ s.cycle →
        ∃ u, exec (.join tag) s = .next u ∧ u.myCore = { (s.myCore.setCreg 1 false).advance with wait := none } ∧ u.mem = s.mem) ∧
      ((s.myCore.pc, tag) ∉ q.hist → s.cycle < due →
        exec (.join tag) s = .next (s.updMe fun c => { c with wait := some (.join tag due) }))))

/-! ## Memory -/

/-- R195, R202, R211 to R213: the scalar loads and stores. When each access performs is the model's choice (assumption 16). -/
def Obligations.LoadsAndStores : Prop :=
  (LoadWord .ldb 1 false ∧ LoadWord .ldh 2 false ∧ LoadWord .ldw 4 false ∧ LoadWord .ldd 8 true ∧
  LoadWord .ldbn 1 true ∧ LoadWord .ldhn 2 true ∧ LoadWord .ldwn 4 true) ∧
  (StoreWord .stb 1 ∧ StoreWord .sth 2 ∧ StoreWord .stw 4 ∧ StoreWord .std 8)

/-- R214 to R216: the atomics. When an atomic performs is the model's choice (assumption 16). -/
def Obligations.AtomicResults : Prop :=
  AtomicWord .aadd (fun n x y => (x + y) % 2 ^ n) ∧ AtomicWord .aand (fun _ x y => x &&& y) ∧
  AtomicWord .aor (fun _ x y => x ||| y) ∧ AtomicWord .axor (fun _ x y => x ^^^ y) ∧
  AtomicWord .amin (fun n x y => if signedOf n x ≤ signedOf n y then x else y) ∧
  AtomicWord .amax (fun n x y => if signedOf n y ≤ signedOf n x then x else y) ∧
  AtomicWord .aminn (fun _ x y => if x ≤ y then x else y) ∧ AtomicWord .amaxn (fun _ x y => if x ≤ y then y else x) ∧
  AtomicWord .axchg (fun _ _ y => y) ∧
  (∀ q w64 sc o d a b e, AtomicAt (.acas q w64 sc o d a b e) (if w64 then 8 else 4) o d a b [e] q
    fun c x y => if x = y then some ((c.reg e).toNat % 2 ^ (if w64 then 64 else 32)) else none) ∧
  (∀ q sc o d a b, AtomicAt (.afadd q sc o d a b) 4 o d a b [] q fun _ x y => some (fAdd fmtF32 .rne false x y).1)

/-- R196, R198, R201: FENCE with nothing older outstanding: a release beyond .near leaves the store-merge buffer empty, an
acquire the staging. R218: WAITA returns at once when the word differs from what it expects; otherwise, unless its timeout is
0, .rlx arms a monitor and goes on, and .acq waits on it, with the timeout counted from the cycle of issue. -/
def Obligations.FenceAndWaita : Prop :=
  (∀ q sc o (s : State), Fires q [] [] s → s.myCore.settled = true → s.myCore.loadsDone = true →
    (ordReleases o = true → sc ≠ .near → s.myCore.smb = []) →
    ∃ t, exec (.fence q sc o) s = .next t ∧ Moved s.myCore t.myCore ∧ t.mem = s.mem ∧
      (ordReleases o = true → sc ≠ .near → t.myCore.smb = []) ∧ (ordAcquires o = true → t.myCore.staging = []) ∧
      (ordAcquires o = false → t.myCore.staging = s.myCore.staging)) ∧
  (∀ q sc o d a b e (s : State) loc, Fires q [d, a, b, e] [] s → Reaches s .both (s.myCore.reg a) 8 loc →
    s.myCore.monitors.toArray.getD 0 none = none → s.myCore.smb = [] → (o = .rlx ∨ o = .acq) →
    s.interrupted s.me = false →
    let x := bytesWord (s.homeBytes loc 8)
    (x ≠ s.myCore.reg b ∨ s.myCore.reg e = 0 →
      ∃ t, exec (.waita q sc o d a b e) s = .next t ∧ MovedTo s.myCore t.myCore d x ∧ t.mem = s.mem ∧
        (o = .acq → t.myCore.staging = [])) ∧
    (x = s.myCore.reg b → s.myCore.reg e ≠ 0 →
      ∃ t y, exec (.waita q sc o d a b e) s = .next t ∧ t.myCore.monitors.toArray.getD 0 none = some y ∧ y.loc = loc ∧
        y.expect = s.myCore.reg b ∧ y.d = d ∧ y.scope = sc ∧
        y.deadline = (if s.myCore.reg e = BitVec.allOnes 64 then none else some (s.cycle + (s.myCore.reg e).toNat)) ∧ (∀ r, t.myCore.reg r = s.myCore.reg r) ∧ t.mem = s.mem ∧
        (o = .rlx → t.myCore.pc = s.myCore.pc + 8) ∧
        (o = .acq → t.myCore.pc = s.myCore.pc ∧ t.myCore.wait = some (.waita 0))))

/-- R113, R195, R196, R202, R213, R218, R219, R401: the events that complete a core's accesses, its waits and its fetches.
When an access performs between issue and completion, and that the oldest staging entry goes, are the model's choices
(assumptions 7 and 16), and so is that strong stores still to perform at a granule perform before its entry drains (assumption
75). -/
def Obligations.CompletionEvents : Prop :=
  (∀ (s : State) g d sh v rest, s.arg = .unit g → (s.core g).out = .load d sh v :: rest →
    ∃ t, exec .loadResponse s = .next t ∧ t.core g = ({ s.core g with out := rest } : Core).putBank sh d v ∧ t.mem = s.mem) ∧
  (∀ (s : State) g d sh v rest, s.arg = .unit g → (s.core g).out = .atomic d sh v :: rest →
    ∃ t, exec .homeAcknowledgement s = .next t ∧ t.core g = ({ s.core g with out := rest } : Core).putBank sh d v ∧
      t.mem = s.mem) ∧
  (∀ (s : State) g loc bytes va rest, s.arg = .unit g → (s.core g).out = .store loc bytes va :: rest →
    ∃ t, exec .homeAcknowledgement s = .next t ∧ (t.core g).out = rest ∧ t.mem = memWrite s.mem loc bytes) ∧
  (∀ (s : State) g e es, s.arg = .unit g → (s.core g).smb = e :: es → (∀ x ∈ e :: es, x.draining = false) →
    ∃ t, exec .smbDrainStart s = .next t ∧ (t.core g).smb = { e with draining := true } :: es ∧ t.mem = s.mem) ∧
  (∀ (s : State) g e, s.mem.wf = true → s.arg = .unit g → (s.core g).smb = [e] →
    let drained (t : State) (m : Memory) : Prop := (t.core g).smb = [] ∧ ∀ i, i < 64 → memGet t.mem (64 * e.gran + i) =
      if e.mask.getLsbD i then gByte e.bytes i else memGet m (64 * e.gran + i)
    (outTouches (s.core g).out (64 * e.gran) 64 = false → ∃ t, exec .smbDrainComplete s = .next t ∧ drained t s.mem) ∧
    (∀ loc bytes va, (s.core g).out = [.store loc bytes va] → outTouches (s.core g).out (64 * e.gran) 64 = true →
      ∃ t, exec .smbDrainComplete s = .next t ∧ (t.core g).out = [] ∧ drained t (memWrite s.mem loc bytes))) ∧
  (∀ (s : State) g, s.arg = .unit g →
    ∃ t, exec .stagingExpire s = .next t ∧ (t.core g).staging = (s.core g).staging.drop 1 ∧ t.mem = s.mem) ∧
  (∀ (s : State) g m sp x, s.arg = .wake g m sp → m < 4 → (s.core g).monitors.toArray.getD m none = some x →
    bytesWord (s.coreBytes g x.loc 8) ≠ x.expect →
    ∃ t, exec .monitorWake s = .next t ∧ (t.core g).monitors.toArray.getD m none = none ∧ t.mem = s.mem ∧
      (x.d ≠ 0 → x.shadow = (s.core g).inh → (t.core g).reg x.d = bytesWord (s.coreBytes g x.loc 8))) ∧
  (∀ (s : State) g m x dl, s.arg = .pair g m → m < 4 → (s.core g).monitors.toArray.getD m none = some x →
    x.deadline = some dl → dl ≤ s.cycle →
    ∃ t, exec .waitaTimeout s = .next t ∧ (t.core g).monitors.toArray.getD m none = none ∧ t.mem = s.mem ∧
      (x.d ≠ 0 → x.shadow = (s.core g).inh → (t.core g).reg x.d = bytesWord (s.coreBytes g x.loc 8))) ∧
  (∀ (s : State) g l, s.arg = .pair g l → (s.core g).refills.contains l = true →
    ∃ t, exec .lineRefill s = .next t ∧ t.mem = s.mem ∧
      (l, granOf (s.homeBytes (clusLoc (clusOf g) + 64 * l) 64)) ∈ (t.core g).lines ∧ l ∉ (t.core g).refills)

/-! ## Flags, rings, barriers -/

/-- R221 to R224, R401: with the flag named and nothing outstanding, FSIG adds and FSET writes s(B) at the flag's home and
s(D) takes the old value; FREAD and a satisfied FWAIT read it; an FWAIT that is not satisfied waits, and returns the flag's
value when the target is reached or its deadline has passed. That a word or an event that waits, or whose condition does not
hold, leaves the state as it was is the model's reading (assumption 15). -/
def Obligations.FlagResults : Prop :=
  ((∀ q die d a b obj (s : State) home n, Fires q [a, d, b] [] s → Quiet s.myCore →
    s.flagName s.me die (s.myCore.reg a + obj.setWidth 64) = some (home, n) →
    let old := s.flagAt (s.partOf s.me) die home n
    (∃ t, exec (.fsig q die d a b obj) s = .next t ∧
      t.flagAt (s.partOf s.me) die home n = old + (s.myCore.reg b).setWidth 32 ∧
      MovedTo s.myCore t.myCore d (old.setWidth 64) ∧ t.mem = s.mem) ∧
    (∃ t, exec (.fset q die d a b obj) s = .next t ∧
      t.flagAt (s.partOf s.me) die home n = (s.myCore.reg b).setWidth 32 ∧
      MovedTo s.myCore t.myCore d (old.setWidth 64) ∧ t.mem = s.mem)) ∧
  (∀ q die d a obj (s : State) home n, Fires q [a, d] [] s →
    s.flagName s.me die (s.myCore.reg a + obj.setWidth 64) = some (home, n) →
    ∃ t, exec (.fread q die d a obj) s = .next t ∧
      MovedTo s.myCore t.myCore d ((s.flagAt (s.partOf s.me) die home n).setWidth 64) ∧
      t.myCore.staging = [] ∧ t.mem = s.mem) ∧
  (∀ q die d a b obj e (s : State) home n, Fires q [a, d, b] [] s → s.interrupted s.me = false →
    s.flagName s.me die (s.myCore.reg a + obj.setWidth 64) = some (home, n) →
    let v := s.flagAt (s.partOf s.me) die home n
    let target : BitVec 32 := (s.myCore.reg b).setWidth 32
    ((v - target).toNat < 2 ^ 31 →
      ∃ t, exec (.fwait q die d a b obj e) s = .next t ∧ MovedTo s.myCore t.myCore d (v.setWidth 64) ∧
        t.myCore.staging = [] ∧ t.mem = s.mem) ∧
    (2 ^ 31 ≤ (v - target).toNat →
      ∃ t, exec (.fwait q die d a b obj e) s = .next t ∧ t.myCore.pc = s.myCore.pc ∧ t.mem = s.mem ∧
        t.myCore.wait = some (.fwait die home n target s.cycle
          (if e = 0xFF then none else some (s.cycle + 2 ^ e.toNat)) d 0)))) ∧
  (∀ (s : State) g die home f tgt iss dl d ag, s.arg = .unit g →
    (s.core g).wait = some (.fwait die home f tgt iss dl d ag) →
    let v := s.flagAt (s.partOf g) die home f
    let returns (u : State) : Prop := (u.core g).wait = none ∧ (u.core g).pc = (s.core g).pc + 8 ∧
      (d ≠ 0 → (u.core g).reg d = v.setWidth 64) ∧ (∀ r, r ≠ d → (u.core g).reg r = (s.core g).reg r) ∧ u.mem = s.mem
    ((v - tgt).toNat < 2 ^ 31 → ∃ u, exec .flagWaitReturn s = .next u ∧ returns u) ∧
    (2 ^ 31 ≤ (v - tgt).toNat → exec .flagWaitReturn s = .next s) ∧
    (∀ x, dl = some x → x ≤ s.cycle → ∃ u, exec .fwaitTimeout s = .next u ∧ returns u))

/-- R226 to R229, R401: RCLM claims a slot and RWF takes one, or they wait; RPUB and RREL give one back; RINFO reads the
counters. A waiting RCLM returns a claimed slot when one is free, a waiting RWF a published one, and both return 0 when their
deadline has passed. -/
def Obligations.RingResults : Prop :=
  ((∀ q d a ring e (s : State) k, Fires q [d, a] [] s → s.ringName s.me (s.myCore.reg a) ring.toNat = some k →
    s.interrupted s.me = false →
    let r := s.ring k ring.toNat
    ((r.claimed - r.head).toNat < r.count.toNat →
      ∃ t, exec (.rclm q d a ring e) s = .next t ∧ t.ring k ring.toNat = { r with claimed := r.claimed + 1 } ∧
        MovedTo s.myCore t.myCore d (BitVec.ofNat 64 (r.slotVa k (clusOf s.me) (r.claimed.toNat % r.count.toNat))) ∧
        t.myCore.staging = [] ∧ t.mem = s.mem) ∧
    (r.count.toNat ≤ (r.claimed - r.head).toNat →
      ∃ t, exec (.rclm q d a ring e) s = .next t ∧ t.myCore.pc = s.myCore.pc ∧ t.mem = s.mem ∧
        t.myCore.wait = some (.rclm k ring.toNat (if e = 0xFF then none else some (s.cycle + 2 ^ e.toNat)) d)) ∧
    (r.taken ≠ r.tail →
      ∃ t, exec (.rwf q d a ring e) s = .next t ∧ t.ring k ring.toNat = { r with taken := r.taken + 1 } ∧
        MovedTo s.myCore t.myCore d (BitVec.ofNat 64 (r.slotVa k (clusOf s.me) (r.taken.toNat % r.count.toNat))) ∧
        t.myCore.staging = [] ∧ t.mem = s.mem) ∧
    (r.taken = r.tail →
      ∃ t, exec (.rwf q d a ring e) s = .next t ∧ t.myCore.pc = s.myCore.pc ∧ t.mem = s.mem ∧
        t.myCore.wait = some (.rwf k ring.toNat (if e = 0xFF then none else some (s.cycle + 2 ^ e.toNat)) d))) ∧
  (∀ q d a ring (s : State) k i, Fires q [d, a] [] s → s.ringName s.me (s.myCore.reg a) ring.toNat = some k →
    Quiet s.myCore → (s.ring k ring.toNat).slotOf k (clusOf s.me) (s.myCore.reg d).toNat = some i →
    (∀ r', (s.ring k ring.toNat).publish i = some r' →
      ∃ t, exec (.rpub q d a ring) s = .next t ∧ t.ring k ring.toNat = r' ∧ Moved s.myCore t.myCore ∧ t.mem = s.mem) ∧
    (∀ r', (s.ring k ring.toNat).release i = some r' →
      ∃ t, exec (.rrel q d a ring) s = .next t ∧ t.ring k ring.toNat = r' ∧ Moved s.myCore t.myCore ∧ t.mem = s.mem)) ∧
  (∀ q d a ring (s : State) k, Fires q [d, a] [] s → s.ringName s.me (s.myCore.reg a) ring.toNat = some k →
    let r := s.ring k ring.toNat
    ∃ t, exec (.rinfo q d a ring) s = .next t ∧ t.mem = s.mem ∧
      MovedTo s.myCore t.myCore d (r.claimed.extractLsb' 0 16 ++ r.tail.extractLsb' 0 16 ++ r.taken.extractLsb' 0 16 ++
        r.head.extractLsb' 0 16))) ∧
  (∀ (s : State) g k n dl d, s.arg = .unit g →
    let r := s.ring k n
    let free : Bool := (r.claimed - r.head).toNat < r.count.toNat
    let returns (u : State) (v : Word) : Prop := (u.core g).wait = none ∧ (u.core g).pc = (s.core g).pc + 8 ∧
      (d ≠ 0 → (u.core g).reg d = v) ∧ (∀ x, x ≠ d → (u.core g).reg x = (s.core g).reg x) ∧ u.mem = s.mem
    ((s.core g).wait = some (.rclm k n dl d) →
      (free = true → ∃ u, exec .ringWaitReturn s = .next u ∧
        returns u (BitVec.ofNat 64 (r.slotVa k (clusOf g) (r.claimed.toNat % r.count.toNat)))) ∧
      (free = false → ∀ x, dl = some x → x ≤ s.cycle → ∃ u, exec .ringWaitTimeout s = .next u ∧ returns u 0)) ∧
    ((s.core g).wait = some (.rwf k n dl d) →
      (r.taken ≠ r.tail → ∃ u, exec .ringWaitReturn s = .next u ∧
        returns u (BitVec.ofNat 64 (r.slotVa k (clusOf g) (r.taken.toNat % r.count.toNat)))) ∧
      (r.taken = r.tail → ∀ x, dl = some x → x ≤ s.cycle → ∃ u, exec .ringWaitTimeout s = .next u ∧ returns u 0)))

/-- R226, R228: claiming, publishing, taking and releasing keep HEAD, TAKEN, TAIL and CLAIMED of a ring in order within one
lap of COUNT slots. R232: a barrier's arrival marks the core in the current phase, or in the next one when it has arrived
already; a third arrival is BARTHIRD; when as many have arrived as are expected the phase number advances and the arrivals for
the next phase become those of the current one. -/
def Obligations.CountersInOrder : Prop :=
  (let ok (r : Ring) : Prop := (r.taken - r.head).toNat ≤ (r.tail - r.head).toNat ∧
    (r.tail - r.head).toNat ≤ (r.claimed - r.head).toNat ∧ (r.claimed - r.head).toNat ≤ r.count.toNat
  ∀ r : Ring, ok r → (∀ x, r.claim = some x → ok x.2) ∧ (∀ x, r.take = some x → ok x.2) ∧
    (∀ i r', r.publish i = some r' → ok r') ∧ (∀ i r', r.release i = some r' → ok r')) ∧
  (∀ (b : Barrier) (i : Nat), i < 16 → b.valid = true →
    (b.cur.getLsbD i = false → (b.cur ||| (1#16 <<< i)).cpop.toNat < b.exp.toNat →
      b.arrive i = .ok { b with cur := b.cur ||| (1#16 <<< i), mem := b.mem ||| (1#16 <<< i) }) ∧
    (b.cur.getLsbD i = false → b.exp.toNat ≤ (b.cur ||| (1#16 <<< i)).cpop.toNat → b.nxt = 0 →
      b.arrive i = .ok { b with cur := 0, nxt := 0, mem := b.mem ||| (1#16 <<< i), exp := b.expl, phase := b.phase + 1 }) ∧
    (b.cur.getLsbD i = false → b.exp.toNat ≤ (b.cur ||| (1#16 <<< i)).cpop.toNat → b.nxt ≠ 0 → b.nxt.cpop.toNat < b.expl.toNat →
      b.arrive i = .ok { b with cur := b.nxt, nxt := 0, mem := b.mem ||| (1#16 <<< i), exp := b.expl, phase := b.phase + 1 }) ∧
    (b.cur.getLsbD i = false → b.exp.toNat ≤ (b.cur ||| (1#16 <<< i)).cpop.toNat → b.nxt ≠ 0 → b.expl.toNat ≤ b.nxt.cpop.toNat →
      b.arrive i = .ok { b with cur := 0, nxt := 0, mem := b.mem ||| (1#16 <<< i), exp := b.expl, phase := b.phase + 2 }) ∧
    (b.cur.getLsbD i = true → b.nxt.getLsbD i = false → b.cur.cpop.toNat < b.exp.toNat →
      b.arrive i = .ok { b with nxt := b.nxt ||| (1#16 <<< i) }) ∧
    (b.cur.getLsbD i = true → b.nxt.getLsbD i = true → b.arrive i = .error cBARTHIRD))

/-- R231 to R235: BINIT sets up a barrier that is not valid or has no arrival open, and raises BARBUSY at another; BARA and
BARW arrive, or raise BARINIT and BARTHIRD; BARQ reads the status, and TKQ the fill of a token queue. The step that completes
a phase fixes what each waiting BARW of it returns, and BARRIER_WAIT_RETURN delivers that. -/
def Obligations.BarrierResults : Prop :=
  (∀ q b count (s : State), Fires q [] [] s → Quiet s.myCore →
    let x := s.bar (clusOf s.me) b.toNat
    let busy : Prop := x.valid = true ∧ (x.cur ≠ 0 ∨ x.nxt ≠ 0)
    (¬busy → ∃ t, exec (.binit q b count) s = .next t ∧ Moved s.myCore t.myCore ∧ t.mem = s.mem ∧
      t.bar (clusOf s.me) b.toNat =
        ⟨0, 0, 0, count.setWidth 5, count.setWidth 5, false, true, 0⟩) ∧
    (busy → exec (.binit q b count) s = .next ((released s).raise s.me none { cause := cBARBUSY, aux := b.toNat }))) ∧
  (∀ q d b (s : State), Fires q [d] [] s → Quiet s.myCore →
    let x := s.bar (clusOf s.me) b.toNat
    let traps (i : Instr) (cause : Nat) : Prop := exec i s = .next ((released s).raise s.me none { cause := cause, aux := b.toNat })
    (x.valid = false → traps (.bara q d b) cBARINIT ∧ (s.myCore.ready [d] [1] = true → traps (.barw q d b) cBARINIT)) ∧
    (x.valid = true → x.cur.getLsbD (s.me % 16) = true → x.nxt.getLsbD (s.me % 16) = true →
      traps (.bara q d b) cBARTHIRD ∧ (s.myCore.ready [d] [1] = true → traps (.barw q d b) cBARTHIRD))) ∧
  (∀ q d b (s : State) x, Fires q [d] [] s → Quiet s.myCore →
    (s.bar (clusOf s.me) b.toNat).arrive (s.me % 16) = .ok x →
    ∃ t, exec (.bara q d b) s = .next t ∧ MovedTo s.myCore t.myCore d (x.status (s.me % 16) false) ∧
      t.bar (clusOf s.me) b.toNat = x ∧ Releases s t b.toNat x ∧ t.mem = s.mem) ∧
  (∀ q d b (s : State) x, Fires q [d] [1] s → Quiet s.myCore →
    (s.bar (clusOf s.me) b.toNat).arrive (s.me % 16) = .ok x →
    ∃ t, exec (.barw q d b) s = .next t ∧ t.bar (clusOf s.me) b.toNat = x ∧ Releases s t b.toNat x ∧ t.mem = s.mem ∧
      let returns (early : Bool) : Prop := (d ≠ 0 → t.myCore.reg d = x.status (s.me % 16) early) ∧
        (∀ r, r ≠ d → t.myCore.reg r = s.myCore.reg r) ∧ t.myCore.creg 1 = x.lost ∧
        (∀ k, k ≠ 1 → t.myCore.creg k = s.myCore.creg k) ∧ t.myCore.pc = s.myCore.pc + 8 ∧ t.myCore.staging = []
      (x.doneFor (s.me % 16) = true → returns false) ∧
      (x.doneFor (s.me % 16) = false → s.interrupted s.me = true → returns true) ∧
      (x.doneFor (s.me % 16) = false → s.interrupted s.me = false →
        t.myCore.wait = some (.barw b.toNat d none) ∧ t.myCore.pc = s.myCore.pc)) ∧
  (∀ q d b (s : State), Fires q [d] [] s →
    ∃ t, exec (.barq q d b) s = .next t ∧ t.mem = s.mem ∧
      MovedTo s.myCore t.myCore d ((s.bar (clusOf s.me) b.toNat).status (s.me % 16) false)) ∧
  (∀ (s : State) g b d v lost, s.arg = .unit g → (s.core g).wait = some (.barw b d (some (v, lost))) →
    ∃ t, exec .barrierWaitReturn s = .next t ∧ (t.core g).wait = none ∧ (t.core g).pc = (s.core g).pc + 8 ∧
      (d ≠ 0 → (t.core g).reg d = v) ∧ (t.core g).creg 1 = lost ∧ (t.core g).staging = [] ∧ t.mem = s.mem) ∧
  (∀ q d k, Yields (.tkq q d k) q d [] [] fun c => BitVec.ofNat 64 ((c.tok k).vis + 16 * (c.tok k).res))

/-- R24, R121, R218, R243, R347: a JOIN that waited to its deadline and finds no idle Quadrille and no window entry returns c1
false. A wait that is interrupted returns: WAITA the word's value, FWAIT the flag's, RCLM and RWF 0, and BARW with EARLY
unless its phase has completed; every armed WAITA .rlx returns too. A phase, or a stay in handler mode, that has run past its
limit raises PHASETIME on the word at the pc, and interrupts a wait, whose next word is then the one that raises it. Queues
that have not drained after 65,536 cycles end the part with TOKDEAD. From when a SYSC is in progress is the model's choice
(assumption 68). That a word or an event that waits, or whose condition does not hold, leaves the state as it was is the
model's reading (assumption 15). -/
def Obligations.WaitEvents : Prop :=
  (∀ (s : State) g tag dl, s.arg = .unit g → (s.core g).wait = some (.join tag dl) → dl ≤ s.cycle → (s.core g).ready [] [1] = true →
    (s.core g).inh = false → s.inSixteen g = true → (s.core g).att = false →
    let q := (s.cluster (clusOf g)).quad
    q.run ≠ .idle → (∀ e ∈ q.win, ¬(e.pc = (s.core g).pc ∧ e.word = joinWord tag)) →
    ∃ t, exec .joinTimeout s = .next t ∧ (t.core g).wait = none ∧ (t.core g).creg 1 = false ∧
      (t.core g).pc = (s.core g).pc + 8 ∧ (t.core g).s = (s.core g).s ∧ (t.core g).att = false ∧ t.mem = s.mem) ∧
  (∀ (s : State) g tag dl, s.arg = .unit g → (s.core g).wait = some (.join tag dl) →
    (dl ≤ s.cycle → exec .joinTimeout s = exec (.join tag) { s with me := g }) ∧ (s.cycle < dl → exec .joinTimeout s = .next s)) ∧
  (∀ (s : State) g w, s.arg = .unit g → s.interrupted g = true → (s.core g).wait = some w → (∀ m ∈ (s.core g).monitors.toList, m = none) →
    let returns (t : State) (d : BitVec 6) (v : Word) : Prop := (t.core g).wait = none ∧ (t.core g).pc = (s.core g).pc + 8 ∧
      (d ≠ 0 → (t.core g).reg d = v) ∧ (∀ r, r ≠ d → (t.core g).reg r = (s.core g).reg r) ∧ t.mem = s.mem
    (∀ k n dl d, w = .rclm k n dl d ∨ w = .rwf k n dl d →
      ∃ t, exec .waitInterrupt s = .next t ∧ returns t d 0 ∧ (t.core g).c = (s.core g).c ∧ t.ring k n = s.ring k n) ∧
    (∀ die home n tgt iss dl d ag, w = .fwait die home n tgt iss dl d ag →
      ∃ t, exec .waitInterrupt s = .next t ∧ returns t d ((s.flagAt (s.partOf g) die home n).setWidth 64) ∧
        (t.core g).c = (s.core g).c ∧ (t.core g).staging = []) ∧
    (∀ b d, w = .barw b d none →
      let x := s.bar (clusOf g) b
      x.doneFor (g % 16) = false → ∃ t, exec .waitInterrupt s = .next t ∧ returns t d (x.status (g % 16) true) ∧
        (t.core g).creg 1 = x.lost ∧ (t.core g).staging = [] ∧ t.bar (clusOf g) b = x) ∧
    (∀ b d v lost, w = .barw b d (some (v, lost)) →
      ∃ t, exec .waitInterrupt s = .next t ∧ returns t d v ∧ (t.core g).creg 1 = lost ∧ (t.core g).staging = [])) ∧
  (∀ (s : State) g m x, s.arg = .unit g → s.interrupted g = true → m < 4 → (s.core g).monitors.toArray.getD m none = some x →
    (∀ k, k ≠ m → (s.core g).monitors.toArray.getD k none = none) →
    let v := bytesWord (s.coreBytes g x.loc 8)
    ((s.core g).wait = some (.waita m) →
      ∃ t, exec .waitInterrupt s = .next t ∧ (t.core g).wait = none ∧ (t.core g).pc = (s.core g).pc + 8 ∧
        (t.core g).monitors.toArray.getD m none = none ∧ (x.d ≠ 0 → x.shadow = (s.core g).inh → (t.core g).reg x.d = v) ∧
        (x.acq = true → (t.core g).staging = []) ∧ t.mem = s.mem) ∧
    ((s.core g).wait = none →
      ∃ t, exec .waitInterrupt s = .next t ∧ (t.core g).wait = none ∧ (t.core g).pc = (s.core g).pc ∧
        (t.core g).monitors.toArray.getD m none = none ∧ (x.d ≠ 0 → x.shadow = (s.core g).inh → (t.core g).reg x.d = v) ∧
        t.mem = s.mem)) ∧
  (∀ (s : State) g, s.arg = .unit g → (s.core g).running = true → (s.core g).stopped = false → (s.core g).halted = false →
    (s.core g).pend = none →
    (((s.core g).phase = .prologue ∨ (s.core g).phase = .epilogue) ∧ (s.core g).phaseStart + 65536 < s.cycle) ∨
      ((s.core g).inh = true ∧ (s.core g).hndStart + 65536 < s.cycle) ∨ (s.core g).phaseDue = true →
    ((s.core g).wait = none → exec .phasetimeExpiry s = .next (s.raise g none { cause := cPHASETIME })) ∧
    (∀ i, (s.core g).wait = some (.sysc i) → exec .phasetimeExpiry s = .next s) ∧
    (∀ tag dl, (s.core g).wait = some (.join tag dl) →
      exec .phasetimeExpiry s = .next ((s.updCore g fun c => { c with wait := none }).raise g none { cause := cPHASETIME })) ∧
    (∀ w, (s.core g).wait = some w → (∀ i, w ≠ .sysc i) → (∀ tag dl, w ≠ .join tag dl) →
      ∃ t, exec .phasetimeExpiry s = .next t ∧ (t.core g).wait = none ∧ (t.core g).pc = (s.core g).pc + 8 ∧
        (t.core g).phaseDue = true ∧ t.mem = s.mem ∧
        ∀ k n dl d, w = .rclm k n dl d ∨ w = .rwf k n dl d → (t.core g).reg d = 0)) ∧
  (∀ (s : State) g since tn, s.arg = .unit g → (s.core g).task = some tn → since + 65536 < s.cycle →
    ((s.core g).pend = none ∧ (s.core g).drained = false ∧ ((s.core g).stopped = true ∨ (s.core g).phase = .ended) ∧
        (s.core g).inh = false ∧ (s.core g).halted = false ∧ (s.core g).drainSince = some since) ∨
      (∃ p, (s.core g).pend = some p ∧ (s.core g).olderDone p.seq = false ∧ p.since = since) →
    ∃ t, exec .tokdeadExpiry s = .next t ∧ (t.core g).phase = .ended ∧ (t.core g).eng.toList.all (fun e => e.queue = []) = true ∧
      ∀ x, s.insts.find (s.instOf g) = some x → x.cancelled = none →
        (t.insts.find (s.instOf g)).bind (·.cancelled) = some cTOKDEAD)

/-! ## Engine queues and vector words -/

/-- R31, R33, R34, R128, R163, R164: an engine word enters its queue with what it captures, its scalar operand and the state
and effective position of each stream register that it names, and the scalar pipe goes on; a result in flight is written with
its token, some rows of its register perhaps before the others; QBIND, QPOS and QADV set stream registers. -/
def Obligations.QueueResults : Prop :=
  (∀ (w : Word) (i : Instr) e p (s : State), decodeWord w = .ok i → i.engine = some (e, p) → s.myCore.inh = false →
    (s.myCore.getEng e).queue.length < 32 →
    s.myCore.ready ((scalarSrc i).toList ++ (marksS i).toList) (marksC i).toList = true →
    ∃ t h, exec (.engineEnqueue w) s = .next t ∧ (t.myCore.getEng e).queue = (s.myCore.getEng e).queue ++ [h] ∧
      h.word = w ∧ h.pc = s.myCore.pc ∧ h.on = s.myCore.isOn p.q ∧ h.scalar = (scalarSrc i).elim 0 s.myCore.reg ∧
      (∀ r, streamA i = some r → h.sa = s.myCore.stream r ∧ EffectiveAt s.myCore.loops p.q (s.myCore.stream r) h.pa) ∧
      (∀ r, streamB i = some r → h.sb = s.myCore.stream r ∧ EffectiveAt s.myCore.loops p.q (s.myCore.stream r) h.pb) ∧
      h.ms = marksS i ∧ h.mc = marksC i ∧ t.myCore.pc = s.myCore.pc + 8 ∧ t.myCore.s = s.myCore.s ∧ t.mem = s.mem) ∧
  (∀ (s : State) g e f fs, s.arg = .engine g e → ((s.core g).getEng e).inflight = f :: fs → (s.core g).pend = none →
    ∃ t, exec .engineResultWrite s = .next t ∧ ((t.core g).getEng e).inflight = fs ∧ t.mem = s.mem ∧
      (∀ k, f.push = some k → ((t.core g).tok k).vis = ((s.core g).tok k).vis + 1) ∧
      (∀ d v, f.sw = some (d, v) → d ≠ 0 → (t.core g).s.toArray.getD d.toNat 0 = v) ∧
      (∀ k v, f.cw = some (k, v) → k ≠ 0 → (t.core g).creg k = v) ∧ ((s.core g).late = [] → (t.core g).v = (s.core g).v)) ∧
  (∀ (old c : Core) e rows d i, old.late = [] → c.late = [] → d < 32 → i < 16 →
    let late := old.delayRows c e rows
    vrow (late.v.toArray.getD d 0) i = vrow ((if i ∈ rows then old else c).v.toArray.getD d 0) i ∧
      vrow ((late.writeRows e fun _ => true).v.toArray.getD d 0) i = vrow (c.v.toArray.getD d 0) i) ∧
  (∀ q qa obj (s : State) e, Fires q [] [] s → s.objEntry (s.partOf s.me) obj.toNat = some e →
    s.myCore.affineFull qa e.bits = false →
    exec (.qbind q qa obj) s = .next (s.updMe fun c => (c.setStream qa ⟨true, obj, e.bits, 0, 0, 0, 0⟩).advance)) ∧
  (∀ q qa r (s : State), Fires q [r] [] s → (s.myCore.stream qa).bound = true →
    ∃ t, exec (.qpos q qa r) s = .next t ∧ Moved s.myCore t.myCore ∧ t.mem = s.mem ∧
      t.myCore.stream qa = { s.myCore.stream qa with
        p0 := (s.myCore.reg r).extractLsb' 0 24, p1 := (s.myCore.reg r).extractLsb' 24 24,
        p2 := (s.myCore.reg r).extractLsb' 48 8, p3 := (s.myCore.reg r).extractLsb' 56 8 }) ∧
  (∀ q qa n (s : State), Fires q [] [] s → (s.myCore.stream qa).bound = true →
    (s.myCore.stream qa).p1.toNat + n.toNat < 2 ^ 24 →
    ∃ t, exec (.qadv q qa n) s = .next t ∧ Moved s.myCore t.myCore ∧ t.mem = s.mem ∧
      t.myCore.stream qa = { s.myCore.stream qa with p1 := (s.myCore.stream qa).p1 + n.setWidth 24 })

/-- R131, R132: elementwise arithmetic: floats under the scalar rules with rounding to nearest even, integers modulo their
width; |a| and −a act on the bits. R39, R145, R146: the special functions of the exponent unit. That their values come exactly
rounded out of 640 fraction bits is presumed (assumption 55). -/
def Obligations.VectorArithmetic : Prop :=
  (Elementwise .vadd fAdd (fun t x y => (wrapInt t.bits (x + y), 0)) ∧
  Elementwise .vsub fSub (fun t x y => (wrapInt t.bits ((x : Int) - y), 0)) ∧
  Elementwise .vmul fMul (fun t x y => (wrapInt t.bits (x * y), 0)) ∧
  (∀ p ty d a b e m, Delivers (.vfma p ty d a b e m) .arith p ty d fun c => onLanes (c.mask m) ty.bits ty.lanes fun j =>
    if ty.isFloat then fFma (fmtOf ty) .rne c.ftz false (c.lane ty a j) (c.lane ty b j) (c.lane ty e j)
    else (wrapInt ty.bits ((c.lane ty a j : Int) * c.lane ty b j + c.lane ty e j), 0)) ∧
  (∀ p ty d a b e m, Delivers (.vfms p ty d a b e m) .arith p ty d fun c => onLanes (c.mask m) ty.bits ty.lanes fun j =>
    if ty.isFloat then fFma (fmtOf ty) .rne c.ftz true (c.lane ty a j) (c.lane ty b j) (c.lane ty e j)
    else (wrapInt ty.bits (-((c.lane ty a j : Int) * c.lane ty b j) + c.lane ty e j), 0)) ∧
  (∀ p ty d a b m, Delivers (.vmin p ty d a b m) .arith p ty d fun c =>
    onLanes (c.mask m) ty.bits ty.lanes fun j => pickMinMax ty false (c.lane ty a j) (c.lane ty b j)) ∧
  (∀ p ty d a b m, Delivers (.vmax p ty d a b m) .arith p ty d fun c =>
    onLanes (c.mask m) ty.bits ty.lanes fun j => pickMinMax ty true (c.lane ty a j) (c.lane ty b j)) ∧
  Lanewise1 .vabs absLane ∧ Lanewise1 .vneg negLane) ∧
  (SpecialWord .vexp .exp ∧ SpecialWord .vexp2 .exp2 ∧ SpecialWord .vlog2 .log2 ∧ SpecialWord .vrcp .rcp ∧
  SpecialWord .vrsq .rsq ∧ SpecialWord .vsqrt .sqrt ∧ SpecialWord .vsin .sin ∧ SpecialWord .vcos .cos ∧
  SpecialWord .vtanh .tanh)

/-- R133 to R137: vector logic on 32-bit containers, shifts, bit fields and bit counts; comparison into a mask, selection,
moves, immediates, and moves between a lane and a scalar register. -/
def Obligations.VectorLogicMoves : Prop :=
  (Logic .vand (fun x y => x &&& y) ∧ Logic .vor (fun x y => x ||| y) ∧ Logic .vxor (fun x y => x ^^^ y) ∧
  (∀ p d a m, Moves (.vnot p d a m) .arith p 32 d (masked m 32 fun c j => (~~~BitVec.ofNat 32 (c.lane .n32 a j)).toNat)) ∧
  Lanewise2 .vshl (fun t x y => (BitVec.ofNat t.bits x <<< (y % t.bits)).toNat) ∧
  Lanewise2 .vshr (fun t x y => (BitVec.ofNat t.bits x >>> (y % t.bits)).toNat) ∧
  Lanewise2 .vsar (fun t x y => ((BitVec.ofNat t.bits x).sshiftRight (y % t.bits)).toNat) ∧
  (∀ p ty d a lenm1 pos m, Moves (.vbfx p ty d a lenm1 pos m) .arith p ty.bits d (masked m ty.bits fun c j =>
    let x := (BitVec.ofNat ty.bits (c.lane ty a j)).extractLsb' pos.toNat (lenm1.toNat + 1)
    if ty.isSigned then (x.signExtend ty.bits).toNat else x.toNat)) ∧
  (∀ p ty d a b e m, Moves (.vfsh p ty d a b e m) .arith p ty.bits d (masked m ty.bits fun c j =>
    ((BitVec.ofNat ty.bits (c.lane ty a j) ++ BitVec.ofNat ty.bits (c.lane ty b j)) <<<
      (c.lane ty e j % ty.bits)).toNat / 2 ^ ty.bits)) ∧
  Lanewise1 .vclz (fun t x => t.bits - if x = 0 then 0 else Nat.log2 x + 1) ∧
  Lanewise1 .vpopc (fun t x => ((List.range t.bits).filter fun i => x.testBit i).length)) ∧
  ((∀ p ty k t a b m (s : State) h, Issues .arith p s h → (Instr.vcmp p ty k t a b m).limits = true →
    let r (j : Nat) := laneCmp ty k (s.myCore.lane ty a j) (s.myCore.lane ty b j)
    ∃ u, exec (.vcmp p ty k t a b m) s = .next u ∧ Retired s u .arith ∧ u.myCore.v = s.myCore.v ∧ u.mem = s.mem ∧
      (∀ j, j < 1024 → (u.myCore.mask t).getLsbD j = ((s.myCore.mask m).getLsbD j && (r j).1)) ∧
      (∀ k, k ≠ t → u.myCore.mask k = s.myCore.mask k) ∧
      ∀ f, u.myCore.fpstat.getLsbD f = (s.myCore.fpstat.getLsbD f ||
        (List.range 1024).any fun j => (s.myCore.mask m).getLsbD j && (r j).2.getLsbD f)) ∧
  (∀ p d a b k, Moves (.vsel p d a b k) .arith p 32 d fun c _ j =>
    some (if (c.mask k).getLsbD j then c.lane .n32 a j else c.lane .n32 b j)) ∧
  (∀ p d a m, Moves (.vmov p d a m) .arith p 32 d (masked m 32 fun c j => c.lane .n32 a j)) ∧
  (∀ p ty d imm m, Moves (.vli p ty d imm m) .arith p ty.bits d (masked m ty.bits fun _ _ => match ty with
    | .f32 => imm.toNat * 2 ^ 16
    | .i32 => (imm.signExtend 32).toNat
    | _ => imm.toNat)) ∧
  (∀ p ty d a row col, (Instr.vext p ty d a row col).limits = true →
    Sends (.vext p ty d a row col) p fun c =>
      let x := c.lane ty a (row.toNat * ty.cols + col.toNat)
      (some (d.setWidth 6, if ty.isSigned then (BitVec.ofNat ty.bits x).signExtend 64 else BitVec.ofNat 64 x), none)) ∧
  (∀ p ty d a row col m, Moves (.vins p ty d a row col m) .arith p ty.bits d fun c h j =>
    if j = row.toNat * ty.cols + col.toNat ∧ laneOn (c.mask m) ty.bits j then some h.scalar.toNat else none))

/-- R86 to R88, R140 to R143: conversions between element types and the packed formats, from parts of a register or into them.
The order of steps in a companded conversion from a packed format, that a draw is taken for an exact value too, and that a
block or a group which is not written records no flags, are the model's readings (assumptions 18, 19 and 65). -/
def Obligations.VectorConversions : Prop :=
  (∀ p dst src d a part rm m, Delivers (.vcvt p dst src d a part rm m) .arith p dst d fun c =>
    pairResults c src.lanes dst.lanes part.toNat src.bits rm a m fun x dr => convert src dst rm dr c.ftz (vcvtWidens src dst) x) ∧
  (∀ p ty cmpd d a part rm m, ty ≠ .mx4 → DeliversWhen (fun s => cmpd = true → s.myCore.cmpdValid = true)
    (.vqnt p ty cmpd d a part rm m) .arith p ty d fun c =>
      pairResults c 1024 ty.lanes part.toNat 32 rm a m fun x dr => quantLane c cmpd ty rm x dr) ∧
  (∀ p cmpd d a part rm m (s : State) h, Issues .arith p s h → (Instr.vqnt p .mx4 cmpd d a part rm m).limits = true →
    (cmpd = true → s.myCore.cmpdValid = true) → s.myCore.nten = false →
    let ds := (takeDraws rm 1024 s.myCore.genV).1
    let on (b : Nat) : Bool := blockOn (s.myCore.mask m) b 32
    let f (b : Nat) := quantBlock s.myCore cmpd rm a ds b
    ∃ t fl, exec (.vqnt p .mx4 cmpd d a part rm m) s = .next t ∧ Retired s t .arith ∧
      Wrote s t d 8 (blockVal (544 * part.toNat) 17 32 on fun b => (f b).1) fl ∧
      ∀ k, fl.getLsbD k = (List.range 32).any fun b => on b && (f b).2.1.getLsbD k) ∧
  (∀ p ty cmpd d a part m, ty ≠ .mx4 → DeliversWhen (fun s => cmpd = true → s.myCore.cmpdValid = true)
    (.vdqnt p ty cmpd d a part m) .arith p .f32 d fun c =>
      pairResults c ty.lanes 1024 part.toNat ty.bits .rne a m fun x _ => deliverDecoded c cmpd false ((fmtOf ty).decode x)) ∧
  (∀ p cmpd d a part m, DeliversWhen (fun s => cmpd = true → s.myCore.cmpdValid = true)
    (.vdqnt p .mx4 cmpd d a part m) .arith p .f32 d fun c => onLanes (c.mask m) 32 1024 (mxLane c cmpd a part.toNat)) ∧
  (∀ p ty d a part m (s : State) h, Issues .arith p s h → (Instr.vpack6 p ty d a part m).limits = true →
    let on (g : Nat) : Bool := blockOn (s.myCore.mask m) g 4
    ∃ t fl, exec (.vpack6 p ty d a part m) s = .next t ∧ Retired s t .arith ∧
      Wrote s t d 8 (blockVal (768 * part.toNat) 3 256 on fun g => (packGroup s.myCore ty a g).1) fl ∧
      ∀ k, fl.getLsbD k = (List.range 256).any fun g => on g && (packGroup s.myCore ty a g).2.getLsbD k) ∧
  (∀ p dst src d a part rm m, Delivers (.vunpk6 p dst src d a part rm m) .arith p dst d fun c =>
    List.replicate (1024 * part.toNat) none ++ (List.range 1024).map fun j =>
      if (c.mask m).getLsbD j then
        some ((fmtOf dst).deliver rm ((takeDraws rm 1024 c.genV).1.getD j 0) (c.ftz && !sixExact dst src)
          ((fmtOf src).decode (sixBit c a part.toNat j)))
      else none)

/-- R144, R147, R148: the Hadamard transform, rotation and broadcast within a register, and reductions and scans. The flags of
a minimum or maximum delivered to .f8a and those of a transform under a mask are the model's readings (assumptions 63 and 65). -/
def Obligations.VectorRowsColumns : Prop :=
  (∀ p ty d a n m, Delivers (.vhad p ty d a n m) .arith p ty d fun c =>
    onLanes (c.mask m) ty.bits ty.lanes fun j => (hadLanes c ty a n.toNat).getD j (0, 0)) ∧
  Shuffle .vrotr .arith (fun cols k r c => (r, if k ≤ c then c - k else c + cols - k)) ∧
  Shuffle .vrotc .arith (fun _ k r c => (if k ≤ r then r - k else r + 16 - k, c)) ∧
  Shuffle .vbcr .arith (fun _ k r _ => (r, k)) ∧ Shuffle .vbcc .arith (fun _ k _ c => (k, c)) ∧
  (∀ p op ty d a m, Delivers (.vredr p op ty d a m) .arith p ty d fun c =>
    onLanes (c.mask m) ty.bits ty.lanes fun j =>
      redOut ty op c.ftz (tree (redStep ty op c.ftz) 8 ((rowLanes ty (j / ty.cols)).map (redIn c ty op a (c.mask m))))) ∧
  (∀ p op ty d a m, Delivers (.vredc p op ty d a m) .arith p ty d fun c =>
    onLanes (c.mask m) ty.bits ty.lanes fun j =>
      redOut ty op c.ftz (tree (redStep ty op c.ftz) 4 ((colLanes ty (j % ty.cols)).map (redIn c ty op a (c.mask m))))) ∧
  (∀ p op ty d a m, Delivers (.vscanr p op ty d a m) .arith p ty d fun c =>
    onLanes (c.mask m) ty.bits ty.lanes fun j =>
      redOut ty op c.ftz ((scan (redStep ty op c.ftz) none
        ((rowLanes ty (j / ty.cols)).map (redIn c ty op a (c.mask m)))).getD (j % ty.cols) (0, 0)))

/-- R149 to R153, R179: keys, histograms, the k greatest, compaction and lookup, and the words of the permute slot. -/
def Obligations.SelectionAndPermute : Prop :=
  (Lanewise1 .vrkey keyOf ∧
  (∀ p ty d a pos m, Moves (.vhist p ty d a pos m) .arith p 32 d fun c _ j =>
    if j < 256 then some (laneOf 32 (c.vreg d) j + ((List.range ty.lanes).filter fun i =>
      laneOn (c.mask m) ty.bits i && (c.lane ty a i / 2 ^ pos.toNat % 256 = j)).length)
    else none) ∧
  (∀ p d a b km1 m, Moves (.vselk p d a b km1 m) .arith p 32 d fun c _ j =>
    let js := (List.range 1024).filter fun i => (c.mask m).getLsbD i
    let n := min (km1.toNat + 1) js.length
    let top := ((js.foldl (fun l i => insertKey i (c.lane .n32 a i) l) []).take n).map (·.1)
    if j < 64 then some (top.getD j 0xFFFFFFFF)
    else if j < 128 then some ((top[j - 64]?).elim 0x7FC00000 fun i => c.lane .n32 b i)
    else if j < 192 then some (if j = 128 then n else 0)
    else none) ∧
  (∀ p ty d a m, Moves (.vcomp p ty d a m) .arith p 32 d fun c _ j =>
    (((List.range 1024).filter fun i => (c.mask m).getLsbD i)[j]?).map fun i => c.lane ty a i) ∧
  (∀ p ty d a b m, Moves (.vlut p ty d a b m) .arith p 32 d (masked m 32 fun c j =>
    if c.lane ty a j < 1024 then c.lane ty b (c.lane ty a j) else 0))) ∧
  ((∀ p ty d a (b : BitVec 6) m, Moves (.ptrn p ty d a b m) .permute p ty.bits d (masked m ty.bits fun c j =>
    let r := j / ty.cols
    let k := j % ty.cols
    let n := b.toNat
    c.el ty a (r - r % n + k % n) (k - k % n + r % n))) ∧
  (∀ p ty d a b m, Moves (.pshf p ty d a b m) .permute p ty.bits d (masked m ty.bits fun c j =>
    c.el ty a (j / ty.cols) (c.el ty b (j / ty.cols) (j % ty.cols) % ty.cols))) ∧
  (∀ p ty d a (k : BitVec 8) m, Moves (.prot p ty d a k m) .permute p ty.bits d (masked m ty.bits fun c j =>
    c.el ty a (j / ty.cols) (((j % ty.cols : Nat) - (k.toNat * (j / ty.cols) : Nat) : Int) % ty.cols).toNat)) ∧
  (∀ p high ty d a b m, Moves (.pzip p high ty d a b m) .permute p ty.bits d (masked m ty.bits fun c j =>
    let k := j % ty.cols
    c.el ty (if k % 2 = 0 then a else b) (j / ty.cols) (k / 2 + if high then ty.cols / 2 else 0))))

/-- R138, R139: the mask stack, mask writes, and the words that send a mask's summary to a scalar or condition register. -/
def Obligations.MaskResults : Prop :=
  (∀ p k, StackWord (.mpush p k) p fun c =>
    if c.mstack.length < 16 then some ((c.m0 &&& c.mask k) :: c.mstack) else none) ∧
  (∀ p, StackWord (.minv p) p fun c => some ((~~~c.m0 &&& (c.mstack.drop 1).headD maskOnes) :: c.mstack.drop 1)) ∧
  (∀ p, StackWord (.mpop p) p fun c => if 1 < c.mstack.length then some (c.mstack.drop 1) else none) ∧
  (∀ p t v, MaskWrites (.mset p t v) p t fun _ => if v then BitVec.allOnes 1024 else 0) ∧
  (∀ p t k, MaskWrites (.mmov p t k) p t fun c => c.mask k) ∧
  (∀ p t k, Sends (.many p t k) p fun c => (none, some (t, c.mask k != 0))) ∧
  (∀ p t k, Sends (.mnone p t k) p fun c => (none, some (t, c.mask k == 0))) ∧
  (∀ p d k, Sends (.mcnt p d k) p fun c => (some (d.setWidth 6, BitVec.ofNat 64 (c.mask k).cpop.toNat), none))

/-- R154 to R157, R166: the vector loads and stores, by rows and by lanes, with base and stream addresses. -/
def Obligations.VectorMemory : Prop :=
  (∀ p ty d addr m, VLoads (.vld p ty d addr m) p ty d addr (.rows true) m ∧
    VLoads (.vlda p ty d addr m) p ty d addr (.rows false) m ∧
    VStores (.vst p ty d addr m) p ty d addr (.rows true) m ∧
    VStores (.vsta p ty d addr m) p ty d addr (.rows false) m) ∧
  (∀ p ty d addr v m, VLoads (.vgth p ty d addr v m) p ty d addr (.lanes v) m ∧
    VStores (.vsct p ty d addr v m) p ty d addr (.lanes v) m)

/-! ## The matrix engine -/

/-- R168 to R178: MMA adds a product to a tile; when the participants of an MMAS have all come each does the same, and counts,
in the one step that fetches their operands, whatever NaN traps one of them; one that trapped issues again alone; a bad grid
is MSETSHAPE, a mismatch MSETMIS at every participant, and the loss of one MSETLOST at those who wait. That MSETSHAPE comes
before the checks of R170, and that each participant sees its own buffered bytes of a shared block, are the model's choices
(assumptions 60 and 72). -/
def Obligations.MatrixProducts : Prop :=
  (∀ p ty alt td qa b n (s : State) h r, Issues .matrix p s h → s.pavRuns = false →
    let w : MxWord := ⟨ty, alt, td, qa, b, n.toNat, 0, 0⟩
    mxCheck s s.me w h = .ok r → Clear s w h r →
    ∃ t, exec (.mma p ty alt td qa b n) s = .next t ∧ Accumulated s t w h r) ∧
  (∀ p ty alt td qa b n rm1 cm1 (s : State) h r tk, Issues .matrix p s h → s.pavRuns = false → s.taskOf s.me = some tk →
    decodeWord h.word = .ok (.mmas p ty alt td qa b n rm1 cm1) →
    let gs := participants tk (rm1.toNat + 1) (cm1.toNat + 1)
    let pos := gridPos tk.size s.me
    let w : MxWord := ⟨ty, alt, td, qa, b, n.toNat, pos.1, if b = .wb then 0 else pos.2⟩
    (tk.size = 4 → rm1 = 0) → (tk.size = 1 → rm1 = 0 ∧ cm1 = 0) → s.me ∈ gs →
    mxCheck s s.me w h = .ok r →
    (s.myCore.mmasDone < h.nth →
      (∀ k ∈ gs, s.atMmas tk.size h.nth k = true ∧ ((s.core k).mqHead).elim false (sameMmas h) = true) →
      ((∀ k ∈ gs, s.mmasFails tk.size k = false) →
        exec (.mmas p ty alt td qa b n rm1 cm1) s = .next (gs.foldl (fun s k => s.mmasIssue tk.size h.nth true k) s)) ∧
      (Clear s w h r → (∀ k ∈ gs, ∃ x, s.mmasOne tk.size k = some x ∧ x.2.2.isOk = true) →
        ∃ t, exec (.mmas p ty alt td qa b n rm1 cm1) s = .next t ∧ Accumulated s t w h r ∧
          ∀ k ∈ gs, (t.core k).mmasDone = h.nth ∧
            ((t.core k).getEng .matrix).queue = ((s.core k).getEng .matrix).queue.drop 1)) ∧
    (h.nth ≤ s.myCore.mmasDone → Clear s w h r →
      ∃ t, exec (.mmas p ty alt td qa b n rm1 cm1) s = .next t ∧ Accumulated s t w h r)) ∧
  (∀ p ty alt td qa b n rm1 cm1 (s : State) h tk, Issues .matrix p s h → s.pavRuns = false → s.taskOf s.me = some tk →
    (tk.size = 4 ∧ rm1 ≠ 0 ∨ tk.size = 1 ∧ (rm1 ≠ 0 ∨ cm1 ≠ 0)) →
    exec (.mmas p ty alt td qa b n rm1 cm1) s =
      .next ((s.raise s.me (some h) { cause := cMSETSHAPE, eng := some .matrix }).updCore s.me (·.unmarkHead .matrix))) ∧
  (∀ p ty alt td qa b n rm1 cm1 (s : State) h tk, Issues .matrix p s h → s.pavRuns = false → s.taskOf s.me = some tk →
    decodeWord h.word = .ok (.mmas p ty alt td qa b n rm1 cm1) →
    let gs := participants tk (rm1.toNat + 1) (cm1.toNat + 1)
    (tk.size = 4 → rm1 = 0) → (tk.size = 1 → rm1 = 0 ∧ cm1 = 0) → s.me ∈ gs → s.myCore.mmasDone < h.nth →
    (∀ k ∈ gs, s.atMmas tk.size h.nth k = true) → (∃ k ∈ gs, ((s.core k).mqHead).elim false (sameMmas h) = false) →
    exec (.mmas p ty alt td qa b n rm1 cm1) s = .next (s.mismatch h.nth gs)) ∧
  (∀ (s : State) g tk h p ty alt td qa b n rm1 cm1, s.arg = .unit g → s.taskOf g = some tk → (s.core g).mqHead = some h →
    decodeWord h.word = .ok (.mmas p ty alt td qa b n rm1 cm1) → (tk.size = 4 → rm1 = 0) → (tk.size = 1 → rm1 = 0 ∧ cm1 = 0) →
    g ∈ participants tk (rm1.toNat + 1) (cm1.toNat + 1) → s.atMmas tk.size h.nth g = true →
    (∃ k ∈ participants tk (rm1.toNat + 1) (cm1.toNat + 1), k ≠ g ∧ s.lostAt h.nth k = true) →
    exec .msetlost s =
      .next ((s.raise g (some h) { cause := cMSETLOST, eng := some .matrix }).updCore g (·.unmarkHead .matrix)))

/-- R89, R90, R168: element (i, j) of a product is the tile's element plus row i of A times row j of B: modulo 2^32 for
integers, k-step by k-step for floats; where a row lies outside its object the element keeps its value. -/
def Obligations.ProductElements : Prop :=
  ∀ (c : Core) (w : MxWord) (h : QEntry) (ab bb : List (Option (List Byte))) (i j : Nat),
    ab.length = 128 → bb.length = 128 → i < 128 → j < 128 →
    let count := w.n * kStep w.ty
    ((ab[i]? = some none ∨ bb[j]? = some none) → (mxProduct c w h ab bb).1.getD (128 * i + j) none = none) ∧
    (∀ a b, ab[i]? = some (some a) → bb[j]? = some (some b) →
      (w.ty = .i8 → ((mxProduct c w h ab bb).1.getD (128 * i + j) none).map (·.x) =
        some ((BitVec.ofNat 32 (tileEl (c.tile w.td) i j) + BitVec.ofInt 32
          (((List.range count).map fun k => signedOf 8 (byteAt a k).toNat * signedOf 8 (byteAt b k).toNat).foldl (· + ·) 0)).toNat)) ∧
      (w.ty ≠ .i8 → (mxProduct c w h ab bb).1.getD (128 * i + j) none =
        some (accElem c.ftz w.n (kStep w.ty) (tileEl (c.tile w.td) i j) (operandRow c (entCmpd h.sa.entry) w.ty count a).1
          (operandRow c (match w.b with | .stream _ => entCmpd h.sb.entry | .wb => c.wbCmpd) (bType w.ty w.alt) count b).1)))

/-- R167, R172 to R175: MZERO clears a tile; MWR loads the in-extent part of a tile from memory, MRD stores it converted, and
MLDW fills the weight buffer. -/
def Obligations.TileMemory : Prop :=
  (∀ p td (s : State) h, Issues .matrix p s h → s.pavRuns = false →
    ∃ t, exec (.mzero p td) s = .next t ∧ Retired s t .matrix ∧ t.myCore.tile td = 0 ∧ t.myCore.tk td.toNat = .zero ∧
      (∀ u, u ≠ td → t.myCore.tile u = s.myCore.tile u) ∧ t.myCore.v = s.myCore.v ∧ t.mem = s.mem) ∧
  (∀ p td qa (s : State) h rs, Issues .matrix p s h → s.pavRuns = false → tileCheck s h qa .f32 false = .ok rs →
    s.piecesUnc rs.flatten = none → Unwatched s false (rs.flatten.map fun p => p.2) →
    let sh := tileShape h.sa.entry h.pa
    ∃ t, exec (.mwr p td qa) s = .next t ∧ Retired s t .matrix ∧ t.myCore.tk td.toNat = .float ∧
      (∀ i j, i < 128 → j < 128 → tileEl (t.myCore.tile td) i j =
        if i < sh.1 ∧ j < sh.2 then natAt (s.pieceBytes s.me (rs.getD i [])) (4 * j) 4 else tileEl (s.myCore.tile td) i j) ∧
      (∀ u, u ≠ td → t.myCore.tile u = s.myCore.tile u) ∧ t.myCore.v = s.myCore.v ∧ t.mem = s.mem) ∧
  (∀ p ty rm qa td (s : State) h rs, s.mem.wf = true → Issues .matrix p s h → s.pavRuns = false →
    (Instr.mrd p ty rm qa td).limits = true → tileCheck s h qa ty true = .ok rs → s.myCore.nten = false →
    Unwatched s true (rs.flatten.map fun p => p.2) → NoPending s (rs.flatten.map fun p => p.2) → s.myCore.smb = [] →
    let sh := tileShape h.sa.entry h.pa
    let ds : List Nat := if rm = .rsto then (draws 16384 s.myCore.genM).1 else []
    let row (i : Nat) : List Byte := ((List.range sh.2).map fun j => natBytes (fmtBytes ty)
      (mrdElem (s.myCore.tk td.toNat) ty rm s.myCore.ftz (tileEl (s.myCore.tile td) i j) (ds.getD (128 * i + j) 0)).1).flatten
    ∃ t, exec (.mrd p ty rm qa td) s = .next t ∧ Retired s t .matrix ∧ t.myCore.t = s.myCore.t ∧ t.myCore.v = s.myCore.v ∧
      Stores s t ((List.range sh.1).map fun i => splitPieces (rs.getD i []) (row i)).flatten) ∧
  (∀ p ty packed qa (s : State) h ls, Issues .matrix p s h → s.pavRuns = false →
    let x : MxStream := ⟨qa.toNat, h.sa, h.pa, ty⟩
    let sz := storedBytes ty (mldwLen h.sa.entry h.pa)
    mxUnbound [x] = none → mxFormat [x] = none → mxRight [x] = none → mxCmpd s.myCore [x] = none → mxBounds [x] none = none →
    mldwOk h.sa.entry h.pa ty packed = true →
    (mldwRuns h.sa.entry h.pa ty packed).mapM (locatePieces s (s.whoCore s.me) .rd) = .ok ls →
    s.piecesUnc ls.flatten = none → s.myCore.wp.toList.all (fun w => w.kind = 0) = true →
    ∃ t, exec (.mldw p ty packed qa) s = .next t ∧ Retired s t .matrix ∧ t.myCore.t = s.myCore.t ∧ t.myCore.v = s.myCore.v ∧
      t.mem = s.mem ∧ t.myCore.wbuf = ⟨true, packed, ty, 0, mldwLen h.sa.entry h.pa / kStep ty,
        ls.map fun ps => mldwRow sz packed (s.pieceBytes s.me ps), some h⟩)

/-! ## Commands -/

/-- R37, R205, R236 to R242: a copy-engine word whose checks passed, outside handler mode and before any cancel token, hands a
command to the less loaded of the cluster's two engines. -/
def Obligations.CommandHandOff : Prop :=
  (∀ q sd a flag rel, HandsOff (.cpy q sd a flag rel) q sd a .cpy flag rel) ∧
  (∀ q sd a flag rel, HandsOff (.cpym q sd a flag rel) q sd a .cpym flag rel) ∧
  (∀ q sd a flag rel n, HandsOff (.gthr q sd a flag rel n) q sd a (.gthr (n.toNat + 1)) flag rel) ∧
  (∀ q sd a flag rel o op ty n, HandsOff (.red q sd a flag rel o op ty n) q sd a (.red o op ty n.toNat) flag rel) ∧
  (∀ q sd a flag rel, HandsOff (.send q sd a flag rel) q sd a .send flag rel) ∧
  (∀ q sd a flag rel (s : State), Fires q [sd, a] [] s → s.myCore.inh = false → EngineFree s → (rel = true → Quiet s.myCore) →
    ∃ t, exec (.xlat q sd a flag rel) s = .next t ∧ Moved s.myCore t.myCore ∧ t.mem = s.mem ∧
      Accepted s t flag (.xlat (s.myCore.reg sd).toNat (min (s.myCore.reg a).toNat (2 ^ 40))) [])

/-- R205, R222, R239, R243: a completed copy, transposed copy or gather has moved its bytes whole, has left its engine and has
added 1 to its flag. R207, R240: an unordered contribution on this device is combined with its destination element by element
at once; an ordered one is held in its round, and the one that completes the round combines all of them in rising rank, adds 1
to DFLAG, and ends every contributing command, whose flags gain 1; one that may not be taken yet waits. The home of DFLAG, and
which contribution a round turns away, are the model's readings (assumption 74). That a word or an event that waits, or whose
condition does not hold, leaves the state as it was is the model's reading (assumption 15). -/
def Obligations.CommandsComplete : Prop :=
  (∀ (s : State) i c src dst, s.arg = .unit i → s.cmd i = some c → AllStarted s → c.node = none →
    moveRuns c.kind = some (src, dst) → s.piecesUnc (cmdPieces s c .rd src) = none →
    ∃ t, exec .copyCommandComplete s = .next t ∧
      t.mem = memRuns s.mem (pieceRuns (cmdPieces s c .wr dst)) (s.runsBytes (pieceRuns (cmdPieces s c .rd src))) ∧
      t.cmds = s.cmds.filter (fun x => x.id != c.id) ∧
      (c.die = false → c.flag ≠ 0 → t.clusFlag (c.engine / 2) c.flag = s.clusFlag (c.engine / 2) c.flag + 1) ∧
      (c.die = true → c.flag ≠ 0 →
        t.dieFlag c.part (c.engine / 4) c.flag = s.dieFlag c.part (c.engine / 4) c.flag + 1)) ∧
  (∀ (s : State) i c src dst ty op ord srcs, s.arg = .unit i → s.cmd i = some c → AllStarted s → c.applied = false →
    c.kind = .reduce src dst ty op ord srcs → dst.remote = false → s.piecesUnc (cmdPieces s c .rd src.runs) = none →
    (∀ g, c.core = some g → (s.core g).nten = false) →
    let bs := s.runsBytes (pieceRuns (cmdPieces s c .rd src.runs))
    let x := redArrival c src dst ty op ord srcs bs
    let closes : Bool := ord && (insertRank x.contribution ((x.round s).elim [] (·.held))).length = srcs
    x.mixed s = false → (x.waits s || s.redBehind c) = false → s.piecesUnc (x.pieces s) = none →
    ∃ t, exec .redContribution s = .next t ∧ RedEffect s t x ∧
      (closes = false → (t.cmd i).map (·.applied) = some true) ∧ (closes = true → t.cmd i = none)) ∧
  (∀ (s : State) i c src dst ty op ord srcs, s.arg = .unit i → s.cmd i = some c → c.applied = false →
    c.kind = .reduce src dst ty op ord srcs → dst.remote = false → s.piecesUnc (cmdPieces s c .rd src.runs) = none →
    let x := redArrival c src dst ty op ord srcs (s.runsBytes (pieceRuns (cmdPieces s c .rd src.runs)))
    x.mixed s = false → (x.waits s || s.redBehind c) = true → exec .redContribution s = .next s) ∧
  (∀ (s : State) i c src dst ty op srcs, s.arg = .unit i → s.cmd i = some c → AllStarted s → c.applied = true → c.node = none →
    c.die = false → c.kind = .reduce src dst ty op false srcs → dst.remote = false →
    ∃ t, exec .copyCommandComplete s = .next t ∧ t.mem = s.mem ∧ t.cmds = s.cmds.filter (fun x => x.id != c.id) ∧
      (c.flag ≠ 0 → t.clusFlag (c.engine / 2) c.flag = s.clusFlag (c.engine / 2) c.flag + 1))

/-! ## Task graphs -/

/-- R254 to R257, R267, R268: TSUB enters an instance, TDEP lowers a node's count, TCAN raises a token, TQRY reports. -/
def Obligations.TaskWords : Prop :=
  (∀ q d a b flag (s : State) i u, Fires q [d, a, b] [] s → Quiet s.myCore →
    (released s).submit (s.partOf s.me) (dieOf s.me) (s.myCore.reg a).toNat (s.myCore.reg b).toNat (some (s.instOf s.me))
      (.flag (clusOf s.me) flag.toNat) = .ok (i, u) →
    ∃ t x, exec (.tsub q d a b flag) s = .next t ∧ MovedTo s.myCore t.myCore d (BitVec.ofNat 64 i) ∧ t.mem = s.mem ∧
      t.insts.find i = some x ∧ x.part = s.partOf s.me ∧ x.parent = some (s.instOf s.me) ∧ x.die = dieOf s.me ∧
      x.nodes.length = (s.myCore.reg b).toNat ∧ x.notify = .flag (clusOf s.me) flag.toNat) ∧
  (∀ q d a b nm1 (s : State) x y, Fires q [d, a, b] [] s → Quiet s.myCore → (s.myCore.reg a).toNat < 2 ^ 24 →
    s.liveInst (s.partOf s.me) (s.myCore.reg a).toNat = some x →
    (x.cancelled ≠ none → Replies (.tdep q d a b nm1) s d (BitVec.allOnes 64)) ∧
    (x.cancelled = none → x.nodes[(s.myCore.reg b).toNat]? = some y → nm1.toNat + 1 ≤ y.count →
      ∃ t z, exec (.tdep q d a b nm1) s = .next t ∧
        MovedTo s.myCore t.myCore d (BitVec.ofNat 64 (y.count - (nm1.toNat + 1))) ∧ t.mem = s.mem ∧
        t.nodeAt (s.myCore.reg a).toNat (s.myCore.reg b).toNat = some z ∧ z.cnt = y.count - (nm1.toNat + 1) ∧
        (y.count = nm1.toNat + 1 → z.st ≠ .waiting))) ∧
  (∀ q d a (s : State), Fires q [d, a] [] s →
    let i := ((s.myCore.reg a).extractLsb' 0 24).toNat
    (∀ x, s.liveInst (s.partOf s.me) i = some x → x.cancelled = none →
      ∃ t, exec (.tcan q d a) s = .next t ∧ MovedTo s.myCore t.myCore d 1 ∧ t.mem = s.mem ∧
        (t.insts.find i).bind (·.cancelled) = some cUSERCAN ∧ t.tokens = s.tokens ++ [i]) ∧
    ((s.liveInst (s.partOf s.me) i = none ∨ ∃ x, s.liveInst (s.partOf s.me) i = some x ∧ x.cancelled ≠ none) →
      Replies (.tcan q d a) s d 0)) ∧
  (∀ q d a obj sel (s : State), Fires q [d, a] [] s →
    (sel = 0 → Replies (.tqry q d a obj sel) s d
      (tqryInst s (s.partOf s.me) ((s.myCore.reg a).extractLsb' 0 24).toNat)) ∧
    (∀ x, sel = 1 → s.xq (s.partOf s.me) obj.toNat = some x →
      Replies (.tqry q d a obj sel) s d (tqryQueue s (s.partOf s.me) obj.toNat x)) ∧
    (sel = 2 → Replies (.tqry q d a obj sel) s d (tqryPool s (s.partOf s.me) (dieOf s.me))) ∧
    (sel = 3 → Replies (.tqry q d a obj sel) s d (BitVec.ofNat 64 (s.spillFree (s.partOf s.me)))))

/-- R23, R24, R27, R260: a slot that chooses a tile task starts it on the set chosen: every core of the set stands at the
first address of the first phase, with the task's numbers in its registers. The empty line buffer at a task start is the
model's reading (assumption 38). -/
def Obligations.DispatchStartsTask : Prop :=
  ∀ (s : State) d w ch a, s.arg = .slot d w ch → s.quiesced = false →
    let s1 := ((s.sweepOne d).promoteAll d).noteBlocked d
    ((firsts (s1.candidates d)).find? fun a => a.i = ch.inst && a.n = ch.node) = some a → recKind a.x.record = 0 →
    a.x.task = none → (s1.executors d a.part a.x).contains (ch.clus, ch.core) = true → s1.tokenAt a.i = false →
    let t := recTask a.x.record a.i a.n (s.cluster ch.clus).part ch.clus ch.core a.x.addr s.cycle
    (firstPhase t).1 ≠ .ended →
    ∃ u, exec .dispatchSlot s = .next u ∧ u.mem = s.mem ∧
      ∀ g ∈ t.cores, (u.core g).phase = (firstPhase t).1 ∧ (u.core g).pc = (firstPhase t).2.1 ∧
        (u.core g).loops = (firstPhase t).2.2 ∧ u.taskOf g = some t ∧ (u.core g).reg 1 = BitVec.ofNat 64 a.i ∧
        (u.core g).reg 2 = BitVec.ofNat 64 a.n ∧ (u.core g).reg 3 = BitVec.ofNat 64 (g - ch.core) ∧
        (u.core g).reg 4 = BitVec.ofNat 64 t.size ∧ (u.core g).reg 5 = BitVec.ofNat 64 a.x.addr ∧
        (u.core g).reg 63 = BitVec.ofNat 64 (ownNear + nearSize) ∧ (u.core g).lines = [] ∧ (u.core g).refills = [] ∧
        ∀ r : BitVec 6, (r = 0 ∨ 5 < r.toNat ∧ r.toNat < 63) → (u.core g).reg r = 0

/-- R28, R258, R259, R262, R263, R265, R266, R282: what the Galliard's other events do when they are due. When a node is
offered or pre-empts, and the delivery of a token in one step, are the model's readings (assumptions 39 and 40). That a word
or an event that waits, or whose condition does not hold, leaves the state as it was is the model's reading (assumption 15). -/
def Obligations.GalliardEvents : Prop :=
  (∀ (s : State) tn t, s.arg = .unit tn → s.tasks.find tn = some t → s.taskDone tn t = true →
    ∃ u, exec .taskComplete s = .next u ∧ u.tasks.find tn = none ∧
      ∀ g ∈ t.cores, (u.core g).task = none ∧ (u.core g).phase = .idle ∧ (u.core g).smb = [] ∧ (u.core g).staging = []) ∧
  (∀ (s : State) i n x, s.arg = .pair i n → s.nodeAt i n = some x → x.st = .pooled →
    x.readyAt + (s.die x.die).age.toNat ≤ s.cycle →
    ∃ u, exec .nodePromote s = .next u ∧ u.nodeAt i n = some { x with promoted := true } ∧ u.mem = s.mem) ∧
  (∀ (s : State) i n d y x, s.arg = .node i n d → s.insts.find i = some y → s.nodeAt i n = some x → s.mayOffer y.part x d = true →
    ∃ u z, exec .nodeOffer s = .next u ∧ u.nodeAt i n = some z ∧ z.moved = true ∧ z.inTransit = some (d, s.cycle + 160) ∧
      u.mem = s.mem) ∧
  (∀ (s : State) i n d due x, s.arg = .pair i n → s.nodeAt i n = some x → x.inTransit = some (d, due) → due ≤ s.cycle →
    (s.die d).pool.length < 4096 →
    ∃ u, exec .nodeTransferArrive s = .next u ∧ (u.die d).pool = (s.die d).pool.set (freeEntry (s.die d).pool 0) (i, n) ∧
      u.nodeAt i n = some { x with st := .pooled, die := d, inTransit := none, blocked := none, asked := false } ∧ u.mem = s.mem) ∧
  (∀ (s : State) i n y x tn t b, s.arg = .pair i n → s.insts.find i = some y → s.nodeAt i n = some x →
    x.st = .pooled → x.inTransit = none → x.promoted = true → recKind x.record = 0 → x.blocked = some b →
    let age := (s.die x.die).age.toNat
    max b (x.readyAt + age) + age ≤ s.cycle → s.executors x.die y.part x = [] →
    latest (s.victims y.part x) = some (tn, t) → s.tasks.find tn = some t → t.trip ≠ 0 → t.saving = false →
    (∀ g ∈ t.cores, (s.core g).phase = .prologue ∨ (s.core g).phase = .kernel) →
    (x.asked = false → exec .galliardPreemptRequest s =
      .next ((s.updNode i n fun x => { x with asked := true }).updTask tn fun x => { x with preReq := true })) ∧
    (x.asked = true → exec .galliardPreemptRequest s = .next s)) ∧
  (∀ (s : State) i x c, s.arg = .unit i → s.insts.find i = some x → x.cancelled = some c → i ∈ s.tokens →
    ∃ u, exec .cancelToken s = .next u ∧ i ∉ u.tokens ∧ u.tokenAt i = true ∧
      (∀ y ∈ u.binds, y.inst ≠ i) ∧ ∀ n ∈ (u.insts.find i).elim [] (·.nodes), n.st ≠ .waiting) ∧
  (∀ (s : State) i x, s.arg = .unit i → s.insts.find i = some x → s.instEnds i x = true → x.restartable = false →
    ∃ u, exec .instanceEnd s = .next u ∧ u.insts.find i = none ∧ i ∉ u.tokens ∧
      ∀ k f, x.notify = .flag k f → f ≠ 0 →
        let told : Bool := (s.cluster k).part = x.part && !(s.part x.part).resetting
        u.clusFlag k f = if told then s.clusFlag k f + 1 else s.clusFlag k f)

/-! ## Expert queues -/

/-- R275 to R284: XQPUSH adds a descriptor, XQTAKE copies the batch out, XQCOMB reads its arrival bits and hands its
combination to an engine; the slot fires the queue it picks, and the combination sums the rows. What becomes of a queue that
cannot fire is the model's reading (assumption 29). -/
def Obligations.ExpertQueues : Prop :=
  (∀ q a queue (s : State) x y, Fires q [a] [] s → Quiet s.myCore → s.xq (s.partOf s.me) queue.toNat = some x →
    xqNear (s.myCore.reg a).toNat = true →
    let loc := nearLoc s.me + ((s.myCore.reg a).toNat - ownNear)
    let b := BitVec.ofNat 128 (bytesNat (s.homeBytes loc 16))
    s.unc loc 16 = false → b.extractLsb' 28 4 = 0 → b.extractLsb' 80 2 = 0 →
    x.push (s.spillFree (s.partOf s.me)) ⟨b, s.instOf s.me, s.cycle⟩ s.cycle = some y →
    ∃ t, exec (.xqpush q a queue) s = .next t ∧ Moved s.myCore t.myCore ∧ t.mem = s.mem ∧
      (t.part (s.partOf s.me)).xqs.find queue.toNat = some y ∧ y.descs = x.descs ++ [⟨b, s.instOf s.me, s.cycle⟩]) ∧
  (∀ q d a b queue maxm1 (s : State) y ds, Fires q [d, a, b] [] s → s.insts.find (s.instOf s.me) = some y →
    y.batch = some (queue.toNat, ds) → xqNear (s.myCore.reg a).toNat = true →
    let i := (s.myCore.reg b).toNat
    let m := min (maxm1.toNat + 1) (ds.length - i)
    (s.myCore.reg a).toNat + 16 * m ≤ ownNear + nearSize →
    ∃ t, exec (.xqtake q d a b queue maxm1) s = .next t ∧
      MovedTo s.myCore t.myCore d (BitVec.ofNat 64 (ds.length * 65536 + m)) ∧
      t.mem = memWrite s.mem (nearLoc s.me + ((s.myCore.reg a).toNat - ownNear))
        (((ds.drop i).take m).map fun x => natBytes 16 x.bits.toNat).flatten) ∧
  (∀ q ty d a b flag km1 (s : State) rs ds cs, Fires q [d, a, b] [] s → s.myCore.inh = false → s.myCore.writesOut = false →
    let w := s.myCore.xqWidth.toNat
    let stride := s.myCore.xqStride.toNat * 64
    let row := (s.myCore.reg a).toNat
    let dst := (s.myCore.reg b).toNat
    0 < w → w ≤ 16384 → w * (ty.bits / 8) ≤ stride → row % 64 = 0 → dst % 64 = 0 →
    combPieces s (s.whoCore s.me) row dst (km1.toNat + 1) stride (w * (ty.bits / 8)) = .ok (rs, ds, cs) → EngineFree s →
    s.piecesUnc cs = none → Unwatched s false (pieceRuns (rs ++ cs)) → Unwatched s true (pieceRuns (ds ++ cs)) →
    ∃ t, exec (.xqcomb q ty d a b flag km1) s = .next t ∧
      MovedTo s.myCore t.myCore d (BitVec.ofNat 64 (bytesNat (s.pieceBytes s.me cs) % 65536)) ∧ t.mem = s.mem ∧
      Accepted s t flag (.combine ty row dst (km1.toNat + 1) stride w) []) ∧
  (∀ (s : State) d p n x ds rest r, s.arg = .pair d p → s.quiesced = false → s.xqPick p d = some (n, x) →
    cutBatch s.tokenAt x.batchMax (x.standing s.cycle).descs = (ds, rest) → ds ≠ [] → s.boundRecord p x = .ok r →
    ∃ t i y, exec .xqFiringSlot s = .next t ∧ (t.part p).xqs.find n = some (x.afterCut (rest ++ x.landing s.cycle) true s.cycle) ∧
      t.insts.find i = some y ∧ y.batch = some (n, ds) ∧ y.part = p ∧ y.nodes.map (·.record) = [r] ∧ t.mem = s.mem) ∧
  (∀ s : State, exec .xqAgeDue s = .next s) ∧
  (∀ (s : State) p n x, s.arg = .pair p n → s.xq p n = some x →
    ∃ t, exec .xqSpillRefill s = .next t ∧ t.mem = s.mem ∧
      (t.part p).xqs.find n = some { x with near := min 4096 x.descs.length }) ∧
  (∀ (s : State) i c ty row dst k stride width, s.arg = .unit i → s.cmd i = some c → AllStarted s → c.node = none →
    c.kind = .combine ty row dst k stride width → s.combReady c row k = true →
    let ps := (List.range k).map fun j => cmdPieces s c .rd [(row + (j + 1) * stride, width * (ty.bits / 8))]
    let cw := cmdPieces s c .both [(row - 8, 8)]
    s.piecesUnc (ps.flatten ++ cw) = none →
    ∃ t, exec .xqcombCombine s = .next t ∧ t.cmds = s.cmds.filter (fun x => x.id != c.id) ∧
      t.mem = memRuns (memRuns s.mem (pieceRuns (cmdPieces s c .wr [(dst, width * (ty.bits / 8))]))
        ((List.range width).map fun e => natBytes (ty.bits / 8)
          (combRow ty (ps.map fun p => s.runsBytes (pieceRuns p)) e)).flatten) (pieceRuns cw) (natBytes 8 0))

/-! ## Retrieval -/

/-- R289, R292, R302 to R306, R311: SRCH starts a search, IXAPP appends, KVBIND queues a binding, and KVPOS and KVLOOK write
and read slots of a sequence or entries of a prefix index. The first search number and the reading of descriptors are the
model's choices (assumptions 6, 30 and 32). -/
def Obligations.RetrievalWords : Prop :=
  (∀ q d a b ring (s : State) y, Fires q [d, a, b] [] s → s.myCore.inh = false → Quiet s.myCore →
    checkSearch (released s) (s.whoCore s.me) (s.myCore.reg a).toNat ((released s).ringName s.me (s.myCore.reg b) ring.toNat)
      ring.toNat = .ok y → y.queryOk = true →
    ∃ t, exec (.srch q d a b ring) s = .next t ∧ MovedTo s.myCore t.myCore d (s.searchCount.setWidth 64) ∧ t.mem = s.mem ∧
      t.searchCount = s.searchCount + 1 ∧ t.searches.find s.nextId = some
        { y.search with inst := s.instOf s.me, snum := s.searchCount.toNat, flagHome := clusOf s.me }) ∧
  (∀ q d a flag (s : State) loc bs e x vec, Fires q [d, a] [] s → Quiet s.myCore →
    nearRecord s (s.myCore.reg a).toNat 64 = some (loc, bs) → s.unc loc 64 = false → appendOk bs = true →
    s.obj (s.partOf s.me) (wfld (dwordAt bs 0) 0 16) = some e → s.indexOf (s.partOf s.me) e = some x →
    appendVector s ((dwordAt bs 0).getLsbD 16) (dwordAt bs 16).toNat x.props.d = .ok vec → x.log.length - x.mg < x.props.logcap →
    ∃ t, exec (.ixapp q d a flag) s = .next t ∧ MovedTo s.myCore t.myCore d (BitVec.ofNat 64 x.log.length) ∧ t.mem = s.mem ∧
      t.store e.ns e.store =
        some (.index { x with log := x.log ++ [⟨(dwordAt bs 0).getLsbD 16, dwordAt bs 8, vec⟩] })) ∧
  (∀ q d a b flag (s : State) loc bs x e, Fires q [d, a, b] [] s → s.myCore.inh = false → Quiet s.myCore →
    nearRecord s (s.myCore.reg b).toNat 32 = some (loc, bs) → s.unc loc 32 = false → passageOk bs = true →
    checkSeq s (s.whoCore s.me) (s.myCore.reg a).toNat = .ok x → checkBind (released s) x bs = .ok e →
    ∃ t y, exec (.kvbind q d a b flag) s = .next t ∧ MovedTo s.myCore t.myCore d 0 ∧ t.mem = s.mem ∧ t.binds = s.binds ++ [y] ∧
      y.id = s.nextId ∧ y.inst = s.instOf s.me ∧ y.core = s.me ∧ y.flag = flag.toNat ∧ y.pid = dwordAt bs 8) ∧
  (∀ q d a b c (s : State) x, Fires q [d, a, b, c] [] s → Quiet s.myCore →
    checkSeq s (s.whoCore s.me) (s.myCore.reg a).toNat = .ok x → (s.myCore.reg b).toNat < 2 ^ 32 → (s.myCore.reg c).toNat < 2 ^ 32 →
    (s.myCore.reg c).toNat < entExt x.pool 1 →
    let k := x.slotOf (s.myCore.reg b).toNat
    s.unc (x.slotAt k.1) 8 = false →
    ∃ t, exec (.kvposPos q d a b c) s = .next t ∧
      MovedTo s.myCore t.myCore d (bytesWord (s.homeBytes (x.slotAt k.1) 8)) ∧
      t.mem = memWrite s.mem (x.slotAt k.1) (natBytes 8 (2 ^ 63 + k.2 * 2 ^ 32 + (s.myCore.reg c).toNat))) ∧
  (∀ q d a b (s : State) x psg i gen, Fires q [d, a, b] [] s → s.myCore.writesOut = false → checkSeq s (s.whoCore s.me) (s.myCore.reg a).toNat = .ok x →
    x.lookupSlot psg (s.myCore.reg b).toNat = some (i, gen) → s.unc (x.slotAt i) 8 = false → s.unc x.loc 64 = false →
    let f := judgeSlot (bytesWord (s.coreBytes s.me (x.slotAt i) 8)) gen
    let r := s.drainGran s.me (x.loc / 64)
    let bumped (a : Nat) := memWrite r.mem a (natBytes 8 (bytesNat (r.homeBytes a 8) + 1))
    ∃ t, exec (if psg then .kvlookPsg q d a b else .kvlookPos q d a b) s = .next t ∧
      MovedTo s.myCore t.myCore d (match f with | .block n => BitVec.ofNat 64 (x.blockVa n) | _ => 0) ∧ t.myCore.staging = [] ∧
      t.mem = (match f with
        | .block _ => s.mem
        | .empty => bumped (x.loc + 0x18)
        | .stale => bumped (x.loc + 0x10))) ∧
  (∀ q d a b (s : State) k, Fires q [d, a, b] [] s → s.myCore.writesOut = false → checkPrefix s .rd (s.myCore.reg a).toNat (s.myCore.reg b).toNat = .ok k →
    ∃ t, exec (.kvlookPfx q d a b) s = .next t ∧ t.myCore.staging = [] ∧
      MovedTo s.myCore t.myCore d (((s.bucketOf k).find? k.matches).elim 0 fun e => dwordAt e 8)) ∧
  (∀ q d a b c (s : State) k, Fires q [d, a, b, c] [] s → Quiet s.myCore →
    checkPrefix (released s) .both (s.myCore.reg a).toNat (s.myCore.reg b).toNat = .ok k → s.myCore.reg c ≠ 0 →
    ∃ t, exec (.kvposPfx q d a b c) s = .next t ∧
      MovedTo s.myCore t.myCore d (k.insert (s.bucketOf k) (s.myCore.reg c)).2 ∧
      (s.mem.wf = true → (k.bucket + 256 ≤ k.desc + 0x28 ∨ k.desc + 0x30 ≤ k.bucket) →
        t.homeBytes k.bucket 256 = (k.insert (s.bucketOf k) (s.myCore.reg c)).1.flatten))

/-- R288 to R291, R295, R299, R301, R306: the flash controllers' events. That a new index has generation 0, merge position 0
and an empty log is the model's choice (assumption 6); which reads may complete next, and that a commit of a generation which
breaks R288 or R289 is none, are its readings (assumptions 30 and 31). R337: the acts of service firmware on an index wait for
firmware that runs. -/
def Obligations.ControllerEvents : Prop :=
  (∀ (s : State) i x, s.arg = .unit i → s.appends.find? (·.id = i) = some x → x.flag ≠ 0 →
    ∃ t, exec .ixappDurable s = .next t ∧ t.appends = s.appends.filter (fun y => y.id != i) ∧
      t.clusFlag x.clus x.flag = s.clusFlag x.clus x.flag + 1 ∧ t.mem = s.mem) ∧
  (∀ (s : State) i b blocks, s.arg = .unit i → s.binds.find? (·.id = i) = some b → s.passage b = some blocks →
    (blocks.length = b.nblk →
      ∃ t, exec .kvbindComplete s = .next t ∧ t.binds = s.binds.filter (fun y => y.id != i) ∧
        (b.flag ≠ 0 → t.clusFlag (clusOf b.core) b.flag = s.clusFlag (clusOf b.core) b.flag + 1) ∧
        (s.mem.wf = true → ∀ k, k < b.nblk → t.homeBytes (b.slotLoc + 8 * k) 8 = natBytes 8 (2 ^ 63 + (b.blk0 + k)))) ∧
    (blocks.length ≠ b.nblk → ∀ x, s.insts.find b.inst = some x → x.cancelled = none →
      ∃ t, exec .kvbindComplete s = .next t ∧ (t.insts.find b.inst).bind (·.cancelled) = some cKVPSG ∧ t.mem = s.mem)) ∧
  (∀ (s : State) n i ok more x y tr, s.arg = .flash n i ok more → s.searches.find n = some x → x.mayRead i more = true →
    (if x.props.graph then x.readGraph i more ok else x.readList i ok) = some (y, tr) → x.slot = none →
    let z := y.chooseLists.judge
    (z.finished = false →
      ∃ t, exec .flashReadComplete s = .next t ∧ t.searches.find n = some z ∧ t.mem = s.mem) ∧
    (∀ k r, z.finished = true → z.node = none → (s.ring z.ringClus z.ring).claim = some (k, r) →
      ∃ t, exec .flashReadComplete s = .next t ∧ t.searches.find n = none ∧
        t.ring z.ringClus z.ring = (r.publish k).getD r ∧
        t.mem = memWrite s.mem (r.slotLoc z.ringClus k) z.resultBytes)) ∧
  (∀ (s : State) ns name m g x, s.arg = .merge ns name m g → s.firmware = .running → s.store ns name = some (.index x) → x.mg ≤ m → m ≤ x.log.length →
    genOk g x.props = true →
    sameMembers (applyLog (indexVectors x.props x.cur) ((x.log.drop x.mg).take (m - x.mg))) (indexVectors x.props g) = true →
    ∃ t, exec .indexMergeCommit s = .next t ∧ t.mem = s.mem ∧
      t.store ns name = some (.index { x with gen := x.gen + 1, mg := m, cur := g })) ∧
  (∀ (s : State) ns name st, s.arg = .store ns name st → s.firmware = .running → s.store ns name = none → newStoreOk st = true →
    ∃ t, exec .indexCreate s = .next t ∧ t.mem = s.mem ∧ t.store ns name = some (match st with
      | .index q g => .index ⟨q, 0, 0, g, []⟩
      | .passages ps => .passages ps)) ∧
  (∀ (s : State) ns name, s.arg = .pair ns name → s.firmware = .running →
    ∃ t, exec .indexRemove s = .next t ∧ t.store ns name = none ∧ t.mem = s.mem) ∧
  (∀ s : State, s.firmware ≠ .running → ∀ i ∈ [Instr.indexMergeCommit, .indexCreate, .indexRemove], exec i s = .next s)

/-! ## The Pavane -/

/-- R315, R318: the stack words of a Pavane; jumps, WAIT, SIG and HALT; a flow that leaves the control store is PVILL. That a
word or an event that waits, or whose condition does not hold, leaves the state as it was is the model's reading (assumption
15). -/
def Obligations.PavaneWords : Prop :=
  ((∀ n, Micro (.pavaneLit n) fun p => some (n.setWidth 64 :: p.stack)) ∧
  (∀ n, Micro (.pavaneLith n) fun p => match p.stack with
    | x :: st => some (((x <<< 11) + n.setWidth 64) :: st)
    | [] => none) ∧
  (∀ k : BitVec 4, Micro (.pavaneParm k) fun p => some (p.params.getD k.toNat 0 :: p.stack)) ∧
  (Micro .pavaneDup fun p => match p.stack with
    | x :: st => some (x :: x :: st)
    | [] => none) ∧
  (Micro .pavaneDrop fun p => match p.stack with
    | _ :: st => some st
    | [] => none) ∧
  (Micro .pavaneSwap fun p => match p.stack with
    | b :: a :: st => some (a :: b :: st)
    | _ => none) ∧
  (Micro .pavaneOver fun p => match p.stack with
    | b :: a :: st => some (a :: b :: a :: st)
    | _ => none) ∧
  Micro2 .pavaneAdd (fun a b => a + b) ∧ Micro2 .pavaneSub (fun a b => a - b) ∧ Micro2 .pavaneMul (fun a b => a * b)) ∧
  ((∀ off (s : State) p, AtWord s p →
    let z := microTarget p off
    (0 ≤ z → z < 4096 → exec (.pavaneJmp off) s = .next (stepTo s p p.stack z.toNat)) ∧
    (z < 0 ∨ 4096 ≤ z → exec (.pavaneJmp off) s = .next (s.passFault s.clus p.pc cPVILL)) ∧
    (∀ x st, p.stack = x :: st → 0 ≤ z → z < 4096 → p.pc + 1 < 4096 →
      exec (.pavaneBz off) s = .next (stepTo s p st (if x = 0 then z.toNat else p.pc + 1)) ∧
      exec (.pavaneDjnz off) s = .next (if x = 1 then stepTo s p st (p.pc + 1) else stepTo s p ((x - 1) :: st) z.toNat)) ∧
    (p.stack = [] → exec (.pavaneBz off) s = .next (s.passFault s.clus p.pc cPVSTACK) ∧
      exec (.pavaneDjnz off) s = .next (s.passFault s.clus p.pc cPVSTACK))) ∧
  (∀ (g : BitVec 4) (s : State) p, AtWord s p → p.pc + 1 < 4096 →
    ((∀ o ∈ p.ops, g.getLsbD (opGroup o.op) = false) → exec (.pavaneWait g) s = .next (stepTo s p p.stack (p.pc + 1))) ∧
    ((∃ o ∈ p.ops, g.getLsbD (opGroup o.op) = true) → exec (.pavaneWait g) s = .next s)) ∧
  (∀ (f : BitVec 10) (s : State) p, s.passOf s.clus = some p → p.pc + 1 < 4096 →
    (p.ops ≠ [] → exec (.pavaneSig f) s = .next s) ∧
    (p.ops = [] → ∃ t, exec (.pavaneSig f) s = .next t ∧ t.mem = s.mem ∧
      t.passOf s.clus = some { p with pc := p.pc + 1 } ∧
      (f ≠ 0 → t.clusFlag s.clus f.toNat = s.clusFlag s.clus f.toNat + 1))) ∧
  (∀ (s : State) p, s.passOf s.clus = some p →
    (p.ops ≠ [] → exec .pavaneHalt s = .next s) ∧
    (p.ops = [] → p.node = none → (s.cluster s.clus).pav.reqs = [] →
      ∃ t, exec .pavaneHalt s = .next t ∧ t.passOf s.clus = none ∧ t.mem = s.mem ∧
        (p.flag ≠ 0 → t.clusFlag s.clus p.flag = s.clusFlag s.clus p.flag + 1) ∧
        ∀ g ∈ coresOf s.clus, (t.core g).tile 2 = 0 ∧ (t.core g).tile 3 = 0 ∧
          (t.core g).tile 0 = (s.core g).tile 0 ∧ (t.core g).tile 1 = (s.core g).tile 1)))

/-- R315 to R317, R319: the launch words. KVBLK takes its position off the stack, and reads its slot when its buffer is free.
Every micro-word waits while a FINAL is unfinished. That an operation takes its whole effect at its completion is the model's
reading (assumption 33). That a word or an event that waits, or whose condition does not hold, leaves the state as it was is
the model's reading (assumption 15). -/
def Obligations.PavaneLaunchWords : Prop :=
  (∀ b : BitVec 2, Launches (.pavaneQk b) 0x11 b.toNat ∧ Launches (.pavaneSoft b) 0x12 b.toNat ∧ Launches (.pavanePv b) 0x13 b.toNat) ∧
  Launches .pavaneFinal 0x14 0 ∧ Launches .pavaneTriple 0x15 0 ∧
  ((∀ n, Waits (.pavaneLit n) ∧ Waits (.pavaneLith n) ∧ Waits (.pavaneJmp n) ∧ Waits (.pavaneBz n) ∧ Waits (.pavaneDjnz n)) ∧
  (∀ k, Waits (.pavaneParm k) ∧ Waits (.pavaneWait k)) ∧ (∀ f, Waits (.pavaneSig f)) ∧ (∀ r b, Waits (.pavaneKvblk r b)) ∧
  (∀ b, Waits (.pavaneQk b) ∧ Waits (.pavaneSoft b) ∧ Waits (.pavanePv b)) ∧
  ∀ i ∈ [Instr.pavaneDup, .pavaneDrop, .pavaneSwap, .pavaneOver, .pavaneAdd, .pavaneSub, .pavaneMul, .pavaneHalt, .pavaneFinal,
    .pavaneTriple, .pavaneMerge, .pavaneRev], Waits i) ∧
  (∀ (region : BitVec 1) (b : BitVec 2) (s : State) p x st, AtWord s p → s.tokenAt p.inst = false →
    p.stack = x :: st → (p.ops.filter fun e => opGroup e.op = 2).length < 4 → p.pc + 1 < 4096 →
    let o (first : Option Word) : PavOp := ⟨p.pc, 0x10, b.toNat, region = 1, x, first, none⟩
    let enters (f : Option Word) : State :=
      s.setPass s.clus (some { p with stack := st, ops := p.ops ++ [o f], pc := p.pc + 1 })
    ((∃ e ∈ p.ops, e.usesBuf = true ∧ e.buf = b.toNat) → exec (.pavaneKvblk region b) s = .next (enters none)) ∧
    ((∀ e ∈ p.ops, e.usesBuf = true → e.buf ≠ b.toNat) → ∀ y loc g, kvblkSlot s s.clus { p with stack := st } (region = 1) x = .ok (y, loc, g) →
      exec (.pavaneKvblk region b) s = .next (enters (some (bytesWord (s.homeBytes loc 8)))))) ∧
  (∀ (s : State) p loc, AtWord s p → p.stateBusy = false → groupLoc s s.clus p .rd = .ok loc → p.pc + 1 < 4096 →
    exec .pavaneRev s = .next (s.setPass s.clus (some
      { p with revn := BitVec.ofNat 32 (bytesNat (s.homeBytes loc 4) + 1), pc := p.pc + 1 }))) ∧
  (∀ (s : State) p, AtWord s p → s.tokenAt p.inst = false → p.mergeBusy = true → exec .pavaneMerge s = .next s) ∧
  (∀ (s : State) p, AtWord s p → s.tokenAt p.inst = false → p.mergeBusy = false → p.stack.length < 8 →
    (s.ringOf p.part s.clus p.inRing).isSome = true → (p.ops.filter fun e => opGroup e.op = 3).length < 4 →
    let r := s.ring s.clus p.inRing
    (r.take = none → ∃ t, exec .pavaneMerge s = .next t ∧ t.mem = s.mem ∧
      let wait : Nat := 2 ^ ((p.params.getD 5 0).extractLsb' 8 8).toNat
      t.passOf s.clus = some { p with mergeDeadline := some (p.mergeDeadline.getD (s.cycle + wait)) }) ∧
    (∀ i r', r.take = some (i, r') → s.unc (r.slotLoc s.clus i) p.tripleBytes = false → p.pc + 1 < 4096 →
      let bs := s.homeBytes (r.slotLoc s.clus i) p.tripleBytes
      ((dwordAt bs 0).extractLsb' 0 32).toNat = p.revn.toNat →
      ∃ t, exec .pavaneMerge s = .next t ∧ t.mem = s.mem ∧ t.ring s.clus p.inRing = (r'.release i).getD r' ∧
        t.passOf s.clus = some { p.load bs with stack := BitVec.ofNat 64 (p.load bs).hop :: p.stack, pc := p.pc + 1 }))

/-- R312, R313, R316 to R320: ASTART asks for a pass, sixteen agreeing requests start one, and its operations complete: QK
gives the scores, SOFT the probabilities and the new m, l and O, PV the accumulated O, FINAL writes the output and, in a ring,
LASTREV; TRIPLE sends the working state and ends when it is published. A MERGE that waits past its deadline and a lost
requester fail the pass. The number ASTART returns, the effect of an operation at its completion, the layout of a payload and
the exactly rounded Exp are the model's readings (assumptions 6, 33, 34 and 55). -/
def Obligations.AttentionPasses : Prop :=
  (∀ q d a flag (s : State) loc, Fires q [d, a] [] s → s.myCore.inh = false → s.inSixteen s.me = true →
    astartPlace (s.myCore.reg a).toNat = true → blockLoc s (clusOf s.me) (s.partOf s.me) (s.myCore.reg a).toNat = some loc →
    Quiet s.myCore →
    let pav := (s.cluster (clusOf s.me)).pav
    let r : PavReq := ⟨s.me, s.instOf s.me, s.myCore.task, s.myCore.reg a, flag⟩
    firstReqs (clusOf s.me) (pav.reqs ++ [r]) = none →
    ∃ t, exec (.astart q d a flag) s = .next t ∧ t.mem = s.mem ∧ (t.cluster (clusOf s.me)).pav.reqs = pav.reqs ++ [r] ∧
      MovedTo s.myCore t.myCore d (BitVec.ofNat 64 (passNumber (clusOf s.me) pav s.myCore.task s.me))) ∧
  (∀ (s : State) k r rs, firstReqs k (s.cluster k).pav.reqs = some (r :: rs) → (∀ x ∈ rs, x.blk = r.blk ∧ x.flag = r.flag) →
    s.passOf k = none → ∀ p, checkPass (takeReqs s k r.task) k (s.cluster k).part r.blk.toNat = .ok p →
    (s.tryPass k).passOf k = some { p with inst := r.inst, node := none, flag := r.flag.toNat } ∧ (s.tryPass k).mem = s.mem) ∧
  (∀ (s : State) k p i o, s.arg = .unit k → s.passOf k = some p → p.nextOp = some i → p.ops[i]? = some o → o.buf < 4 →
    let ops := p.ops.eraseIdx i
    let b := p.buf o.buf
    let ends (f : Pass → Prop) : Prop :=
      ∃ t p', exec .pavaneOperationComplete s = .next t ∧ t.passOf k = some p' ∧ t.mem = s.mem ∧ p'.ops = ops ∧ f p'
    (o.op = 0x11 → p.fmt ≠ .mx4 → ends fun p' => (∀ r j, r < p.qry.length → j < 64 →
        ((p'.buf o.buf).scores.getD r []).getD j 0 = scoreOf p b r j) ∧
      (p'.m, p'.l, p'.o, p'.pc, p'.stack) = (p.m, p.l, p.o, p.pc, p.stack) ∧ ∀ c, c ≠ o.buf → p'.buf c = p.buf c) ∧
    (o.op = 0x12 → ends fun p' => (∀ r, r < p.rows →
        let x := softOf (p.m.getD r 0) (p.l.getD r 0) (b.scores.getD r [])
        p'.m.getD r 0 = x.1 ∧ (p'.buf o.buf).probs.getD r [] = x.2.2.1 ∧ p'.l.getD r 0 = x.2.2.2 ∧
        p'.o.getD r [] = (p.o.getD r []).map fun e => BitVec.ofNat 32 (fMul fmtF32 .rne false x.2.1.toNat e.toNat).1) ∧
      (p'.pc, p'.stack, p'.qry) = (p.pc, p.stack, p.qry) ∧ ∀ c, c ≠ o.buf → p'.buf c = p.buf c) ∧
    (o.op = 0x13 → p.fmt ≠ .mx4 → (∀ r, r < p.o.length → (b.probs.getD r []).length = 64 ∧ (p.o.getD r []).length = p.dh) →
      ends fun p' => (∀ r e, r < p.o.length → e < p.dh →
        (p'.o.getD r []).getD e 0 = pvOf p b (b.probs.getD r []) e ((p.o.getD r []).getD e 0)) ∧
      (p'.m, p'.l, p'.pc, p'.stack, p'.bufs) = (p.m, p.l, p.pc, p.stack, p.bufs)) ∧
    (∀ u x, o.op = 0x10 → s.kvblk k p o = .ok (u, x) →
      ∃ t, exec .pavaneOperationComplete s = .next t ∧ t.passOf k = some { p.setBuf o.buf x with ops := ops } ∧ t.mem = u.mem) ∧
    (∀ ps, o.op = 0x14 → locatePieces (p.view s) (pavWho k p.part) .wr p.outPieces = .ok ps →
      let out := memRuns s.mem (pieceRuns ps) ((List.range (min p.rows (entExt p.oent 1))).map p.outRow).flatten
      let writes (m : Memory) : Prop :=
        ∃ t, exec .pavaneOperationComplete s = .next t ∧ t.passOf k = some { p with ops := ops } ∧ t.mem = m
      (p.ring = false → writes out) ∧
      (∀ loc, p.ring = true → groupLoc s k p .wr = .ok loc → writes (memWrite out loc (natBytes 4 p.revn.toNat)))) ∧
    (o.op = 0x15 → desigOk s p.part (p.params.getD 4 0) = true → desigRemote (p.params.getD 4 0) = false →
      (s.quiesced && s.inDomain) = false →
      let d := p.params.getD 4 0
      let room := (s.ring (desigClus d) (desigRing d)).slotsz.toNat
      ((triplePayload p).length ≤ room → ∃ t y, exec .pavaneOperationComplete s = .next t ∧ t.mem = s.mem ∧
        t.deliveries = s.deliveries ++ [y] ∧ y.clus = desigClus d ∧ y.ring = desigRing d ∧ y.bytes = triplePayload p ∧ y.pav = some k ∧
        t.passOf k = some { p with ops := p.ops.set i { o with sent := some y.id } }) ∧
      (room < (triplePayload p).length → exec .pavaneOperationComplete s = .next (s.passFault k o.pc cPVREC)))) ∧
  (∀ (s : State) n x i r k p, s.arg = .pair 2 n → s.deliveries.find? (·.id = n) = some x → x.pav = some k → s.deliveryBehind x = false →
    (s.ring x.clus x.ring).claim = some (i, r) → s.passOf k = some p →
    ∃ t, exec .ringDelivery s = .next t ∧ t.passOf k = some { p with ops := p.ops.filter fun o => o.sent ≠ some n } ∧
      t.deliveries = s.deliveries.filter (fun y => y.id != n) ∧ t.mem = memWrite s.mem (r.slotLoc x.clus i) x.bytes ∧
      t.ring x.clus x.ring = (r.publish i).getD r) ∧
  (∀ (s : State) k p dl, s.arg = .unit k → s.passOf k = some p → p.mergeDeadline = some dl → dl ≤ s.cycle →
    exec .pavaneMergeTimeout s = .next (s.passFault k p.pc cRINGFAIL)) ∧
  (∀ (s : State) k r rs g, s.arg = .unit k → (s.cluster k).pav.reqs = r :: rs → g ∈ coresOf k → s.partEnded r.task g = true →
    (∀ x ∈ r :: rs, x.task = r.task → x.core ≠ g) →
    exec .pvlost s = .next ((s.clearReqs k r.inst).raiseCancel r.inst cPVLOST))

/-! ## Rings and peer links -/

/-- R208, R229, R240, R241, R343, R344, R374: a local SEND publishes its payload, and waits while its domain takes a
checkpoint; a payload from a peer waits for a slot and is published, one that fails its checks writes nothing and is rejected
to its sender; a remote contribution is held or applied as a local one is, is rejected when a check of its destination fails,
when it differs from its round, or at an uncorrectable error, and waits where its receive side may not take it yet; a port
that carries no message goes down at its failure, with the other ports, the messages and storage as they were; FLIT_REPLAY
changes nothing. What a link does below its messages is left out (assumptions 41 and 53); the home of DFLAG, and which
contribution a round turns away, are the model's readings (assumption 74). That a word or an event that waits, or whose
condition does not hold, leaves the state as it was is the model's reading (assumption 15). -/
def Obligations.DeliveryAndLinkEvents : Prop :=
  (∀ (s : State) n c src desig i r, s.arg = .unit n → s.cmd n = some c → c.kind = .send src desig → AllStarted s → c.node = none →
    c.die = false → desigRemote desig = false → s.sendBehind c desig = false → (s.quiesced && s.inDomain) = false →
    (s.ring (desigClus desig) (desigRing desig)).claim = some (i, r) → s.piecesUnc (cmdPieces s c .rd src.runs) = none →
    ∃ t, exec .ringDelivery s = .next t ∧ t.cmds = s.cmds.filter (fun x => x.id != c.id) ∧
      t.mem = memWrite s.mem (r.slotLoc (desigClus desig) i) (s.runsBytes (pieceRuns (cmdPieces s c .rd src.runs))) ∧
      t.ring (desigClus desig) (desigRing desig) = (r.publish i).getD r) ∧
  (∀ (s : State) n c src desig, s.arg = .unit n → s.cmd n = some c → c.kind = .send src desig → s.quiesced = true →
    s.inDomain = true → exec .ringDelivery s = .next s) ∧
  (∀ (s : State) n x i r, s.arg = .pair 2 n → s.deliveries.find? (·.id = n) = some x → x.pav = none → s.deliveryBehind x = false →
    (s.ring x.clus x.ring).claim = some (i, r) →
    ∃ t, exec .ringDelivery s = .next t ∧ t.deliveries = s.deliveries.filter (fun y => y.id != n) ∧
      t.mem = memWrite s.mem (r.slotLoc x.clus i) x.bytes ∧ t.ring x.clus x.ring = (r.publish i).getD r) ∧
  (∀ (s : State) pl, s.arg = .payload pl → s.inDomain = true → s.ports.getLsbD pl.port = true → pl.red = false →
    (s.takesPayload pl = true → ∃ t y, exec .peerPayloadArrival s = .next t ∧ t.deliveries = s.deliveries ++ [y] ∧
      y.clus = pl.clus ∧ y.ring = pl.ring ∧ y.bytes = pl.data ∧ t.mem = s.mem) ∧
    (s.takesPayload pl = false →
      exec .peerPayloadArrival s = .next { s with rejects := s.rejects ++ [⟨pl.srcDev, pl.inst, cREMOTEREJ⟩] })) ∧
  (∀ (s : State) pl, s.arg = .payload pl → s.inDomain = true → s.ports.getLsbD pl.port = true → pl.red = true →
    let rejects (cause : Nat) : Prop :=
      exec .peerPayloadArrival s = .next { s with rejects := s.rejects ++ [⟨pl.srcDev, pl.inst, cause⟩] }
    (redPayload s pl = none → rejects cREMOTEREJ) ∧
    (∀ x, redPayload s pl = some x →
      (x.ty, x.op, x.ordered, x.srcs, x.rank, x.dflag, x.data) = (pl.rtype, pl.rop, pl.ordered, pl.srcs, pl.rank, pl.dflag, pl.data) ∧
      pl.dtag.isSome = true ∧ (s.part x.who.part).dtag = pl.dtag ∧
      (∃ e, s.obj x.who.part pl.obj = some e ∧ entRight e.bits 3 = true ∧ entFmt e.bits = pl.rtype ∧
        boxIn e.bits pl.pos pl.box = true ∧ pl.data.length = boxBytes e.bits pl.box ∧ (pl.ordered = true → pl.rank < pl.srcs)) ∧
      (x.mixed s = true → rejects cREDMIX) ∧
      (x.mixed s = false → x.waits s = true → exec .peerPayloadArrival s = .next s) ∧
      (x.mixed s = false → x.waits s = false →
        ((s.piecesUnc (x.pieces s)).isSome = true → rejects cMEMUNC) ∧
        (s.piecesUnc (x.pieces s) = none → AllStarted s → ∃ t, exec .peerPayloadArrival s = .next t ∧ RedEffect s t x)))) ∧
  (∀ (s : State) port, s.arg = .unit port → port < 16 → (∀ m ∈ s.links, m.port ≠ port) →
    ∃ t, exec .linkPortFail s = .next t ∧ t.ports.getLsbD port = false ∧
      (∀ q, q ≠ port → t.ports.getLsbD q = s.ports.getLsbD q) ∧ t.links = s.links ∧ t.mem = s.mem) ∧
  (∀ s : State, exec .flitReplay s = .next s)

/-! ## Control registers and system calls -/

/-- R11, R79, R81, R83, R86, R355, R356: what CSRR reads of the core's own registers, and what the writes to them leave.
Clearing bit by bit where several bits are written is the model's reading (assumption 51). That a word or an event that waits,
or whose condition does not hold, leaves the state as it was is the model's reading (assumption 15). -/
def Obligations.ControlRegisters : Prop :=
  (∀ d csr (s : State) v, csrValue s s.me csr.toNat = some v → s.myCore.ready [d] [] = true →
    (s.myCore.csrWaits csr.toNat = false → Replies (.csrr d csr) s d v) ∧
    (s.myCore.csrWaits csr.toNat = true → exec (.csrr d csr) s = .next s)) ∧
  (∀ (s : State) g, csrValue s g 0x002 = some (BitVec.ofNat 64 s.cycle) ∧
    csrValue s g 0x011 = some ((s.core g).fpstat.setWidth 64) ∧ csrValue s g 0x012 = some (s.core g).seed ∧
    csrValue s g 0x060 = some ((s.core g).joinTimeout.setWidth 64) ∧ csrValue s g 0x0A0 = some ((s.core g).hndCtl.setWidth 64) ∧
    csrValue s g 0x0A1 = some ((s.core g).hndBase.setWidth 64) ∧ csrValue s g 0x0C0 = some ((s.core g).traceCtl.setWidth 64) ∧
    ∀ i, i < 8 → csrValue s g (0x0A8 + i) = some (repWord (s.core g).faultRep i)) ∧
  (∀ (s : State) g, g < 512 → s.partOf g < 8 → ∃ v, csrValue s g 0x000 = some v ∧ v.extractLsb' 0 4 = BitVec.ofNat 4 (g % 16) ∧
    v.extractLsb' 4 3 = BitVec.ofNat 3 (clusOf g % 8) ∧ v.extractLsb' 7 2 = BitVec.ofNat 2 (dieOf g) ∧
    v.extractLsb' 9 9 = BitVec.ofNat 9 g ∧ v.extractLsb' 18 5 = BitVec.ofNat 5 (clusOf g) ∧
    v.extractLsb' 23 3 = BitVec.ofNat 3 (s.partOf g) ∧ v.extractLsb' 26 38 = 0) ∧
  WritesCsr 0x011 (fun c v => { c with fpstat := c.fpstat &&& ~~~(v.extractLsb' 0 8) }) ∧
  WritesCsr 0x060 (fun c v => { c with joinTimeout := v.extractLsb' 0 32 }) ∧
  WritesCsr 0x080 (fun c v => { c with xqWidth := v.extractLsb' 0 16, xqStride := v.extractLsb' 16 24 }) ∧
  WritesCsr 0x0A0 (fun c v => { c with hndCtl := v.extractLsb' 0 4 }) ∧
  WritesCsr 0x0A1 (fun c v => { c with hndBase := v.extractLsb' 0 52 }) ∧
  WritesCsr 0x0A2 (fun c v => if c.inh then { c with skip := v.getLsbD 0 } else c) ∧
  WritesCsr 0x0B8 (fun c v => { c with wpHit := c.wpHit &&& ~~~(v.extractLsb' 0 4) }) ∧
  WritesCsr 0x0C0 (fun c v => { c with traceCtl := v.extractLsb' 0 16 }) ∧
  (∀ a (s : State), s.myCore.ready [a] [] = true →
    ∃ t, exec (.csrw a 0x0C1) s = .next t ∧ Moved s.myCore t.myCore ∧ t.mem = s.mem ∧
      (t.die (dieOf s.me)).dropped.get (s.partOf s.me) 0 =
        (s.die (dieOf s.me)).dropped.get (s.partOf s.me) 0 &&& ~~~((s.myCore.reg a).extractLsb' 0 32)) ∧
  (∀ a csr (s : State), s.myCore.ready [a] [] = true →
    csr.toNat ∉ [0x011, 0x060, 0x080, 0x0A0, 0x0A1, 0x0A2, 0x0B8, 0x0C0, 0x0C1] →
    exec (.csrw a csr) s = .next (s.updMe Core.advance)) ∧
  WritesDrained .fpCtrlWrite (fun c v => { c with ftz := v.getLsbD 0, nten := v.getLsbD 1 }) ∧
  WritesDrained .stochSeedWrite (fun c v => { c with
    seed := v, genS := genLoad v, genV := genLoad (v ^^^ 0x5555555555555555), genM := genLoad (v ^^^ 0xAAAAAAAAAAAAAAAA) }) ∧
  (∀ n, n < 16 → WritesDrained (.cmpdTableWrite · (BitVec.ofNat 16 (0x030 + n))) fun c v =>
    { c with cmpdSeg := c.cmpdSeg.setIfInBounds n (v.extractLsb' 0 40), cmpdValid := false }) ∧
  (∀ n, n < 16 → WritesDrained (.cmpdTableWrite · (BitVec.ofNat 16 (0x040 + n))) fun c v =>
    { c with cmpdOfs := c.cmpdOfs.setIfInBounds n (v.extractLsb' 0 32), cmpdValid := false }) ∧
  WritesDrained .cmpdArm (fun c v =>
    let ok := ({ c with cmpdN := v.extractLsb' 0 4 } : Core).cmpd.valid
    { c with cmpdN := v.extractLsb' 0 4, cmpdValid := v.getLsbD 8 && ok, cmpdErr := if v.getLsbD 8 then !ok else c.cmpdErr })

/-- R160, R226, R275, R328, R332, R339, R370: the calls that a task may make. A mapping changes at once, and its call then
waits until nothing goes through the old pages. Which page MAP takes, the bytes of a report and some statuses are the model's
(assumptions 11, 20, 43, 44 and 45). -/
def Obligations.SystemCalls : Prop :=
  ∀ s : State, Calls s →
    (∀ i ∈ [Instr.syscPreempt, .syscPower, .syscCkpt, .syscSwitch, .syscPreset], Rejects i s 2) ∧
    AnyCalls s (released s) s.me (fun n => (s.myCore.reg (BitVec.ofNat 6 n)).toNat) (fun i st res more => Answers i s st res more)
      fun i more => Stalls i s more

/-- R263, R324, R325, R336, R346, R370, R372: the calls that service firmware makes: those of any caller, and those that are
its own. Which page MAP takes, what a mapping waits for, the bytes and the size of a report, the order of ATTEST's checks,
which status some refused calls return, that service firmware calls for a core, and what of other clusters keeps a cluster
from being idle are the model's readings (assumptions 11, 20, 43, 44, 45 and 67). -/
def Obligations.ServiceCalls : Prop :=
  ∀ (s : State) g a b c d, Serves s g a b c d →
    AnyCalls s s g (fun n => ([0, 0, a, b, c, d].getD n 0).toNat)
      (fun i st res more => Serviced i s st fun t => (∀ v, res = some v → t.svcResult = v) ∧ more t)
      (fun i more => ∃ t, exec i s = .next t ∧ t.svcStatus = s.svcStatus ∧ more t) ∧
    (s.taskNamed a.toNat b.toNat = none → Serviced .syscPreempt s 3 fun t => t.mem = s.mem ∧ t.tasks = s.tasks) ∧
    (∀ tn t, s.taskNamed a.toNat b.toNat = some tn → s.tasks.find tn = some t →
      Serviced .syscPreempt s 0 fun u => u.mem = s.mem ∧
        (t.trip ≠ 0 → t.saving = false → (∀ g ∈ t.cores, (s.core g).phase = .prologue ∨ (s.core g).phase = .kernel) →
          (u.tasks.find tn).map (·.preReq) = some true)) ∧
    (2 < a.toNat → exec .syscPower s = .next { s with svcStatus := 3 }) ∧
    (a.toNat ≤ 2 → Serviced .syscPower s 0 fun t => t.mem = s.mem ∧ t.powerReq = a.extractLsb' 0 2 ∧
      ∀ k, k < 32 → (t.cluster k).mode =
        if (coresOf k).all s.coreIdle && (s.passOf k).isNone then a.extractLsb' 0 2 else (s.cluster k).mode) ∧
    (s.ckpt = none → Serviced .syscCkpt s 0 fun t => t.mem = s.mem ∧ t.quiesced = true ∧
      ∃ e, t.ckpt = some e ∧ ∀ x ∈ s.images, x.epoch < e) ∧
    (s.ckpt.isSome = true → exec .syscCkpt s = .next { s with svcStatus := 4 }) ∧
    (32 ≤ a.toNat ∨ 8 ≤ b.toNat → exec .syscSwitch s = .next { s with svcStatus := 3 }) ∧
    (a.toNat < 32 → b.toNat < 8 → s.clusIdle a.toNat = false → exec .syscSwitch s = .next { s with svcStatus := 4 }) ∧
    (a.toNat < 32 → b.toNat < 8 → s.clusIdle a.toNat = true → (s.cluster a.toNat).part ≠ b.toNat →
      Serviced .syscSwitch s 0 fun t => (t.cluster a.toNat).part = b.toNat ∧ (∀ g ∈ coresOf a.toNat, t.core g = .reset g) ∧
        (s.swapped.find (swapKey b.toNat a.toNat) = none → s.mem.wf = true →
          (∀ loc, inCluster a.toNat loc = true → memGet t.mem loc = 0) ∧
          ((∀ x ∈ s.cores, x.2.storesTo (inCluster a.toNat) = false) → ∀ loc, inCluster a.toNat loc = false →
            memGet t.mem loc = memGet s.mem loc))) ∧
    (8 ≤ a.toNat → exec .syscPreset s = .next { s with svcStatus := 3 }) ∧
    (a.toNat < 8 → Serviced .syscPreset s 0 fun t => (t.part a.toNat).resetting = true ∧ (t.part a.toNat).xqs = [] ∧
      (t.part a.toNat).objs = (s.part a.toNat).objs ∧ (t.part a.toNat).pages = (s.part a.toNat).pages ∧
      (∀ g, g < 512 → s.partOf g = a.toNat → (t.core g).running = false) ∧
      (∀ k n, k < 32 → (s.cluster k).part = a.toNat → t.clusFlag k n = 0 ∧ t.ring k n = .reset ∧ t.bar k n = .reset))

/-! ## Exceptions and debugging -/

/-- R349 to R353, R359, R365: DBRK, once the older entries are done, enters the handler that takes class D; with a debug
session it halts the core; else, and in handler mode, it ends the part and cancels the instance. HRET returns to the word
after a DBRK or a skipped word, else to the faulting word, whose watchpoints are not tested again; after the end of the core's
part it finishes what the handler left outstanding and executes nothing more; outside the handler it raises HRETMODE. In
handler mode s56 to s63 name the shadow bank, and the words that hand work to an engine raise HNDENG. Which words raise HNDENG
is the model's reading (assumption 25). -/
def Obligations.HandlerEntryAndReturn : Prop :=
  (∀ tag (s : State), Delivers350 s →
    let rep := reportHere s { cause := cDBRK, aux := tag.toNat }
    let deb := (s.part (s.partOf s.me)).debug
    (s.myCore.inh = false → deb = false → s.myCore.handles .debug = true →
      ∃ t, exec (.dbrk tag) s = .next t ∧ t.myCore.inh = true ∧ t.myCore.pc = s.myCore.hndBase.setWidth 64 ∧
        t.myCore.faultRep = rep ∧ t.myCore.skip = false ∧ t.myCore.s = s.myCore.s ∧ t.myCore.shadow = s.myCore.shadow ∧
        t.myCore.c = s.myCore.c ∧ t.myCore.att = false ∧ t.myCore.smb = [] ∧ t.myCore.staging = [] ∧
        (s.myCore.smb = [] → t.mem = s.mem)) ∧
    (s.myCore.inh = false → deb = true →
      ∃ t, exec (.dbrk tag) s = .next t ∧ t.myCore.halted = true ∧ t.myCore.haltRep = rep ∧ t.myCore.pc = s.myCore.pc ∧
        t.myCore.smb = []) ∧
    (s.myCore.inh = true ∨ (deb = false ∧ s.myCore.handles .debug = false) →
      ∃ t, exec (.dbrk tag) s = .next t ∧ t.myCore.phase = .ended ∧ t.myCore.inh = false ∧
        ∀ x, s.insts.find (s.instOf s.me) = some x → x.cancelled = none →
          (t.insts.find (s.instOf s.me)).bind (·.cancelled) = some cDBRK)) ∧
  (∀ s : State, s.myCore.inh = true → s.myCore.phase ≠ .ended → repEng s.myCore.faultRep = none →
    let past : Bool := s.myCore.skip || repCause s.myCore.faultRep = cDBRK
    ∃ t, exec .hret s = .next t ∧ t.myCore.inh = false ∧ t.mem = s.mem ∧ t.myCore.s = s.myCore.s ∧ t.myCore.c = s.myCore.c ∧
      t.myCore.pc = (if past then repPc s.myCore.faultRep + 8 else repPc s.myCore.faultRep) ∧ t.myCore.noWatch = !past) ∧
  (∀ (s : State) e h rest, s.myCore.inh = true → s.myCore.phase ≠ .ended → repEng s.myCore.faultRep = some e → (s.myCore.getEng e).queue = h :: rest →
    ∃ t x, exec .hret s = .next t ∧ t.myCore.inh = false ∧ t.mem = s.mem ∧ t.myCore.s = s.myCore.s ∧
      t.myCore.pc = repSpc s.myCore.faultRep ∧ (t.myCore.getEng e).queue = x :: rest ∧
      x.word = h.word ∧ x.on = (if s.myCore.skip then false else h.on) ∧ x.noWatch = (if s.myCore.skip then h.noWatch else true)) ∧
  (∀ s : State, s.myCore.inh = true → s.myCore.phase = .ended →
    ∃ t, exec .hret s = .next t ∧ t.myCore.inh = false ∧ t.myCore.phase = .ended ∧ t.myCore.smb = [] ∧ t.myCore.staging = [] ∧
      t.myCore.drainSince = some s.cycle) ∧
  (∀ s : State, s.myCore.inh = false → exec .hret s = .next (s.raise s.me none { cause := cHRETMODE })) ∧
  (∀ (c : Core) (r : BitVec 6) v, c.inh = true → 56 ≤ r.toNat →
    (c.setReg r v).reg r = v ∧ (c.setReg r v).s = c.s ∧ ({ c with inh := false } : Core).reg r = c.s.toArray.getD r.toNat 0) ∧
  (∀ (s : State), s.myCore.inh = true →
    let trapped := s.raise s.me none { cause := cHNDENG }
    (∀ w i e, decodeWord w = .ok i → i.engine = some e → exec (.engineEnqueue w) s = .next trapped) ∧
    (∀ q (a b : BitVec 6) flag rel, Fires q [a, b] [] s →
      exec (.cpy q a b flag rel) s = .next trapped ∧ exec (.cpym q a b flag rel) s = .next trapped ∧
      exec (.send q a b flag rel) s = .next trapped ∧ exec (.xlat q a b flag rel) s = .next trapped ∧
      (∀ n, exec (.gthr q a b flag rel n) s = .next trapped) ∧ ∀ o op ty n, exec (.red q a b flag rel o op ty n) s = .next trapped) ∧
    (∀ q (d a b : BitVec 6), Fires q [d, a, b] [] s → (∀ ring, exec (.srch q d a b ring) s = .next trapped) ∧
      (∀ flag, exec (.kvbind q d a b flag) s = .next trapped) ∧ ∀ ty flag n, exec (.xqcomb q ty d a b flag n) s = .next trapped) ∧
    (∀ q (d a : BitVec 6) flag, Fires q [d, a] [] s → exec (.astart q d a flag) s = .next trapped))

/-- R359, R363, R367, R368: TRMARK writes a record when its bit of EVMASK is set; WPSET sets or clears a slot of the core; a
debug session attaches and detaches, halts a task, reads and writes halted state, and resumes it. The order and the rights of
a session's accesses, and details of WPSET, are the model's readings (assumptions 46 and 47). -/
def Obligations.DebugResults : Prop :=
  (∀ a (imm : BitVec 16) (s : State), s.myCore.ready [a] [] = true →
    ∃ t, exec (.trmark a imm) s = .next t ∧ Moved s.myCore t.myCore ∧ t.mem = s.mem ∧
      let old := (s.die (dieOf s.me)).traces.get (s.partOf s.me) []
      (s.myCore.traceCtl.getLsbD 0 = true → old.length < Config.traceCapacity →
        ∃ w, (t.die (dieOf s.me)).traces.get (s.partOf s.me) [] =
          old ++ [⟨BitVec.ofNat 64 s.cycle, w, s.myCore.reg a, imm.setWidth 64⟩]) ∧
      (s.myCore.traceCtl.getLsbD 0 = false → t.die (dieOf s.me) = s.die (dieOf s.me))) ∧
  (∀ a d slot sc (s : State), s.myCore.ready [a, d] [] = true → (s.myCore.engs.all fun e => e.queue = []) = true →
    ∃ t, exec (.wpset a d slot sc .off) s = .next t ∧ Moved s.myCore t.myCore ∧ t.mem = s.mem ∧
      t.myCore.wp.toArray.getD slot.toNat ⟨1, 1, 1, 1, 1⟩ = ⟨0, 0, 0, 0, 0⟩) ∧
  (∀ a d slot sc kind (s : State) loc, s.myCore.ready [a, d] [] = true → (s.myCore.engs.all fun e => e.queue = []) = true →
    kind ≠ .off → 0 < (s.myCore.reg d).toNat → (s.myCore.reg d).toNat ≤ 1048576 →
    wpLocate s (s.whoCore s.me) (wpNeed kind) (s.myCore.reg a).toNat (s.myCore.reg d).toNat = .ok loc →
    ∃ t, exec (.wpset a d slot sc kind) s = .next t ∧ Moved s.myCore t.myCore ∧ t.mem = s.mem ∧
      t.myCore.wp.toArray.getD slot.toNat ⟨1, 1, 1, 1, 1⟩ =
        ⟨(s.myCore.reg a).extractLsb' 0 52, (s.myCore.reg d).extractLsb' 0 21, scopeCode sc, wpKindCode kind, loc⟩) ∧
  (∀ (s : State) p, s.arg = .unit p →
    (∃ t, exec .debugSessionAttach s = .next t ∧ (t.part p).debug = true ∧ t.mem = s.mem ∧ t.cores = s.cores) ∧
    (∃ t, exec .debugSessionDetach s = .next t ∧ (t.part p).debug = false ∧ t.mem = s.mem ∧ t.cores = s.cores)) ∧
  (∀ (s : State) tn t, s.arg = .unit tn → s.tasks.find tn = some t → (s.part t.part).debug = true →
    ∃ u, exec .debugHaltRequest s = .next u ∧ (u.tasks.find tn).map (·.haltReq) = some true ∧
      (t.saving = false → (∀ g ∈ t.cores, (s.core g).stopped = true ∧ (s.core g).drained = true) →
        ∀ g ∈ t.cores, (u.core g).halted = true)) ∧
  (∀ (s : State) p g, s.dbgOk p g = true →
    (∀ r, s.arg = .debug p (.readReg g r) →
      ∃ t, exec .debugSessionAccess s = .next t ∧ t.dbgValue = (s.core g).dbgRead r ∧ t.mem = s.mem ∧ t.cores = s.cores) ∧
    (∀ (r : BitVec 6) v, s.arg = .debug p (.writeReg g (.s r) (wordBytes 8 v)) →
      ∃ t, exec .debugSessionAccess s = .next t ∧ (r ≠ 0 → (t.core g).s.toArray.getD r.toNat 0 = v) ∧ t.mem = s.mem) ∧
    (∀ v : Word, s.arg = .debug p (.writeReg g .pc (wordBytes 8 v)) →
      ∃ t, exec .debugSessionAccess s = .next t ∧ (t.core g).pc = v ∧ (t.core g).s = (s.core g).s ∧ t.mem = s.mem) ∧
    (∀ n v, s.arg = .debug p (.readCsr g n) → csrValue s g n.toNat = some v →
      ∃ t, exec .debugSessionAccess s = .next t ∧ t.dbgValue = wordBytes 8 v ∧ t.cores = s.cores) ∧
    (∀ v, s.arg = .debug p (.writeCsr g 0x0A1 v) →
      ∃ t, exec .debugSessionAccess s = .next t ∧ (t.core g).hndBase = v.extractLsb' 0 52 ∧ t.mem = s.mem) ∧
    (∀ va n bs, s.arg = .debug p (.readMem g va n) → sysBytes s g va n = some bs →
      ∃ t, exec .debugSessionAccess s = .next t ∧ t.dbgValue = bs ∧ t.mem = s.mem) ∧
    (∀ va bs rs, s.arg = .debug p (.writeMem g va bs) → resolveRange s (s.whoCore g) .wr va bs.length = .ok rs →
      ∃ t, exec .debugSessionAccess s = .next t ∧ t.mem = memRuns s.mem rs bs)) ∧
  (∀ (s : State) tn skip t, s.arg = .flag tn skip → s.tasks.find tn = some t → t.saving = false →
    (∃ g ∈ t.cores, (s.core g).halted = true) →
    ∃ u, exec .debugResume s = .next u ∧ (u.tasks.find tn).map (·.haltReq) = some false ∧ u.mem = s.mem ∧
      ∀ g ∈ t.cores, (u.core g).halted = false ∧ (u.core g).stopped = false ∧ (u.core g).s = (s.core g).s)

/-- R29, R114, R269: the Quadrille decodes the word at its address into the drift window and goes on, pauses at a word that
only its leader can resolve, and follows a direct branch itself; stalled, it waits. The leader of an attached set resolves a
pausing word for the others. An attached core whose next address at a pausing word, or trip count, differs from the leader's,
or at LEND and LBRK from the Quadrille's copy, detaches after the word has taken full effect. That a word or an event that
waits, or whose condition does not hold, leaves the state as it was is the model's reading (assumption 15). -/
def Obligations.QuadrilleFollows : Prop :=
  (∀ (s : State) k t, s.arg = .unit k → s.quadTask k = some t → (s.cluster k).quad.run = .running →
    codeOk (s.cluster k).quad.dpc = true →
    let q := (s.cluster k).quad
    (s.quadStalled k = true → exec .quadrilleDecode s = .next s) ∧
    (s.quadStalled k = false → ∃ u, exec .quadrilleDecode s = .next u ∧ u.mem = s.mem ∧ u.cores = s.cores ∧
      let loc := clusLoc k + (q.dpc.toNat - ownClus)
      let next := q.decodeOne t (s.stopsAt t) (bytesWord (s.homeBytes loc 8))
      (u.cluster k).quad = if s.unc loc 8 then next.markUnc else next)) ∧
  (∀ (q : Quad) t stops w i, decodeWord w = .ok i → q.win.length < 128 →
    let u := q.decodeOne t stops w
    (∃ r, u.win = q.win ++ [⟨q.dpc, w, false, r, 0⟩]) ∧ u.base = q.base ∧
    (∀ off, i = .br off ∨ i = .call off → u.dpc = q.dpc + (off.signExtend 64 <<< 3) ∧ u.run = q.run) ∧
    ((i = .ret ∨ (∃ r, i = .jmpr r ∨ i = .callr r) ∨ (∃ k neg off, i = .bc k neg off) ∨ (∃ lv a off, i = .loop lv a off)) →
      u.run = .paused ∧ u.dpc = q.dpc) ∧
    (intDest i ≠ none ∨ i.engine ≠ none → u.dpc = q.dpc + 8 ∧ u.run = q.run)) ∧
  (∀ (a : BitVec 6) (s : State) (e : WinEntry), s.myCore.ready [a] [] = true → codeOk (s.myCore.reg a) = true →
    s.myCore.att = true → s.entryOf s.me = some e → e.ref = none → s.leader (clusOf s.me) = some s.me →
    ∃ t, exec (.jmpr a) s = .next t ∧ t.myCore.pc = s.myCore.reg a ∧
      (t.cluster (clusOf s.me)).quad.dpc = s.myCore.reg a ∧
      ((s.cluster (clusOf s.me)).quad.run = .paused → (t.cluster (clusOf s.me)).quad.run = .running) ∧ t.mem = s.mem) ∧
  ((∀ k neg off (s : State), s.myCore.ready [] [k] = true →
    let n : Word := if s.myCore.creg k != neg then target s off else s.myCore.pc + 8
    (s.myCore.creg k ≠ neg → codeOk n = true) → Diverts s n 0 → Departs (.bc k neg off) s n id) ∧
  (∀ a (s : State), s.myCore.ready [a] [] = true → codeOk (s.myCore.reg a) = true → Diverts s (s.myCore.reg a) 0 →
    Departs (.jmpr a) s (s.myCore.reg a) id) ∧
  (∀ a (s : State), s.myCore.ready [a, 62] [] = true → codeOk (s.myCore.reg a) = true → Diverts s (s.myCore.reg a) 0 →
    Departs (.callr a) s (s.myCore.reg a) fun c => c.setReg 62 (c.pc + 8)) ∧
  (∀ s : State, s.myCore.ready [62] [] = true → codeOk (s.myCore.reg 62) = true → Diverts s (s.myCore.reg 62) 0 →
    Departs .ret s (s.myCore.reg 62) id) ∧
  (∀ off (s : State), (s.myCore.getEng .arith).queue = [] → (s.myCore.getEng .arith).inflight = [] → codeOk (target s off) = true →
    let z : Word := if s.myCore.m0 = 0 then target s off else s.myCore.pc + 8
    let n : Word := if s.myCore.m0 = 0 then s.myCore.pc + 8 else target s off
    (Diverts s z 0 → Departs (.ubz off) s z id) ∧ (Diverts s n 0 → Departs (.ubnz off) s n id))) ∧
  (∀ lv a off (s : State), s.myCore.ready [a] [] = true → s.myCore.inh = false → s.myCore.loops.nestOk lv.toNat = true →
    let n := (s.myCore.reg a).extractLsb' 0 32
    let open' (p : Bool) : LoopState := s.myCore.loops.set lv.toNat ⟨true, n, 0, s.myCore.pc + 8, false, p, true⟩
    (n ≠ 0 → Diverts s (s.myCore.pc + 8) n → Departs (.loop lv a off) s (s.myCore.pc + 8) (withLoops · (open' false)) ∧
      ∀ nst, s.myCore.phase = .kernel → lv ≠ 0 →
        Departs (.ploop lv a nst off) s (s.myCore.pc + 8) (withLoops · { open' true with sp := 1, nst := nst })) ∧
    (n = 0 → codeOk (target s off + 8) = true → Diverts s (target s off + 8) 0 →
      Departs (.loop lv a off) s (target s off + 8) id ∧
      ∀ nst, s.myCore.phase = .kernel → lv ≠ 0 → Departs (.ploop lv a nst off) s (target s off + 8) id)) ∧
  (∀ lv off (s : State), s.myCore.inh = false → s.myCore.loops.inner = some lv.toNat → (s.myCore.phase ≠ .kernel ∨ lv ≠ 0) →
    (goesOn s.myCore.loops lv.toNat = true → codeOk (target s off) = true → Disagrees s (target s off) →
      Departs (.lend lv off) s (target s off) (withLoops · (nextLoops s.myCore.loops lv.toNat))) ∧
    (goesOn s.myCore.loops lv.toNat = false → (s.myCore.loops.get lv.toNat).pipelined = false → Disagrees s (s.myCore.pc + 8) →
      Departs (.lend lv off) s (s.myCore.pc + 8) (withLoops · (s.myCore.loops.set lv.toNat .reset)))) ∧
  (∀ off (s : State), s.myCore.inh = false → s.myCore.loops.inner = some 0 → s.myCore.phase = .kernel → s.cancelledAt s.me = false →
    s.atStop s.me = false → goesOn s.myCore.loops 0 = true → codeOk (target s off) = true → Disagrees s (target s off) →
    Departs (.lend 0 off) s (target s off) (withLoops · (nextLoops s.myCore.loops 0))) ∧
  (∀ lv off (s : State), s.myCore.inh = false → (s.myCore.loops.get lv.toNat).active = true →
    ((s.myCore.loops.get lv.toNat).pipelined = true ∨ (s.myCore.phase = .kernel ∧ lv = 0)) → Disagrees s (s.myCore.pc + 8) →
    Departs (.lbrk lv off) s (s.myCore.pc + 8)
      (withLoops · (s.myCore.loops.set lv.toNat { s.myCore.loops.get lv.toNat with brk := true })))

/-! ## The host -/

/-- R210, R248, R252, R341, R366, R371: what the host writes and reads: TAIL, HEAD, the slots and the exposed LPDDR, the
registers of its page, the end of a coalescing window, and a dump. What an unexposed unit reads is the model's reading
(assumption 37). -/
def Obligations.HostWindow : Prop :=
  (∀ (s : State) p off v, s.arg = .word p off v →
    ∃ t, exec .hostTailWrite s = .next t ∧ t.mem = s.mem ∧
      cmdqOf t p = overrunHalts s p { cmdqOf s p with tail := v.extractLsb' 0 32 }) ∧
  (∀ s : State, exec .hostHeadWrite s = .next s) ∧
  (∀ (s : State) p off bs, s.arg = .hdm p p off bs.length (some bs) → off % 64 + bs.length ≤ 64 →
    ∃ t, exec .hostHdmAccess s = .next t ∧
      (off < 0x10000 → bs.length = 64 → t.mem = s.mem ∧ (cmdqOf t p).slots.get (off / 64) 0 = BitVec.ofNat 512 (bytesNat bs) ∧
        ∀ i, i ≠ off / 64 → (cmdqOf t p).slots.get i 0 = (cmdqOf s p).slots.get i 0) ∧
      (off = 0x10000 → bs.length = 4 → t.mem = s.mem ∧
        cmdqOf t p = overrunHalts s p { cmdqOf s p with tail := BitVec.ofNat 32 (bytesNat bs) }) ∧
      (0x10040 ≤ off → off < 0x100000000 → t = s) ∧
      (∀ loc, 0x100000000 ≤ off → (s.part p).hdmLoc off = some loc → t.mem = memWrite s.mem loc bs)) ∧
  (∀ (s : State) p off n, s.arg = .hdm p p off n none → off % 64 + n ≤ 64 →
    ∃ t, exec .hostHdmAccess s = .next t ∧ t.mem = s.mem ∧
      (off < 0x10000 → off % 64 = 0 → n = 64 → t.dbgValue = natBytes 64 ((cmdqOf s p).slots.get (off / 64) 0).toNat) ∧
      (off = 0x10000 → n = 4 → t.dbgValue = natBytes 4 (cmdqOf s p).tail.toNat) ∧
      (off = 0x10040 → n = 4 → t.dbgValue = natBytes 4 (cmdqOf s p).head.toNat) ∧
      (∀ loc, 0x100000000 ≤ off → (s.part p).hdmLoc off = some loc → t.dbgValue = s.homeBytes loc n)) ∧
  (∀ (s : State) q p off n w, s.arg = .hdm q p off n w → q ≠ p →
    (w = none → exec .hostHdmAccess s = .next { s with dbgValue := List.replicate n 0xFF }) ∧
    (∀ bs, w = some bs → exec .hostHdmAccess s = .next s)) ∧
  (∀ (s : State) a n, a < 0x8000000000000 → a % 64 + n ≤ 64 →
    (s.arg = .hostMem a n .read → ∃ t, exec .hostHdmAccess s = .next t ∧ t.mem = s.mem ∧ t.dbgValue = s.homeBytes (hostBase + a) n) ∧
    (∀ bs, s.arg = .hostMem a n (.write bs) → bs.length = n →
      ∃ t, exec .hostHdmAccess s = .next t ∧ t.mem = memWrite s.mem (hostBase + a) bs)) ∧
  (∀ (s : State) p off v, s.arg = .word p off v →
    ∃ t, exec .hostRegisterWrite s = .next t ∧
      (off = 0x000 → t.mem = s.mem ∧ (cmdqOf t p).en = v.getLsbD 0 ∧ (cmdqOf t p).coal = v.extractLsb' 8 16 ∧
        (cmdqOf t p).log2 = if (cmdqOf s p).en then (cmdqOf s p).log2 else v.extractLsb' 1 4) ∧
      (off = 0x008 → t.mem = s.mem ∧ cmdqOf t p = { cmdqOf s p with ovr := (cmdqOf s p).ovr && !v.getLsbD 0 }) ∧
      (off = 0x010 → t.mem = s.mem ∧ cmdqOf t p = { cmdqOf s p with brk0 := v.extractLsb' 0 55 }) ∧
      (off = 0x018 → t.mem = s.mem ∧ cmdqOf t p = { cmdqOf s p with brk1 := v.extractLsb' 0 55 }) ∧
      (off = 0x020 → (v.getLsbD 0 = true → (cmdqOf t p).hit = false) ∧ (v.getLsbD 0 = false → t = s)) ∧
      (off ∉ [0x000, 0x008, 0x010, 0x018, 0x020] → t = s)) ∧
  (∀ (s : State) p v, s.arg = .pair p v → (s.coalesce.any fun c => c.part = p && c.vec = v && c.ends ≤ s.cycle) = true →
    ∃ t, exec .msixCoalesceExpire s = .next t ∧ t.toHost = s.toHost ++ [.msix v] ∧
      (∀ c ∈ t.coalesce, ¬(c.part = p ∧ c.vec = v)) ∧ t.mem = s.mem) ∧
  (∀ (s : State) p bs, s.arg = .unit p → (s.part p).dump.openTask = none → (s.part p).dump.cur = some bs →
    (∀ q, q < 8 → (s.part q).dump.queued = []) →
    ∃ t, exec .hostDumpRead s = .next t ∧ t.dbgValue = bs ∧ (t.part p).dump.cur = none ∧ t.mem = s.mem)

/-- R249 to R252, R254, R366: the command processor consumes the packet at HEAD: a rejected one is answered with status 2 and
its cause, NOP and CANCEL with status 0, FENCE when no earlier launch lives, and LAUNCH submits its graph unless a breakpoint
stops it. The order of the two checks is the model's reading (assumption 36). That a word or an event that waits, or whose
condition does not hold, leaves the state as it was is the model's reading (assumption 15). -/
def Obligations.CommandPackets : Prop :=
  (∀ (s : State) p x, s.arg = .unit p → s.nextPacket p = some x → pkReject x (cmdqOf s p).head ≠ 0 →
    ∀ i ∈ [Instr.cmdNop, .cmdLaunch, .cmdCancel, .cmdFence],
      ∃ t, exec i s = .next t ∧ Recorded s t p x noInst 2 (pkReject x (cmdqOf s p).head)) ∧
  (∀ (s : State) p, s.arg = .unit p → (cmdqOf s p).tail = (cmdqOf s p).head → (cmdqOf s p).fence = none →
    ∀ i ∈ [Instr.cmdNop, .cmdLaunch, .cmdCancel, .cmdFence], exec i s = .next s) ∧
  (∀ (s : State) p x, Reads s p x 0 → ∃ t, exec .cmdNop s = .next t ∧ Recorded s t p x noInst 0 0) ∧
  (∀ (s : State) p x, Reads s p x 2 →
    (∀ y, s.insts.find (pkInst x) = some y → y.part = p →
      ∃ t, exec .cmdCancel s = .next t ∧ Recorded s t p x (pkInst x) 0 0 ∧
        (y.cancelled = none → (t.insts.find (pkInst x)).bind (·.cancelled) = some cHOSTCAN ∧ t.tokens = s.tokens ++ [pkInst x])) ∧
    ((∀ y, s.insts.find (pkInst x) = some y → y.part ≠ p) →
      ∃ t, exec .cmdCancel s = .next t ∧ Recorded s t p x noInst 0 0 ∧ t.insts = s.insts)) ∧
  (∀ (s : State) p x, Reads s p x 3 →
    ((cmdqOf s p).launched = [] → ∃ t, exec .cmdFence s = .next t ∧ Recorded s t p x noInst 0 0) ∧
    ((cmdqOf s p).launched ≠ [] → ∃ t, exec .cmdFence s = .next t ∧ t.mem = s.mem ∧ (cmdqOf t p).fence = some x ∧
      (cmdqOf t p).head = (cmdqOf s p).head + 1)) ∧
  (∀ (s : State) p x, s.arg = .unit p → (cmdqOf s p).fence = some x →
    ((cmdqOf s p).launched ≠ [] → exec .cmdFence s = .next s) ∧
    ((cmdqOf s p).launched = [] → ∃ t, exec .cmdFence s = .next t ∧ (cmdqOf t p).fence = none ∧
      ∀ loc, pkCpl x ≠ 0 → (pkCpl x).toNat % 16 = 0 → resolve s (cmdWho p) .wr (pkCpl x).toNat 16 = .ok loc →
        t.mem = memWrite s.mem loc (completionBytes (pkSeq x) noInst 0 0))) ∧
  (∀ (s : State) p x, Reads s p x 1 →
    ((cmdqOf s p).untested = true ∨ (brkMode (cmdqOf s p).brk0 = 0 ∧ brkMode (cmdqOf s p).brk1 = 0) →
      (∀ i u, (s.consume p).submit p (Config.commandDie p % 4) (pkGraph x) (pkNnode x) none (.packet (pkSeq x) (pkVec x) (pkCpl x)) =
          .ok (i, u) →
        ∃ t y, exec .cmdLaunch s = .next t ∧ t.mem = s.mem ∧ (cmdqOf t p).head = (cmdqOf s p).head + 1 ∧
          (cmdqOf t p).launched = (cmdqOf s p).launched ++ [i] ∧ t.insts.find i = some y ∧ y.part = p ∧ y.parent = none ∧
          y.nodes.length = pkNnode x ∧ y.notify = .packet (pkSeq x) (pkVec x) (pkCpl x)) ∧
      (∀ e, (s.consume p).submit p (Config.commandDie p % 4) (pkGraph x) (pkNnode x) none (.packet (pkSeq x) (pkVec x) (pkCpl x)) =
          .error e →
        ∃ t, exec .cmdLaunch s = .next t ∧ Recorded s t p x noInst 2 e.1)) ∧
    ((cmdqOf s p).untested = false → brkMatch s p x (cmdqOf s p).brk0 = true →
      ∃ t, exec .cmdLaunch s = .next t ∧ t.mem = s.mem ∧ (cmdqOf t p).hit = true ∧ (cmdqOf t p).which = false ∧
        (cmdqOf t p).hitSeq = pkSeq x ∧ (cmdqOf t p).head = (cmdqOf s p).head ∧ t.insts = s.insts)) ∧
  (∀ (s : State) p, s.arg = .unit p → (cmdqOf s p).hit = false → exec .cmdqBrkResume s = .next s) ∧
  (∀ (s : State) p, s.arg = .unit p → (cmdqOf s p).hit = true →
    ∃ t, exec .cmdqBrkResume s = .next t ∧ (cmdqOf t p).hit = false ∧
      let u := s.updCmdq p fun q => { q with hit := false, untested := true }
      ∀ x i v, u.nextPacket p = some x → pkReject x (cmdqOf s p).head = 0 → pkOpc x = 1 →
        (u.consume p).submit p (Config.commandDie p % 4) (pkGraph x) (pkNnode x) none (.packet (pkSeq x) (pkVec x) (pkCpl x)) =
          .ok (i, v) →
        (cmdqOf t p).head = (cmdqOf s p).head + 1 ∧ (cmdqOf t p).launched = (cmdqOf s p).launched ++ [i] ∧
          (t.insts.find i).map (·.part) = some p)

/-! ## Pre-emption, resets, checkpoints, loading -/

/-- R272, R358, R360, R361: a stopped set is settled and saved, its cores are freed and its node goes back to be dispatched;
the resumption brings back every register that a context holds, the attachment, the dirty regions of near scratch, and the
baseline elsewhere in it, and adopts the power mode. That a context is kept whole as data is the model's reading (assumption
42). That a word or an event that waits, or whose condition does not hold, leaves the state as it was is the model's reading
(assumption 15). -/
def Obligations.SaveAndResume : Prop :=
  (∀ (s : State) tn t, s.arg = .unit tn → s.tasks.find tn = some t → t.haltReq = false →
    (s.preemptReady tn t = false → exec .preemptStop s = .next s) ∧
    (s.preemptReady tn t = true → ∃ u, exec .preemptStop s = .next u ∧ (u.tasks.find tn).map (·.saving) = some true ∧
      ∀ g ∈ t.cores, (u.core g).smb = [] ∧ (u.core g).staging = [] ∧ (u.core g).stopped = true)) ∧
  (∀ (s : State) tn t, s.arg = .unit tn → s.tasks.find tn = some t → t.saving = true → s.taskLost t = false →
    ∃ u x, exec .contextSaveComplete s = .next u ∧ u.mem = s.mem ∧ u.saved.find tn = some x ∧
      x.cores = t.cores.map (fun g => (g, s.core g)) ∧
      (∀ r, r ∈ x.dirty ↔ r ∈ s.dirty ∧ t.nearOf (4096 * r) = true) ∧
      (∀ loc, loc / 4096 ∈ x.dirty → memGet x.scratch loc = memGet s.mem loc) ∧ (u.tasks.find tn).map (·.saving) = some false ∧
      (∀ g ∈ t.cores, (u.core g).task = none ∧ (u.core g).phase = .idle) ∧
      ∀ y, s.nodeAt t.inst t.node = some y → ∃ z, u.nodeAt t.inst t.node = some z ∧ z.task = some tn ∧
        (z.st = .ready ∨ z.st = .pooled)) ∧
  (∀ (s : State) tn t x (f : Nat → Core), s.arg = .unit tn → s.tasks.find tn = some t → s.saved.find tn = some x →
    x.cores = t.cores.map (fun g => (g, f g)) → (∀ g ∈ t.cores, (s.core g).task = some tn) →
    ∃ u, exec .contextResume s = .next u ∧ u.saved.find tn = none ∧
      (∀ g ∈ t.cores, let c := u.core g
        (c.s, c.shadow, c.c, c.v, c.m, c.mstack) = ((f g).s, (f g).shadow, (f g).c, (f g).v, (f g).m, (f g).mstack) ∧
        (c.t, c.tkind, c.q, c.loops, c.toks, c.pc) = ((f g).t, (f g).tkind, (f g).q, (f g).loops, (f g).toks, (f g).pc) ∧
        (c.genS, c.genV, c.genM, c.seed, c.ftz, c.nten) = ((f g).genS, (f g).genV, (f g).genM, (f g).seed, (f g).ftz, (f g).nten) ∧
        (c.cmpdSeg, c.cmpdOfs, c.cmpdN, c.cmpdValid, c.cmpdErr) =
          ((f g).cmpdSeg, (f g).cmpdOfs, (f g).cmpdN, (f g).cmpdValid, (f g).cmpdErr) ∧
        (c.joinTimeout, c.xqStride, c.xqWidth, c.hndCtl, c.hndBase, c.skip, c.traceCtl, c.wpHit) =
          ((f g).joinTimeout, (f g).xqStride, (f g).xqWidth, (f g).hndCtl, (f g).hndBase, (f g).skip, (f g).traceCtl, (f g).wpHit) ∧
        (c.att, c.phase, c.wbuf.last, c.wbuf.kcur) = ((f g).att, (f g).phase, (f g).wbuf.last, (f g).wbuf.kcur) ∧
        c.task = some tn ∧ c.fpstat = (s.core g).fpstat ∧ c.stopped = false) ∧
      (u.cluster t.clus).mode = s.powerReq ∧
      (∀ loc, t.nearOf loc = true →
        (loc / 4096 ∈ x.dirty → Memory.wf x.scratch = true → memGet u.mem loc = memGet x.scratch loc) ∧
        (loc / 4096 ∉ x.dirty → (∀ y ∈ x.scratch, y.1 / 4096 ∈ x.dirty) → s.baseline.wf = true → loc < 2 ^ 60 →
          memGet u.mem loc = memGet s.baseline (baseKey t.part loc))) ∧
      ∀ loc, t.nearOf loc = false → (∀ y ∈ x.scratch, t.nearOf y.1 = true) → memGet u.mem loc = memGet s.mem loc)

/-- R325, R337, R338, R354: a partition reset ends when the partition is quiet; after a device reset or a loss of power the
cores, clusters, dies, tasks and instances stand as at reset, and indexes, valid images, the signature index and host memory
are kept; scrubbing marks a byte that cannot be corrected. What a reset keeps where no rule lists it is the model's reading
(assumption 48). That a word or an event that waits, or whose condition does not hold, leaves the state as it was is the
model's reading (assumption 15). -/
def Obligations.ResetsAndPower : Prop :=
  (∀ (s : State) p, s.arg = .unit p → (s.part p).resetting = true →
    (s.partitionQuiet p = true → ∃ t, exec .partitionResetComplete s = .next t ∧ (t.part p).resetting = false ∧ t.mem = s.mem) ∧
    (s.partitionQuiet p = false → exec .partitionResetComplete s = .next s)) ∧
  (∀ (s : State) k ok, s.arg = .flag k ok →
    ∃ t, exec .deviceReset s = .next t ∧ (∀ g, t.core g = .reset g) ∧ (∀ k, t.cluster k = .reset) ∧ (∀ d, t.die d = .reset) ∧
      t.cycle = 0 ∧ t.tasks = [] ∧ t.insts = [] ∧ t.cmds = [] ∧ t.stores = s.stores ∧ t.images = s.images ∧ t.sigNext = s.sigNext ∧
      HostKept s t ∧ (ok = true → t.firmware = .running ∧ t.toHost = s.toHost) ∧
      (ok = false → t.firmware = .loader ∧ t.toHost = s.toHost ++ [.loaderFailed])) ∧
  (∀ (s : State) k lost, s.arg = .flag k lost →
    ∃ t, exec .powerLoss s = .next t ∧ (∀ g, t.core g = .reset g) ∧ t.tasks = [] ∧ t.insts = [] ∧ t.firmware = .loader ∧
      t.stores = s.stores ∧ t.images = s.images.filter (·.valid) ∧ HostKept s t ∧
      t.sigNext = if lost = true ∧ s.sigNext < 1048576 then s.sigNext + 1 else s.sigNext) ∧
  (∀ (s : State) loc, s.arg = .flag loc true → loc < hostBase →
    ∃ t, exec .backgroundScrub s = .next t ∧ t.mem = s.mem ∧ t.unc loc 1 = true) ∧
  (∀ (s : State) loc, s.arg = .flag loc false → exec .backgroundScrub s = .next s)

/-- R372 to R375: a checkpoint commits once the device is quiet; a restore brings the chosen image back and leaves host memory
alone; the members of a domain quiesce on a checkpoint and on a failure, which asks the tile tasks to stop and reports a
device that cannot restore. What a restore does to ports, CYCLE and messages is the model's reading (assumption 49). That a
word or an event that waits, or whose condition does not hold, leaves the state as it was is the model's reading (assumption
15). -/
def Obligations.Checkpoints : Prop :=
  (∀ (s : State) e, s.ckpt = some e →
    (s.quiet = true → ∃ t x, exec .checkpointCommit s = .next t ∧ x ∈ t.images ∧ x.epoch = e ∧ x.valid = true ∧
      x.mem = s.mem.filter (fun c => c.1 < hostBase) ∧ x.cores = s.cores ∧ x.clusters = s.clusters ∧ x.parts = s.parts ∧
      t.images.length ≤ 2 ∧ t.ckpt = none ∧ t.quiesced = false ∧ t.mem = s.mem) ∧
    (s.quiet = false → exec .checkpointCommit s = .next s)) ∧
  (∀ (s : State) e, s.arg = .epoch (some e) → s.inDomain = true → s.ckpt = none →
    ∃ t, exec .domainEpochCheckpoint s = .next t ∧ t.ckpt = some e ∧ t.quiesced = true ∧ t.mem = s.mem) ∧
  (∀ (s : State) e x, s.arg = .epoch e → s.firmware = .running → s.chooseImage e = some x →
    ((s.quiesced && s.inDomain) = true → s.quiet = true) →
    ∃ t, exec .restore s = .next t ∧ t.cores = x.cores ∧ t.clusters = x.clusters ∧ t.parts = x.parts ∧ t.insts = x.insts ∧
      t.tasks = x.tasks ∧ t.saved = x.saved ∧ t.quiesced = false ∧ t.toHost = s.toHost ++ [.recovered] ∧ t.stores = s.stores ∧
      (s.mem.wf = true → x.mem.wf = true → ∀ a, memGet t.mem a = if a < hostBase then memGet x.mem a else memGet s.mem a)) ∧
  (∀ (s : State) e, s.arg = .epoch e → s.quiesced = true → s.inDomain = true → s.quiet = false → exec .restore s = .next s) ∧
  (∀ (s : State) e x, s.chooseImage e = some x → x ∈ s.images ∧ x.valid = true ∧
    (∀ n, e = some n → x.epoch = n) ∧ (e = none → ∀ y ∈ s.images, y.valid = true → y.epoch ≤ x.epoch)) ∧
  (∀ (s : State) dev lost, s.arg = .flag dev lost → s.inDomain = true →
    ∃ t, exec .deviceFailureDetect s = .next t ∧ t.quiesced = true ∧
      (lost = false → t.routes = s.routes ∧ t.lostDevs = s.lostDevs ∧ t.toHost = s.toHost ∧
        ∀ n x, s.tasks.find n = some x → x.trip ≠ 0 → x.saving = false →
          (∀ g ∈ x.cores, (s.core g).phase = .prologue ∨ (s.core g).phase = .kernel) →
          ∃ y, t.tasks.find n = some y ∧ y.preReq = true) ∧
      (lost = true → t.routes.find dev = none ∧ t.lostDevs = s.lostDevs ++ [dev] ∧
        ((∀ m ∈ s.links, m.dev ≠ dev) → dev ≠ s.devNum.toNat → t.toHost = s.toHost ++ [.devLost dev])))

/-- R60, R61, R62, R226, R264, R275, R324, R333: IMAGE_LOAD installs the sections, entries, rings and queues of an image, an
address of a label being the section's loaded address and its offset; a flash namespace that another partition held last is
granted empty, and one that another holds is not granted; firmware sets a Galliard's registers and grants a granule of die
scratch, which becomes 0. That a granule which a ring, a KVBIND or a monitor still names is not granted, what an image load
waits for before it moves a grant, and that a namespace is emptied when it changes hands, are the model's choices (assumptions
67 and 76). The manifests of rings and queues hold the addresses to install (assumption 69). That a near section reaches every
core and the moment of the load are the model's readings (assumption 50). That a word or an event that waits, or whose
condition does not hold, leaves the state as it was is the model's reading (assumption 15). -/
def Obligations.LoadingAndGrants : Prop :=
  (∀ (s : State) im, s.arg = .image im → s.firmware = .running → im.part < 8 →
    (∀ x ∈ im.sections, x.va % 4096 = 0 ∧ x.clus < 32 ∧ (s.cluster x.clus).part = im.part) →
    (∀ r ∈ im.rings, r.1 < 32 ∧ r.2.1 < 64 ∧ (s.cluster r.1).part = im.part) → (∀ x ∈ im.experts, x.1 < 1024) →
    (∀ x ∈ im.objects, s.objUsed im.part x.index = false) → im.grants.elim false (s.grantsHeld im.part) = false →
    ∃ t, exec .imageLoad s = .next t ∧
      (∀ x, im.objects = [x] → x.index < 65536 → entryOk x.entry = true →
        (t.part im.part).objs.find x.index = some ⟨entInstalled x.entry im.part, x.ns, x.store, x.guard⟩) ∧
      (im.objects = [] → (t.part im.part).objs = (s.part im.part).objs) ∧
      (∀ x, im.sections = [x] → ownClus ≤ x.va → x.va + x.bytes.length ≤ ownClus + clusSize →
        (im.relocs = [] → t.mem = memWrite s.mem (clusLoc x.clus + (x.va - ownClus)) x.bytes) ∧
        (∀ off o, im.relocs = [⟨0, off, 0, 64, .label 0 o⟩] → off + 8 ≤ x.bytes.length →
          t.mem = memWrite s.mem (clusLoc x.clus + (x.va - ownClus))
            (x.bytes.take off ++ natBytes 8 (BitVec.ofNat 64 x.va + o).toNat ++ x.bytes.drop (off + 8)))) ∧
      (im.sections = [] → t.mem = s.mem) ∧
      (∀ k n d, im.rings = [(k, n, d)] → ringImageOk s im.part k (d.extractLsb' 0 64) (d.extractLsb' 64 64) = true →
        (s.ring k n).claimed = (s.ring k n).head → t.ring k n = newRing im.part (d.extractLsb' 0 64) (d.extractLsb' 64 64)) ∧
      (∀ n d, im.sections = [] → im.experts = [(n, d)] → xqConfigOk s im.part d = true → s.xq im.part n = none →
        (t.part im.part).xqs.find n = some (xqOf im.part d))) ∧
  (∀ (s : State) im, s.arg = .image im → im.grants.elim false (s.grantsHeld im.part) = true → exec .imageLoad s = .next s) ∧
  (∀ (s : State) im g, s.arg = .image im → s.firmware = .running → im.part < 8 → im.sections = [] → im.objects = [] →
    im.rings = [] → im.experts = [] → im.grants = some g → s.grantsHeld im.part g = false →
    let others (n : Nat) : Prop := ∃ q, q < 8 ∧ q ≠ im.part ∧ n ∈ (s.part q).namespaces
    ∃ t, exec .imageLoad s = .next t ∧ t.mem = s.mem ∧ ∀ n ∈ g.namespaces,
      (¬others n → n ∈ (t.part im.part).namespaces ∧ ∀ name, t.store n name =
        if s.spaceOwner.get n im.part = im.part then s.store n name else none) ∧
      (others n → n ∉ (t.part im.part).namespaces ∧ ∀ name, t.store n name = s.store n name)) ∧
  (∀ (s : State) d off v, s.arg = .word d off v → d < 4 → s.firmware = .running →
    ∃ t, exec .galliardCtlWrite s = .next t ∧ (t.die d).age = v.extractLsb' 0 32 ∧ (t.die d).xchg = v.extractLsb' 32 16 ∧
      t.mem = s.mem ∧ ∀ e, e ≠ d → t.die e = s.die e) ∧
  (∀ (s : State) d i p, s.arg = .node d i p → s.firmware = .running → d < 4 → i < 256 → p < 8 →
    (s.granuleOwner d i = p → exec .dieScratchGrant s = .next s) ∧
    (s.storageHeld (fun _ => true) [granuleRun d i] = true → exec .dieScratchGrant s = .next s) ∧
    (s.granuleOwner d i ≠ p → s.storageHeld (fun _ => true) [granuleRun d i] = false → ∃ t, exec .dieScratchGrant s = .next t ∧ t.granuleOwner d i = p ∧
      (∀ j, j < 256 → j ≠ i → t.granuleOwner d j = s.granuleOwner d j) ∧
      let inside : Nat → Bool := fun a => dieLoc d + i * 0x100000 ≤ a && a < dieLoc d + (i + 1) * 0x100000
      (∀ a, inside a = true → memGet t.mem a = 0) ∧
      (s.mem.wf = true → (∀ g, (s.core g).storesTo inside = false) → ∀ a, inside a = false → memGet t.mem a = memGet s.mem a)))

/-! ## The machine as a whole -/

/-- R5, R27, R80, R138, R264, R346: the device after a reset: every core is idle with m0 and m1 to m7 all ones and its seed,
the Galliards and the power modes hold their reset values, storage lists nothing, and the invariant of storage holds. That
storage reads 0 where nothing was written, and that registers with no reset value stand at 0, are the model's choices
(assumptions 1 and 3). -/
def Obligations.ResetState : Prop :=
  State.reset.Inv ∧ State.reset.mem = [] ∧ State.reset.cycle = 0 ∧ State.reset.tasks = [] ∧ State.reset.firmware = .running ∧
  (∀ g, let c := State.reset.core g
    c.running = false ∧ c.task = none ∧ (∀ r, c.reg r = 0) ∧ (∀ r, r < 32 → c.v.toArray.getD r 1 = 0) ∧
    (∀ k : BitVec 3, c.mask k = BitVec.allOnes 1024) ∧ c.seed = 0x9E3779B97F4A7C15 ^^^ BitVec.ofNat 64 g ∧ c.hndCtl = 0 ∧
    c.inh = false ∧ c.drained = true ∧ c.joinTimeout = 0x1000 ∧ c.fpstat = 0 ∧ c.ftz = false ∧ c.nten = false) ∧
  (∀ d, (State.reset.die d).age = 0x00010000 ∧ (State.reset.die d).xchg = 0x0400) ∧
  (∀ k, (State.reset.cluster k).mode = 1 ∧ (State.reset.cluster k).quad.run = .idle)

/-- A STEP RUNS THE DECODED INSTRUCTION. The scalar pipe takes the word that its line buffer or the drift window holds for its
pc, an engine the head of its queue, a Pavane the micro-word at its pc, and an event runs as it is listed; a word that decodes
to an engine word enters its queue, and an illegal one raises ILLOP with its sub-cause. With no move listed the agents take
turns by the cycle. A move that says which read meets an uncorrectable error takes R354's effect on that read; that the agenda
says so is the model's choice (assumption 53). The order of turns with no move listed is the model's choice (assumption 10),
and so is one move at a time (assumption 2). -/
def Obligations.StepRuns : Prop :=
  (∀ (s : State) m ms g w v, s.agenda = m :: ms → m.turn = .scalar g →
    let u : State := { s with agenda := ms, cycle := s.cycle + m.dt, me := g, clus := clusOf g, arg := .none }
    let c := s.core g
    c.running = true → c.stopped = false → c.halted = false → c.pend = none → u.overtime c = false → c.wait = none →
    (c.inh = false ∨ u.cancelledAt g = false) → codeOk c.pc = true →
    u.takeWord g = (some w, v) →
    (v.wordUnc g = true → step s = .next (v.raise g none { cause := cMEMUNC, addr := c.pc.toNat })) ∧
    (v.wordUnc g = false →
      let x : State := v.updCore g fun c => { c with stage := wordStage w }
      (∀ i, decodeWord w = .ok i → (i.engine = none → step s = exec i x) ∧ (i.engine ≠ none → step s = exec (.engineEnqueue w) x)) ∧
      (∀ n, decodeWord w = .error n → step s = .next (x.raise g none { cause := cILLOP, sub := n })))) ∧
  (∀ (s : State) m ms g i, s.agenda = m :: ms → m.turn = .scalar g → (s.core g).running = true → (s.core g).stopped = false →
    (s.core g).halted = false → (s.core g).wait = some (.sysc i) →
    step s = exec i { s with agenda := ms, cycle := s.cycle + m.dt, me := g, clus := clusOf g, arg := .none }) ∧
  (∀ (s : State) g, let c := s.core g
    (∀ x, c.att = false → c.lines.find? (fun y => y.1 = lineOf c.pc) = some x →
      s.takeWord g = (some (x.2.extractLsb' (8 * (c.pc.toNat % 64)) 64), s.updCore g (·.touchLine (lineOf c.pc)))) ∧
    (∀ e, c.att = true → (s.cluster (clusOf g)).quad.base ≤ c.qpos →
      (s.cluster (clusOf g)).quad.win[c.qpos - (s.cluster (clusOf g)).quad.base]? = some e → s.takeWord g = (some e.word, s))) ∧
  (∀ (s : State) m ms g e h i, s.agenda = m :: ms → m.turn = .engine g e → ((s.core g).getEng e).queue.head? = some h →
    decodeWord h.word = .ok i → ((s.core g).issueCycle = s.cycle + m.dt → (s.core g).issueSeq ≤ h.seq) →
    (∀ l ∈ (s.core g).late, l.eng ≠ e) →
    step s = exec i { s with agenda := ms, cycle := s.cycle + m.dt, me := g, clus := clusOf g, arg := .none }) ∧
  (∀ (s : State) m ms g e rows h i t, s.agenda = m :: ms → m.turn = .engineLate g e rows → ((s.core g).getEng e).queue.head? = some h →
    decodeWord h.word = .ok i → ((s.core g).issueCycle = s.cycle + m.dt → (s.core g).issueSeq ≤ h.seq) →
    (∀ l ∈ (s.core g).late, l.eng ≠ e) →
    exec i { s with agenda := ms, cycle := s.cycle + m.dt, me := g, clus := clusOf g, arg := .none } = .next t →
    step s = .next (t.updCore g fun c => (s.core g).delayRows c e rows)) ∧
  (∀ (s : State) m ms g e rows, s.agenda = m :: ms → m.turn = .rows g e rows →
    step s = .next ({ s with agenda := ms, cycle := s.cycle + m.dt }.updCore g fun c => c.writeRows e rows.contains)) ∧
  (∀ (s : State) m ms k p, s.agenda = m :: ms → m.turn = .pavane k → s.passOf k = some p →
    let u : State := { s with agenda := ms, cycle := s.cycle + m.dt, clus := k, arg := .none }
    let w := (s.cluster k).pav.store.get p.pc 0
    (∀ i, decodePavane w = some i → step s = exec i u) ∧
    (decodePavane w = none → ((∀ o ∈ p.ops, o.op ≠ 0x14) → step s = .next (u.passFault k p.pc cPVILL)) ∧
      ((∃ o ∈ p.ops, o.op = 0x14) → step s = .next u))) ∧
  (∀ (s : State) m ms i a, s.agenda = m :: ms → m.turn = .event i a → i.isEvent = true →
    step s = exec i { s with agenda := ms, cycle := s.cycle + m.dt, arg := a }) ∧
  (∀ (s : State) m ms x, s.agenda = m :: ms → m.turn = .unc x →
    step s = .next (State.uncMet { s with agenda := ms, cycle := s.cycle + m.dt } x)) ∧
  (∀ s : State, s.agenda = [] → step s = step { s with agenda := [⟨1, s.autoTurn⟩] })

/-- R41 to R53: words written out from the encoding tables decode to the instructions they stand for, and a word with a
nonzero reserved field, an undefined KIND or a token clause on a scalar word is illegal with its sub-cause. -/
def Obligations.SampleWords : Prop :=
  decodeWord 0x010000C308000000 = .ok (.add .always 3 3 2) ∧
  decodeWord 0x0100020418002600 = .ok (.addx .always 8 4 6 3) ∧
  decodeWord 0x0800024900000004 = .ok (.addi .always 9 9 4) ∧
  decodeWord 0x040002C000000000 = .ok (.cmp .always .ne 3 0 0) ∧
  decodeWord 0x13000100FFFFFFFF = .ok (.li .always 4 (-1)) ∧
  decodeWord 0x2000010518730200 = .ok (.ffma .always .f32 .rtz 4 5 6 7) ∧
  decodeWord 0x31000500FFFFFFFB = .ok (.bc 2 true (-5)) ∧
  decodeWord 0x3A000000FFFFFFFF = .ok (.lend 0 (-1)) ∧
  decodeWord 0x3C00000000000007 = .ok (.join 7) ∧
  decodeWord 0x3E00000000000000 = .ok (.exit) ∧
  decodeWord 0x4000024446FFFFF0 = .ok (.ldw .always 9 4 .die .acq (-16)) ∧
  decodeWord 0x4200027F0BFFFFF8 = .ok (.std .always 9 63 .near .rel (-8)) ∧
  decodeWord 0x50A1420440000000 = .ok (.vadd ⟨.stage 2, some .LA, some .AS⟩ .f32 4 1 2 0) ∧
  decodeWord 0x5E00031020E02204 = .ok (.vselk ⟨.always, none, none⟩ 6 4 1 4 1) ∧
  decodeWord 0x8000010000000028 = .ok (.qbind .always 1 40) ∧
  decodeWord 0x8400012040000002 = .ok (.mma ⟨.always, none, none⟩ .bf16 false 0 1 (.stream 2) 2) ∧
  decodeWord 0x8C00018800000010 = .ok (.ptrn ⟨.always, none, none⟩ .f32 3 2 16 0) ∧
  decodeWord 0x9000028B03000000 = .ok (.cpy .always 10 11 12 false) ∧
  decodeWord 0xA00001461C0809E3 = .ok (.acas .always true .dev .sc 5 6 7 8) ∧
  decodeWord 0xA100000000000013 = .ok (.fence .always .dev .rel) ∧
  decodeWord 0xA4000105180C8214 = .ok (.fwait .always true 4 5 6 12 20) ∧
  decodeWord 0xB00001461C030000 = .ok (.tsub .always 5 6 7 3) ∧
  decodeWord 0xB50001050025003F = .ok (.xqtake .always 4 5 0 37 63) ∧
  decodeWord 0xB800010518020000 = .ok (.srch .always 4 5 6 2) ∧
  decodeWord 0xC100000400100000 = .ok (.fpCtrlWrite 4) ∧
  decodeWord 0xC200000000000005 = .ok (.syscMap) ∧
  decodeWord 0xC500014400000045 = .ok (.wpset 4 5 1 .clus .write) ∧
  decodeWord 0xFF000000000000AB = .ok (.dbrk 0xAB) ∧
  decodeWord 0x010000C308000001 = .error 3 ∧ decodeWord 0x310005C0FFFFFFFB = .error 4 ∧ decodeWord 0x010100C308000000 = .error 5 ∧
  decodePavane 0x1008 = some (.pavaneParm 8) ∧ decodePavane 0x67F7 = some (.pavaneDjnz (-9)) ∧ decodePavane 0x7800 = some .pavaneHalt

/-- Decoding takes every well-formed instruction of the word format, with every operand at every value the encoding admits,
back from its encoding, and every micro-word of the Pavane; no two well-formed instructions share a word. -/
def Obligations.DecodeEncode : Prop :=
  (∀ i : Instr, i.wf = true → decodeWord (encode i) = .ok i) ∧
  (∀ i : Instr, i.wfPavane = true → decodePavane (encodePavane i) = some i) ∧
  (∀ i j : Instr, i.wf = true → j.wf = true → encode i = encode j → i = j)

/-- Every step keeps the invariant of storage: storage, the baseline and the checkpoint images stay in their canonical form,
so that equal contents are equal data. -/
def Obligations.StorageInvariant : Prop := ∀ s t : State, s.Inv → step s = .next t → t.Inv
end

