-- ==== Sys2Proof/Laws/Tab.lean ====
section
/-!
SUPPORT. Sparse tables: what a listed and an unlisted number read as after a change.
-/

namespace Sys2Proof.Machine

theorem Tab.find_set_same {α : Type} (t : Tab α) (k : Nat) (a : α) : Tab.find (Tab.set t k a) k = some a := by
  induction t with
  | nil => simp [Tab.set, Tab.find]
  | cons x t ih =>
    obtain ⟨i, b⟩ := x
    simp only [Tab.set]
    split
    · simp [Tab.find]
    · split
      · simp [Tab.find]
      · simp only [Tab.find]
        rw [if_neg (by omega), ih]

theorem Tab.find_set_ne {α : Type} (t : Tab α) {k j : Nat} (a : α) (h : j ≠ k) : Tab.find (Tab.set t k a) j = Tab.find t j := by
  induction t with
  | nil => simp only [Tab.set, Tab.find]; rw [if_neg (Ne.symm h)]
  | cons x t ih =>
    obtain ⟨i, b⟩ := x
    simp only [Tab.set]
    split
    · simp only [Tab.find]; rw [if_neg (Ne.symm h)]
    · split
      · subst_vars
        simp only [Tab.find]
        rw [if_neg (Ne.symm h), if_neg (Ne.symm h)]
      · simp only [Tab.find, ih]

@[simp] theorem Tab.get_set_same {α : Type} (t : Tab α) (k : Nat) (a d : α) : Tab.get (Tab.set t k a) k d = a := by
  simp [Tab.get, Tab.find_set_same]

theorem Tab.get_set_ne {α : Type} (t : Tab α) {k j : Nat} (a d : α) (h : j ≠ k) :
    Tab.get (Tab.set t k a) j d = Tab.get t j d := by
  simp [Tab.get, Tab.find_set_ne t a h]

theorem Tab.find_del_same {α : Type} (t : Tab α) (k : Nat) : Tab.find (Tab.del t k) k = none := by
  induction t with
  | nil => rfl
  | cons x t ih =>
    obtain ⟨i, b⟩ := x
    simp only [Tab.del]
    split
    · exact ih
    · simp only [Tab.find]; rw [if_neg (by assumption), ih]

theorem Tab.find_del_ne {α : Type} (t : Tab α) {k j : Nat} (h : j ≠ k) : Tab.find (Tab.del t k) j = Tab.find t j := by
  induction t with
  | nil => rfl
  | cons x t ih =>
    obtain ⟨i, b⟩ := x
    simp only [Tab.del]
    split
    · subst_vars; simp only [Tab.find]; rw [if_neg (Ne.symm h), ih]
    · simp only [Tab.find, ih]

theorem Tab.set_set {α : Type} (t : Tab α) (k : Nat) (a b : α) : Tab.set (Tab.set t k a) k b = Tab.set t k b := by
  induction t with
  | nil => simp [Tab.set]
  | cons x t ih =>
    obtain ⟨i, c⟩ := x
    simp only [Tab.set]
    split
    · simp [Tab.set]
    · split
      · simp [Tab.set]
      · rename_i h1 h2
        simp only [Tab.set, if_neg h1, if_neg h2, ih]

/-! ## Units -/

@[simp] theorem State.core_setCore_same (s : State) (g : Nat) (c : Core) : (s.setCore g c).core g = c := by
  simp [State.setCore, State.core]

theorem State.core_setCore_ne (s : State) {g h : Nat} (c : Core) (hn : h ≠ g) : (s.setCore g c).core h = s.core h := by
  simp [State.setCore, State.core, Tab.get_set_ne _ _ _ hn]

@[simp] theorem State.core_updCore_same (s : State) (g : Nat) (f : Core → Core) : (s.updCore g f).core g = f (s.core g) := by
  simp [State.updCore]

/-- Two changes of one core are one. -/
theorem State.updCore_updCore (s : State) (g : Nat) (f h : Core → Core) : (s.updCore g f).updCore g h = s.updCore g fun c => h (f c) := by
  simp [State.updCore, State.setCore, State.core, Tab.set_set]

theorem State.core_updCore_ne (s : State) {g h : Nat} (f : Core → Core) (hn : h ≠ g) : (s.updCore g f).core h = s.core h := by
  simp [State.updCore, State.core_setCore_ne s _ hn]

@[simp] theorem State.cluster_updCluster_same (s : State) (k : Nat) (f : Cluster → Cluster) :
    (s.updCluster k f).cluster k = f (s.cluster k) := by
  simp [State.updCluster, State.setCluster, State.cluster]

theorem State.cluster_updCluster_ne (s : State) {k j : Nat} (f : Cluster → Cluster) (hn : j ≠ k) :
    (s.updCluster k f).cluster j = s.cluster j := by
  simp [State.updCluster, State.setCluster, State.cluster, Tab.get_set_ne _ _ _ hn]

@[simp] theorem State.die_updDie_same (s : State) (d : Nat) (f : Die → Die) : (s.updDie d f).die d = f (s.die d) := by
  simp [State.updDie, State.die]

theorem State.die_updDie_ne (s : State) {d e : Nat} (f : Die → Die) (hn : e ≠ d) : (s.updDie d f).die e = s.die e := by
  simp [State.updDie, State.die, Tab.get_set_ne _ _ _ hn]

@[simp] theorem State.part_updPart_same (s : State) (p : Nat) (f : Partition → Partition) :
    (s.updPart p f).part p = f (s.part p) := by
  simp [State.updPart, State.part]

theorem State.part_updPart_ne (s : State) {p r : Nat} (f : Partition → Partition) (hn : r ≠ p) :
    (s.updPart p f).part r = s.part r := by
  simp [State.updPart, State.part, Tab.get_set_ne _ _ _ hn]

end Sys2Proof.Machine
end

