-- ==== Sys2Proof/Laws/Agents.lean ====
section
/-!
SUPPORT. What the operations of the firmware and of the queues can do: storage that changes hands, the register page of a partition
that is reset, flash namespaces and their stores, the order of two expert queues (09_progress_scheduling.md R280, R281; 11_isolation.md
R322 to R325).
-/

namespace Sys2Proof.Machine

/-! ## Storage that changes hands -/

/-- Storage that nothing holds is named by no KVBIND, and by no ring or monitor of a cluster that counts. -/
theorem State.storageHeld_false {s : State} {other : Nat → Bool} {runs : List (Nat × Nat)} (h : s.storageHeld other runs = false)
    {x : Nat × Nat} (hx : x ∈ runs) :
    (∀ b ∈ s.binds, overlaps b.slotLoc (8 * b.nblk) x.1 x.2 = false) ∧
    (∀ c ∈ s.clusters, other c.1 = true → ∀ r ∈ c.2.rings, r.2.valid = true →
      overlaps (r.2.slotLoc c.1 0) (r.2.count.toNat * r.2.slotsz.toNat) x.1 x.2 = false) ∧
    (∀ c ∈ s.cores, other (clusOf c.1) = true → ∀ m, some m ∈ c.2.monitors.toList → overlaps m.loc 8 x.1 x.2 = false) := by
  simp only [State.storageHeld, Bool.or_eq_false_iff, List.any_eq_false, Bool.and_eq_true, not_and, Bool.not_eq_true] at h
  obtain ⟨⟨hr, hb⟩, hm⟩ := h
  refine ⟨fun b hb' => by simpa using hb b hb' x hx, fun c hc ho r hr' hv => ?_, fun c hc ho m hm' => ?_⟩
  · simpa using hr c hc ho r hr' hv x hx
  · exact Bool.eq_false_iff.mpr (List.any_eq_false.mp (hm c hc ho (some m) hm') x hx)

/-- An idle cluster runs no task and holds no pass, request or binding of its own, no core waits for it, and nothing elsewhere names its
scratch. -/
theorem State.clusIdle_true {s : State} {k : Nat} (h : s.clusIdle k = true) :
    (∀ g ∈ coresOf k, (s.core g).task = none) ∧ s.passOf k = none ∧ (s.cluster k).pav.reqs = [] ∧
    (∀ b ∈ s.binds, clusOf b.core ≠ k) ∧ (∀ c ∈ s.cores, c.2.waitsOn k = false) ∧ s.storageHeld (· != k) (clusRuns k) = false := by
  simp only [State.clusIdle, Bool.and_eq_true, Bool.not_eq_true', List.all_eq_true, List.any_eq_false, decide_eq_true_eq,
    Option.isNone_iff_eq_none, State.coreIdle, Bool.not_eq_true] at h
  obtain ⟨⟨⟨⟨⟨⟨⟨⟨⟨h1, h2⟩, h3⟩, -⟩, -⟩, -⟩, h7⟩, -⟩, h9⟩, h10⟩ := h
  exact ⟨h1, h2, h3, h7, h9, h10⟩

/-! ## Flash namespaces and their stores -/

@[simp] theorem State.store_putStore_same (s : State) (ns name : Nat) (x : Store) : (s.putStore ns name x).store ns name = some x := by
  simp [State.putStore, State.store, Tab.find_set_same]

theorem State.store_putStore_ne (s : State) {ns ns' name name' : Nat} (x : Store) (h : ns' ≠ ns ∨ name' ≠ name) :
    (s.putStore ns name x).store ns' name' = s.store ns' name' := by
  by_cases e : ns' = ns
  · subst e
    simp [State.putStore, State.store, Tab.find_set_ne _ _ (h.resolve_left fun n => n rfl)]
  · simp [State.putStore, State.store, Tab.get_set_ne _ _ _ e]

/-- A store is read through an entry only by the partition that its namespace is granted to and that held it last. -/
theorem State.storeOf_some {s : State} {p : Nat} {e : ObjEntry} {x : Store} (h : s.storeOf p e = some x) :
    e.ns ∈ (s.part p).namespaces ∧ s.spaceOwner.get e.ns p = p ∧ s.store e.ns e.store = some x := by
  unfold State.storeOf at h
  split at h
  · rename_i hc
    simp only [Bool.and_eq_true, List.contains_iff_mem, decide_eq_true_eq] at hc
    exact ⟨hc.1, hc.2, h⟩
  · cases h

/-- A namespace that is claimed keeps its stores only for the partition that held it last. -/
theorem State.store_claimSpace (s : State) (p n name : Nat) :
    (s.claimSpace p n).store n name = if s.spaceOwner.get n p = p then s.store n name else none := by
  simp only [State.claimSpace, State.store]
  split
  · rfl
  · simp [Tab.get, Tab.find_del_same, Tab.find]

/-- A claim touches no other namespace. -/
theorem State.store_claimSpace_ne (s : State) {p n m : Nat} (name : Nat) (h : m ≠ n) : (s.claimSpace p n).store m name = s.store m name := by
  simp only [State.claimSpace, State.store]
  split
  · rfl
  · simp [Tab.get, Tab.find_del_ne _ h]

@[simp] theorem State.claimSpace_owner (s : State) (p n q : Nat) : (s.claimSpace p n).spaceOwner.get n q = p := by
  simp [State.claimSpace]

/-! ## The register page of a partition that is reset -/

@[simp] theorem CmdQ.preset_slots (q : CmdQ) : q.preset.slots = q.slots := rfl
@[simp] theorem CmdQ.preset_tail (q : CmdQ) : q.preset.tail = q.tail := rfl
@[simp] theorem CmdQ.preset_head (q : CmdQ) : q.preset.head = q.head := rfl
@[simp] theorem CmdQ.preset_en (q : CmdQ) : q.preset.en = q.en := rfl
@[simp] theorem CmdQ.preset_log2 (q : CmdQ) : q.preset.log2 = 0xA := rfl
@[simp] theorem CmdQ.preset_coal (q : CmdQ) : q.preset.coal = 0 := rfl
@[simp] theorem CmdQ.preset_brk0 (q : CmdQ) : q.preset.brk0 = 0 := rfl
@[simp] theorem CmdQ.preset_brk1 (q : CmdQ) : q.preset.brk1 = 0 := rfl
@[simp] theorem CmdQ.preset_ovr (q : CmdQ) : q.preset.ovr = false := rfl
@[simp] theorem CmdQ.preset_halted (q : CmdQ) : q.preset.halted = false := rfl

/-! ## Expert queues -/

/-- Of two age-due queues at most one ranks after the other for having fired. -/
theorem XQueue.ranksAfter_asymm {x y : XQueue} {now : Nat} (h : x.ranksAfter y now = true) : y.ranksAfter x now = false := by
  simp only [XQueue.ranksAfter, Bool.and_eq_true, Bool.or_eq_true, Bool.not_eq_true', decide_eq_true_eq] at h
  rcases h with ⟨⟨⟨hx, hy⟩, hf⟩, hg | hg⟩
  · simp [XQueue.ranksAfter, hg]
  · simp [XQueue.ranksAfter, hf, Nat.le_of_lt hg]

end Sys2Proof.Machine
end

