-- ==== Sys2Proof/Laws/Commands.lean ====
section
/-!
SUPPORT. What the shared operations of the store-merge buffer and of the copy engines can do: pending strong stores that a drain performs,
staged copies that are dropped, an engine with nothing left to start, and contributions (07_ordering.md R192, R195; 08_sync_async.md R236,
R240).
-/

namespace Sys2Proof.Machine

/-! ## Before a granule drains -/

/-- Where no pending strong store touches the granule, nothing performs for it. -/
theorem State.performFor_of_untouched {s : State} {g gran : Nat} (h : outTouches (s.core g).out (64 * gran) 64 = false) (n : Nat) :
    s.performFor g gran n = s := by
  have e : (s.core g).out.findIdx? (·.touches (64 * gran) 64) = none := by
    simpa [outTouches, List.findIdx?_eq_none_iff] using h
  cases n with
  | zero => rfl
  | succ n => simp only [State.performFor, e]

@[simp] theorem State.dropStaged_mem (s : State) (g : Nat) (rs : List (Nat × Nat)) : (s.dropStaged g rs).mem = s.mem := rfl
@[simp] theorem State.dropStaged_cmds (s : State) (g : Nat) (rs : List (Nat × Nat)) : (s.dropStaged g rs).cmds = s.cmds := rfl

/-! ## The engines -/

/-- With every command started there is nothing to start. -/
theorem State.startCmds_of_started {s : State} (h : ∀ c ∈ s.cmds, c.started = true) (die : Bool) (e n : Nat) : s.startCmds die e n = s := by
  have x : (s.cmdsOf die e).find? (fun c => !c.started) = none := by
    simp only [List.find?_eq_none, State.cmdsOf, List.mem_filter]
    rintro c ⟨hc, -⟩
    simp [h c hc]
  cases n with
  | zero => rfl
  | succ n => simp only [State.startCmds, x]

/-! ## Contributions -/

/-- An unordered contribution never waits, and applies at once. -/
theorem RedIn.waits_unordered {x : RedIn} (h : x.ordered = false) (s : State) : x.waits s = false := by simp [RedIn.waits, h]

theorem RedIn.applied_unordered {x : RedIn} (h : x.ordered = false) (s : State) : x.applied s = some [x.contribution] := by
  simp [RedIn.applied, h]

/-- An ordered contribution applies with the others of its round when it is the last of its sources. -/
theorem RedIn.applied_ordered {x : RedIn} (h : x.ordered = true) (s : State) :
    x.applied s = (let held := insertRank x.contribution ((x.round s).elim [] (·.held))
      if held.length = x.srcs then some held else none) := by
  simp [RedIn.applied, h]

/-- A contribution joins a round as one more. -/
@[simp] theorem insertRank_length (c : Contribution) (ds : List Contribution) : (insertRank c ds).length = ds.length + 1 := by
  induction ds with
  | nil => rfl
  | cons d ds ih =>
    simp only [insertRank]
    split
    · rfl
    · simp [ih]

end Sys2Proof.Machine
end

