-- ==== Sys2Proof/Laws/Exec.lean ====
section
/-!
SUPPORT. What `exec` runs for each constructor of `Instr`: its meaning.
-/

namespace Sys2Proof.Machine

set_option Elab.async false

@[simp] theorem exec_add (x0 : Qual) (x1 : BitVec 6) (x2 : BitVec 6) (x3 : BitVec 6) (s : State) : exec (.add x0 x1 x2 x3) s = execAdd x0 x1 x2 x3 s := rfl
@[simp] theorem exec_sub (x0 : Qual) (x1 : BitVec 6) (x2 : BitVec 6) (x3 : BitVec 6) (s : State) : exec (.sub x0 x1 x2 x3) s = execSub x0 x1 x2 x3 s := rfl
@[simp] theorem exec_addx (x0 : Qual) (x1 : BitVec 6) (x2 : BitVec 6) (x3 : BitVec 6) (x4 : BitVec 3) (s : State) : exec (.addx x0 x1 x2 x3 x4) s = execAddx x0 x1 x2 x3 x4 s := rfl
@[simp] theorem exec_lea (x0 : Qual) (x1 : BitVec 6) (x2 : BitVec 6) (x3 : BitVec 6) (x4 : BitVec 6) (s : State) : exec (.lea x0 x1 x2 x3 x4) s = execLea x0 x1 x2 x3 x4 s := rfl
@[simp] theorem exec_min (x0 : Qual) (x1 : BitVec 6) (x2 : BitVec 6) (x3 : BitVec 6) (s : State) : exec (.min x0 x1 x2 x3) s = execMin x0 x1 x2 x3 s := rfl
@[simp] theorem exec_max (x0 : Qual) (x1 : BitVec 6) (x2 : BitVec 6) (x3 : BitVec 6) (s : State) : exec (.max x0 x1 x2 x3) s = execMax x0 x1 x2 x3 s := rfl
@[simp] theorem exec_minn (x0 : Qual) (x1 : BitVec 6) (x2 : BitVec 6) (x3 : BitVec 6) (s : State) : exec (.minn x0 x1 x2 x3) s = execMinn x0 x1 x2 x3 s := rfl
@[simp] theorem exec_maxn (x0 : Qual) (x1 : BitVec 6) (x2 : BitVec 6) (x3 : BitVec 6) (s : State) : exec (.maxn x0 x1 x2 x3) s = execMaxn x0 x1 x2 x3 s := rfl
@[simp] theorem exec_and (x0 : Qual) (x1 : BitVec 6) (x2 : BitVec 6) (x3 : BitVec 6) (s : State) : exec (.and x0 x1 x2 x3) s = execAnd x0 x1 x2 x3 s := rfl
@[simp] theorem exec_or (x0 : Qual) (x1 : BitVec 6) (x2 : BitVec 6) (x3 : BitVec 6) (s : State) : exec (.or x0 x1 x2 x3) s = execOr x0 x1 x2 x3 s := rfl
@[simp] theorem exec_xor (x0 : Qual) (x1 : BitVec 6) (x2 : BitVec 6) (x3 : BitVec 6) (s : State) : exec (.xor x0 x1 x2 x3) s = execXor x0 x1 x2 x3 s := rfl
@[simp] theorem exec_andn (x0 : Qual) (x1 : BitVec 6) (x2 : BitVec 6) (x3 : BitVec 6) (s : State) : exec (.andn x0 x1 x2 x3) s = execAndn x0 x1 x2 x3 s := rfl
@[simp] theorem exec_orn (x0 : Qual) (x1 : BitVec 6) (x2 : BitVec 6) (x3 : BitVec 6) (s : State) : exec (.orn x0 x1 x2 x3) s = execOrn x0 x1 x2 x3 s := rfl
@[simp] theorem exec_sel (x0 : Qual) (x1 : BitVec 6) (x2 : BitVec 6) (x3 : BitVec 6) (x4 : BitVec 3) (s : State) : exec (.sel x0 x1 x2 x3 x4) s = execSel x0 x1 x2 x3 x4 s := rfl
@[simp] theorem exec_shl (x0 : Qual) (x1 : BitVec 6) (x2 : BitVec 6) (x3 : BitVec 6) (s : State) : exec (.shl x0 x1 x2 x3) s = execShl x0 x1 x2 x3 s := rfl
@[simp] theorem exec_shr (x0 : Qual) (x1 : BitVec 6) (x2 : BitVec 6) (x3 : BitVec 6) (s : State) : exec (.shr x0 x1 x2 x3) s = execShr x0 x1 x2 x3 s := rfl
@[simp] theorem exec_sar (x0 : Qual) (x1 : BitVec 6) (x2 : BitVec 6) (x3 : BitVec 6) (s : State) : exec (.sar x0 x1 x2 x3) s = execSar x0 x1 x2 x3 s := rfl
@[simp] theorem exec_rol (x0 : Qual) (x1 : BitVec 6) (x2 : BitVec 6) (x3 : BitVec 6) (s : State) : exec (.rol x0 x1 x2 x3) s = execRol x0 x1 x2 x3 s := rfl
@[simp] theorem exec_ror (x0 : Qual) (x1 : BitVec 6) (x2 : BitVec 6) (x3 : BitVec 6) (s : State) : exec (.ror x0 x1 x2 x3) s = execRor x0 x1 x2 x3 s := rfl
@[simp] theorem exec_fshl (x0 : Qual) (x1 : BitVec 6) (x2 : BitVec 6) (x3 : BitVec 6) (x4 : BitVec 6) (s : State) : exec (.fshl x0 x1 x2 x3 x4) s = execFshl x0 x1 x2 x3 x4 s := rfl
@[simp] theorem exec_fshr (x0 : Qual) (x1 : BitVec 6) (x2 : BitVec 6) (x3 : BitVec 6) (x4 : BitVec 6) (s : State) : exec (.fshr x0 x1 x2 x3 x4) s = execFshr x0 x1 x2 x3 x4 s := rfl
@[simp] theorem exec_clz (x0 : Qual) (x1 : BitVec 6) (x2 : BitVec 6) (s : State) : exec (.clz x0 x1 x2) s = execClz x0 x1 x2 s := rfl
@[simp] theorem exec_ctz (x0 : Qual) (x1 : BitVec 6) (x2 : BitVec 6) (s : State) : exec (.ctz x0 x1 x2) s = execCtz x0 x1 x2 s := rfl
@[simp] theorem exec_popc (x0 : Qual) (x1 : BitVec 6) (x2 : BitVec 6) (s : State) : exec (.popc x0 x1 x2) s = execPopc x0 x1 x2 s := rfl
@[simp] theorem exec_brev (x0 : Qual) (x1 : BitVec 6) (x2 : BitVec 6) (s : State) : exec (.brev x0 x1 x2) s = execBrev x0 x1 x2 s := rfl
@[simp] theorem exec_bswp (x0 : Qual) (x1 : BitVec 6) (x2 : BitVec 6) (s : State) : exec (.bswp x0 x1 x2) s = execBswp x0 x1 x2 s := rfl
@[simp] theorem exec_mul (x0 : Qual) (x1 : BitVec 6) (x2 : BitVec 6) (x3 : BitVec 6) (s : State) : exec (.mul x0 x1 x2 x3) s = execMul x0 x1 x2 x3 s := rfl
@[simp] theorem exec_mulh (x0 : Qual) (x1 : BitVec 6) (x2 : BitVec 6) (x3 : BitVec 6) (s : State) : exec (.mulh x0 x1 x2 x3) s = execMulh x0 x1 x2 x3 s := rfl
@[simp] theorem exec_mulhn (x0 : Qual) (x1 : BitVec 6) (x2 : BitVec 6) (x3 : BitVec 6) (s : State) : exec (.mulhn x0 x1 x2 x3) s = execMulhn x0 x1 x2 x3 s := rfl
@[simp] theorem exec_div (x0 : Qual) (x1 : BitVec 6) (x2 : BitVec 6) (x3 : BitVec 6) (s : State) : exec (.div x0 x1 x2 x3) s = execDiv x0 x1 x2 x3 s := rfl
@[simp] theorem exec_divn (x0 : Qual) (x1 : BitVec 6) (x2 : BitVec 6) (x3 : BitVec 6) (s : State) : exec (.divn x0 x1 x2 x3) s = execDivn x0 x1 x2 x3 s := rfl
@[simp] theorem exec_rem (x0 : Qual) (x1 : BitVec 6) (x2 : BitVec 6) (x3 : BitVec 6) (s : State) : exec (.rem x0 x1 x2 x3) s = execRem x0 x1 x2 x3 s := rfl
@[simp] theorem exec_remn (x0 : Qual) (x1 : BitVec 6) (x2 : BitVec 6) (x3 : BitVec 6) (s : State) : exec (.remn x0 x1 x2 x3) s = execRemn x0 x1 x2 x3 s := rfl
@[simp] theorem exec_cmp (x0 : Qual) (x1 : Cond) (x2 : BitVec 3) (x3 : BitVec 6) (x4 : BitVec 6) (s : State) : exec (.cmp x0 x1 x2 x3 x4) s = execCmp x0 x1 x2 x3 x4 s := rfl
@[simp] theorem exec_addi (x0 : Qual) (x1 : BitVec 6) (x2 : BitVec 6) (x3 : BitVec 32) (s : State) : exec (.addi x0 x1 x2 x3) s = execAddi x0 x1 x2 x3 s := rfl
@[simp] theorem exec_andi (x0 : Qual) (x1 : BitVec 6) (x2 : BitVec 6) (x3 : BitVec 32) (s : State) : exec (.andi x0 x1 x2 x3) s = execAndi x0 x1 x2 x3 s := rfl
@[simp] theorem exec_ori (x0 : Qual) (x1 : BitVec 6) (x2 : BitVec 6) (x3 : BitVec 32) (s : State) : exec (.ori x0 x1 x2 x3) s = execOri x0 x1 x2 x3 s := rfl
@[simp] theorem exec_xori (x0 : Qual) (x1 : BitVec 6) (x2 : BitVec 6) (x3 : BitVec 32) (s : State) : exec (.xori x0 x1 x2 x3) s = execXori x0 x1 x2 x3 s := rfl
@[simp] theorem exec_shli (x0 : Qual) (x1 : BitVec 6) (x2 : BitVec 6) (x3 : BitVec 32) (s : State) : exec (.shli x0 x1 x2 x3) s = execShli x0 x1 x2 x3 s := rfl
@[simp] theorem exec_shri (x0 : Qual) (x1 : BitVec 6) (x2 : BitVec 6) (x3 : BitVec 32) (s : State) : exec (.shri x0 x1 x2 x3) s = execShri x0 x1 x2 x3 s := rfl
@[simp] theorem exec_sari (x0 : Qual) (x1 : BitVec 6) (x2 : BitVec 6) (x3 : BitVec 32) (s : State) : exec (.sari x0 x1 x2 x3) s = execSari x0 x1 x2 x3 s := rfl
@[simp] theorem exec_bfx (x0 : Qual) (x1 : BitVec 6) (x2 : BitVec 6) (x3 : BitVec 6) (x4 : BitVec 7) (s : State) : exec (.bfx x0 x1 x2 x3 x4) s = execBfx x0 x1 x2 x3 x4 s := rfl
@[simp] theorem exec_bfxn (x0 : Qual) (x1 : BitVec 6) (x2 : BitVec 6) (x3 : BitVec 6) (x4 : BitVec 7) (s : State) : exec (.bfxn x0 x1 x2 x3 x4) s = execBfxn x0 x1 x2 x3 x4 s := rfl
@[simp] theorem exec_bfi (x0 : Qual) (x1 : BitVec 6) (x2 : BitVec 6) (x3 : BitVec 6) (x4 : BitVec 7) (s : State) : exec (.bfi x0 x1 x2 x3 x4) s = execBfi x0 x1 x2 x3 x4 s := rfl
@[simp] theorem exec_cmpi (x0 : Qual) (x1 : Cond) (x2 : BitVec 3) (x3 : BitVec 6) (x4 : BitVec 32) (s : State) : exec (.cmpi x0 x1 x2 x3 x4) s = execCmpi x0 x1 x2 x3 x4 s := rfl
@[simp] theorem exec_li (x0 : Qual) (x1 : BitVec 6) (x2 : BitVec 32) (s : State) : exec (.li x0 x1 x2) s = execLi x0 x1 x2 s := rfl
@[simp] theorem exec_lih (x0 : Qual) (x1 : BitVec 6) (x2 : BitVec 32) (s : State) : exec (.lih x0 x1 x2) s = execLih x0 x1 x2 s := rfl
@[simp] theorem exec_fadd (x0 : Qual) (x1 : Ty) (x2 : Rm) (x3 : BitVec 6) (x4 : BitVec 6) (x5 : BitVec 6) (s : State) : exec (.fadd x0 x1 x2 x3 x4 x5) s = execFadd x0 x1 x2 x3 x4 x5 s := rfl
@[simp] theorem exec_fsub (x0 : Qual) (x1 : Ty) (x2 : Rm) (x3 : BitVec 6) (x4 : BitVec 6) (x5 : BitVec 6) (s : State) : exec (.fsub x0 x1 x2 x3 x4 x5) s = execFsub x0 x1 x2 x3 x4 x5 s := rfl
@[simp] theorem exec_fmul (x0 : Qual) (x1 : Ty) (x2 : Rm) (x3 : BitVec 6) (x4 : BitVec 6) (x5 : BitVec 6) (s : State) : exec (.fmul x0 x1 x2 x3 x4 x5) s = execFmul x0 x1 x2 x3 x4 x5 s := rfl
@[simp] theorem exec_ffma (x0 : Qual) (x1 : Ty) (x2 : Rm) (x3 : BitVec 6) (x4 : BitVec 6) (x5 : BitVec 6) (x6 : BitVec 6) (s : State) : exec (.ffma x0 x1 x2 x3 x4 x5 x6) s = execFfma x0 x1 x2 x3 x4 x5 x6 s := rfl
@[simp] theorem exec_fdiv (x0 : Qual) (x1 : Ty) (x2 : Rm) (x3 : BitVec 6) (x4 : BitVec 6) (x5 : BitVec 6) (s : State) : exec (.fdiv x0 x1 x2 x3 x4 x5) s = execFdiv x0 x1 x2 x3 x4 x5 s := rfl
@[simp] theorem exec_fsqrt (x0 : Qual) (x1 : Ty) (x2 : Rm) (x3 : BitVec 6) (x4 : BitVec 6) (s : State) : exec (.fsqrt x0 x1 x2 x3 x4) s = execFsqrt x0 x1 x2 x3 x4 s := rfl
@[simp] theorem exec_fmin (x0 : Qual) (x1 : Ty) (x2 : BitVec 6) (x3 : BitVec 6) (x4 : BitVec 6) (s : State) : exec (.fmin x0 x1 x2 x3 x4) s = execFmin x0 x1 x2 x3 x4 s := rfl
@[simp] theorem exec_fmax (x0 : Qual) (x1 : Ty) (x2 : BitVec 6) (x3 : BitVec 6) (x4 : BitVec 6) (s : State) : exec (.fmax x0 x1 x2 x3 x4) s = execFmax x0 x1 x2 x3 x4 s := rfl
@[simp] theorem exec_fcmp (x0 : Qual) (x1 : Ty) (x2 : Cond) (x3 : BitVec 3) (x4 : BitVec 6) (x5 : BitVec 6) (s : State) : exec (.fcmp x0 x1 x2 x3 x4 x5) s = execFcmp x0 x1 x2 x3 x4 x5 s := rfl
@[simp] theorem exec_fcvt (x0 : Qual) (x1 : Ty) (x2 : Ty) (x3 : Rm) (x4 : BitVec 6) (x5 : BitVec 6) (s : State) : exec (.fcvt x0 x1 x2 x3 x4 x5) s = execFcvt x0 x1 x2 x3 x4 x5 s := rfl
@[simp] theorem exec_fclass (x0 : Qual) (x1 : Ty) (x2 : BitVec 6) (x3 : BitVec 6) (s : State) : exec (.fclass x0 x1 x2 x3) s = execFclass x0 x1 x2 x3 s := rfl
@[simp] theorem exec_br (x0 : BitVec 32) (s : State) : exec (.br x0) s = execBr x0 s := rfl
@[simp] theorem exec_bc (x0 : BitVec 3) (x1 : Bool) (x2 : BitVec 32) (s : State) : exec (.bc x0 x1 x2) s = execBc x0 x1 x2 s := rfl
@[simp] theorem exec_jmpr (x0 : BitVec 6) (s : State) : exec (.jmpr x0) s = execJmpr x0 s := rfl
@[simp] theorem exec_call (x0 : BitVec 32) (s : State) : exec (.call x0) s = execCall x0 s := rfl
@[simp] theorem exec_callr (x0 : BitVec 6) (s : State) : exec (.callr x0) s = execCallr x0 s := rfl
@[simp] theorem exec_ubz (x0 : BitVec 32) (s : State) : exec (.ubz x0) s = execUbz x0 s := rfl
@[simp] theorem exec_ubnz (x0 : BitVec 32) (s : State) : exec (.ubnz x0) s = execUbnz x0 s := rfl
@[simp] theorem exec_loop (x0 : BitVec 3) (x1 : BitVec 6) (x2 : BitVec 32) (s : State) : exec (.loop x0 x1 x2) s = execLoop x0 x1 x2 s := rfl
@[simp] theorem exec_ploop (x0 : BitVec 3) (x1 : BitVec 6) (x2 : BitVec 3) (x3 : BitVec 32) (s : State) : exec (.ploop x0 x1 x2 x3) s = execPloop x0 x1 x2 x3 s := rfl
@[simp] theorem exec_lend (x0 : BitVec 3) (x1 : BitVec 32) (s : State) : exec (.lend x0 x1) s = execLend x0 x1 s := rfl
@[simp] theorem exec_lbrk (x0 : BitVec 3) (x1 : BitVec 32) (s : State) : exec (.lbrk x0 x1) s = execLbrk x0 x1 s := rfl
@[simp] theorem exec_join (x0 : BitVec 32) (s : State) : exec (.join x0) s = execJoin x0 s := rfl
@[simp] theorem exec_detq (x0 : BitVec 6) (s : State) : exec (.detq x0) s = execDetq x0 s := rfl
@[simp] theorem exec_ldb (x0 : Qual) (x1 : BitVec 6) (x2 : BitVec 6) (x3 : Scope) (x4 : Ord) (x5 : BitVec 24) (s : State) : exec (.ldb x0 x1 x2 x3 x4 x5) s = execLdb x0 x1 x2 x3 x4 x5 s := rfl
@[simp] theorem exec_ldh (x0 : Qual) (x1 : BitVec 6) (x2 : BitVec 6) (x3 : Scope) (x4 : Ord) (x5 : BitVec 24) (s : State) : exec (.ldh x0 x1 x2 x3 x4 x5) s = execLdh x0 x1 x2 x3 x4 x5 s := rfl
@[simp] theorem exec_ldw (x0 : Qual) (x1 : BitVec 6) (x2 : BitVec 6) (x3 : Scope) (x4 : Ord) (x5 : BitVec 24) (s : State) : exec (.ldw x0 x1 x2 x3 x4 x5) s = execLdw x0 x1 x2 x3 x4 x5 s := rfl
@[simp] theorem exec_ldd (x0 : Qual) (x1 : BitVec 6) (x2 : BitVec 6) (x3 : Scope) (x4 : Ord) (x5 : BitVec 24) (s : State) : exec (.ldd x0 x1 x2 x3 x4 x5) s = execLdd x0 x1 x2 x3 x4 x5 s := rfl
@[simp] theorem exec_ldbn (x0 : Qual) (x1 : BitVec 6) (x2 : BitVec 6) (x3 : Scope) (x4 : Ord) (x5 : BitVec 24) (s : State) : exec (.ldbn x0 x1 x2 x3 x4 x5) s = execLdbn x0 x1 x2 x3 x4 x5 s := rfl
@[simp] theorem exec_ldhn (x0 : Qual) (x1 : BitVec 6) (x2 : BitVec 6) (x3 : Scope) (x4 : Ord) (x5 : BitVec 24) (s : State) : exec (.ldhn x0 x1 x2 x3 x4 x5) s = execLdhn x0 x1 x2 x3 x4 x5 s := rfl
@[simp] theorem exec_ldwn (x0 : Qual) (x1 : BitVec 6) (x2 : BitVec 6) (x3 : Scope) (x4 : Ord) (x5 : BitVec 24) (s : State) : exec (.ldwn x0 x1 x2 x3 x4 x5) s = execLdwn x0 x1 x2 x3 x4 x5 s := rfl
@[simp] theorem exec_stb (x0 : Qual) (x1 : BitVec 6) (x2 : BitVec 6) (x3 : Scope) (x4 : Ord) (x5 : BitVec 24) (s : State) : exec (.stb x0 x1 x2 x3 x4 x5) s = execStb x0 x1 x2 x3 x4 x5 s := rfl
@[simp] theorem exec_sth (x0 : Qual) (x1 : BitVec 6) (x2 : BitVec 6) (x3 : Scope) (x4 : Ord) (x5 : BitVec 24) (s : State) : exec (.sth x0 x1 x2 x3 x4 x5) s = execSth x0 x1 x2 x3 x4 x5 s := rfl
@[simp] theorem exec_stw (x0 : Qual) (x1 : BitVec 6) (x2 : BitVec 6) (x3 : Scope) (x4 : Ord) (x5 : BitVec 24) (s : State) : exec (.stw x0 x1 x2 x3 x4 x5) s = execStw x0 x1 x2 x3 x4 x5 s := rfl
@[simp] theorem exec_std (x0 : Qual) (x1 : BitVec 6) (x2 : BitVec 6) (x3 : Scope) (x4 : Ord) (x5 : BitVec 24) (s : State) : exec (.std x0 x1 x2 x3 x4 x5) s = execStd x0 x1 x2 x3 x4 x5 s := rfl
@[simp] theorem exec_engineEnqueue (x0 : Word) (s : State) : exec (.engineEnqueue x0) s = execEngineEnqueue x0 s := rfl
@[simp] theorem exec_vadd (x0 : Engw) (x1 : Ty) (x2 : BitVec 5) (x3 : BitVec 5) (x4 : BitVec 5) (x5 : BitVec 3) (s : State) : exec (.vadd x0 x1 x2 x3 x4 x5) s = execVadd x0 x1 x2 x3 x4 x5 s := rfl
@[simp] theorem exec_vsub (x0 : Engw) (x1 : Ty) (x2 : BitVec 5) (x3 : BitVec 5) (x4 : BitVec 5) (x5 : BitVec 3) (s : State) : exec (.vsub x0 x1 x2 x3 x4 x5) s = execVsub x0 x1 x2 x3 x4 x5 s := rfl
@[simp] theorem exec_vmul (x0 : Engw) (x1 : Ty) (x2 : BitVec 5) (x3 : BitVec 5) (x4 : BitVec 5) (x5 : BitVec 3) (s : State) : exec (.vmul x0 x1 x2 x3 x4 x5) s = execVmul x0 x1 x2 x3 x4 x5 s := rfl
@[simp] theorem exec_vfma (x0 : Engw) (x1 : Ty) (x2 : BitVec 5) (x3 : BitVec 5) (x4 : BitVec 5) (x5 : BitVec 5) (x6 : BitVec 3) (s : State) : exec (.vfma x0 x1 x2 x3 x4 x5 x6) s = execVfma x0 x1 x2 x3 x4 x5 x6 s := rfl
@[simp] theorem exec_vfms (x0 : Engw) (x1 : Ty) (x2 : BitVec 5) (x3 : BitVec 5) (x4 : BitVec 5) (x5 : BitVec 5) (x6 : BitVec 3) (s : State) : exec (.vfms x0 x1 x2 x3 x4 x5 x6) s = execVfms x0 x1 x2 x3 x4 x5 x6 s := rfl
@[simp] theorem exec_vmin (x0 : Engw) (x1 : Ty) (x2 : BitVec 5) (x3 : BitVec 5) (x4 : BitVec 5) (x5 : BitVec 3) (s : State) : exec (.vmin x0 x1 x2 x3 x4 x5) s = execVmin x0 x1 x2 x3 x4 x5 s := rfl
@[simp] theorem exec_vmax (x0 : Engw) (x1 : Ty) (x2 : BitVec 5) (x3 : BitVec 5) (x4 : BitVec 5) (x5 : BitVec 3) (s : State) : exec (.vmax x0 x1 x2 x3 x4 x5) s = execVmax x0 x1 x2 x3 x4 x5 s := rfl
@[simp] theorem exec_vabs (x0 : Engw) (x1 : Ty) (x2 : BitVec 5) (x3 : BitVec 5) (x4 : BitVec 3) (s : State) : exec (.vabs x0 x1 x2 x3 x4) s = execVabs x0 x1 x2 x3 x4 s := rfl
@[simp] theorem exec_vneg (x0 : Engw) (x1 : Ty) (x2 : BitVec 5) (x3 : BitVec 5) (x4 : BitVec 3) (s : State) : exec (.vneg x0 x1 x2 x3 x4) s = execVneg x0 x1 x2 x3 x4 s := rfl
@[simp] theorem exec_vand (x0 : Engw) (x1 : BitVec 5) (x2 : BitVec 5) (x3 : BitVec 5) (x4 : BitVec 3) (s : State) : exec (.vand x0 x1 x2 x3 x4) s = execVand x0 x1 x2 x3 x4 s := rfl
@[simp] theorem exec_vor (x0 : Engw) (x1 : BitVec 5) (x2 : BitVec 5) (x3 : BitVec 5) (x4 : BitVec 3) (s : State) : exec (.vor x0 x1 x2 x3 x4) s = execVor x0 x1 x2 x3 x4 s := rfl
@[simp] theorem exec_vxor (x0 : Engw) (x1 : BitVec 5) (x2 : BitVec 5) (x3 : BitVec 5) (x4 : BitVec 3) (s : State) : exec (.vxor x0 x1 x2 x3 x4) s = execVxor x0 x1 x2 x3 x4 s := rfl
@[simp] theorem exec_vnot (x0 : Engw) (x1 : BitVec 5) (x2 : BitVec 5) (x3 : BitVec 3) (s : State) : exec (.vnot x0 x1 x2 x3) s = execVnot x0 x1 x2 x3 s := rfl
@[simp] theorem exec_vshl (x0 : Engw) (x1 : Ty) (x2 : BitVec 5) (x3 : BitVec 5) (x4 : BitVec 5) (x5 : BitVec 3) (s : State) : exec (.vshl x0 x1 x2 x3 x4 x5) s = execVshl x0 x1 x2 x3 x4 x5 s := rfl
@[simp] theorem exec_vshr (x0 : Engw) (x1 : Ty) (x2 : BitVec 5) (x3 : BitVec 5) (x4 : BitVec 5) (x5 : BitVec 3) (s : State) : exec (.vshr x0 x1 x2 x3 x4 x5) s = execVshr x0 x1 x2 x3 x4 x5 s := rfl
@[simp] theorem exec_vsar (x0 : Engw) (x1 : Ty) (x2 : BitVec 5) (x3 : BitVec 5) (x4 : BitVec 5) (x5 : BitVec 3) (s : State) : exec (.vsar x0 x1 x2 x3 x4 x5) s = execVsar x0 x1 x2 x3 x4 x5 s := rfl
@[simp] theorem exec_vbfx (x0 : Engw) (x1 : Ty) (x2 : BitVec 5) (x3 : BitVec 5) (x4 : BitVec 5) (x5 : BitVec 6) (x6 : BitVec 3) (s : State) : exec (.vbfx x0 x1 x2 x3 x4 x5 x6) s = execVbfx x0 x1 x2 x3 x4 x5 x6 s := rfl
@[simp] theorem exec_vfsh (x0 : Engw) (x1 : Ty) (x2 : BitVec 5) (x3 : BitVec 5) (x4 : BitVec 5) (x5 : BitVec 5) (x6 : BitVec 3) (s : State) : exec (.vfsh x0 x1 x2 x3 x4 x5 x6) s = execVfsh x0 x1 x2 x3 x4 x5 x6 s := rfl
@[simp] theorem exec_vclz (x0 : Engw) (x1 : Ty) (x2 : BitVec 5) (x3 : BitVec 5) (x4 : BitVec 3) (s : State) : exec (.vclz x0 x1 x2 x3 x4) s = execVclz x0 x1 x2 x3 x4 s := rfl
@[simp] theorem exec_vpopc (x0 : Engw) (x1 : Ty) (x2 : BitVec 5) (x3 : BitVec 5) (x4 : BitVec 3) (s : State) : exec (.vpopc x0 x1 x2 x3 x4) s = execVpopc x0 x1 x2 x3 x4 s := rfl
@[simp] theorem exec_vcmp (x0 : Engw) (x1 : Ty) (x2 : Cond) (x3 : BitVec 3) (x4 : BitVec 5) (x5 : BitVec 5) (x6 : BitVec 3) (s : State) : exec (.vcmp x0 x1 x2 x3 x4 x5 x6) s = execVcmp x0 x1 x2 x3 x4 x5 x6 s := rfl
@[simp] theorem exec_vsel (x0 : Engw) (x1 : BitVec 5) (x2 : BitVec 5) (x3 : BitVec 5) (x4 : BitVec 3) (s : State) : exec (.vsel x0 x1 x2 x3 x4) s = execVsel x0 x1 x2 x3 x4 s := rfl
@[simp] theorem exec_vmov (x0 : Engw) (x1 : BitVec 5) (x2 : BitVec 5) (x3 : BitVec 3) (s : State) : exec (.vmov x0 x1 x2 x3) s = execVmov x0 x1 x2 x3 s := rfl
@[simp] theorem exec_vli (x0 : Engw) (x1 : Ty) (x2 : BitVec 5) (x3 : BitVec 16) (x4 : BitVec 3) (s : State) : exec (.vli x0 x1 x2 x3 x4) s = execVli x0 x1 x2 x3 x4 s := rfl
@[simp] theorem exec_vext (x0 : Engw) (x1 : Ty) (x2 : BitVec 5) (x3 : BitVec 5) (x4 : BitVec 4) (x5 : BitVec 8) (s : State) : exec (.vext x0 x1 x2 x3 x4 x5) s = execVext x0 x1 x2 x3 x4 x5 s := rfl
@[simp] theorem exec_vins (x0 : Engw) (x1 : Ty) (x2 : BitVec 5) (x3 : BitVec 5) (x4 : BitVec 4) (x5 : BitVec 8) (x6 : BitVec 3) (s : State) : exec (.vins x0 x1 x2 x3 x4 x5 x6) s = execVins x0 x1 x2 x3 x4 x5 x6 s := rfl
@[simp] theorem exec_vcvt (x0 : Engw) (x1 : Ty) (x2 : Ty) (x3 : BitVec 5) (x4 : BitVec 5) (x5 : BitVec 2) (x6 : Rm) (x7 : BitVec 3) (s : State) : exec (.vcvt x0 x1 x2 x3 x4 x5 x6 x7) s = execVcvt x0 x1 x2 x3 x4 x5 x6 x7 s := rfl
@[simp] theorem exec_vqnt (x0 : Engw) (x1 : Ty) (x2 : Bool) (x3 : BitVec 5) (x4 : BitVec 5) (x5 : BitVec 2) (x6 : Rm) (x7 : BitVec 3) (s : State) : exec (.vqnt x0 x1 x2 x3 x4 x5 x6 x7) s = execVqnt x0 x1 x2 x3 x4 x5 x6 x7 s := rfl
@[simp] theorem exec_vdqnt (x0 : Engw) (x1 : Ty) (x2 : Bool) (x3 : BitVec 5) (x4 : BitVec 5) (x5 : BitVec 2) (x6 : BitVec 3) (s : State) : exec (.vdqnt x0 x1 x2 x3 x4 x5 x6) s = execVdqnt x0 x1 x2 x3 x4 x5 x6 s := rfl
@[simp] theorem exec_vpack6 (x0 : Engw) (x1 : Ty) (x2 : BitVec 5) (x3 : BitVec 5) (x4 : BitVec 2) (x5 : BitVec 3) (s : State) : exec (.vpack6 x0 x1 x2 x3 x4 x5) s = execVpack6 x0 x1 x2 x3 x4 x5 s := rfl
@[simp] theorem exec_vunpk6 (x0 : Engw) (x1 : Ty) (x2 : Ty) (x3 : BitVec 5) (x4 : BitVec 5) (x5 : BitVec 2) (x6 : Rm) (x7 : BitVec 3) (s : State) : exec (.vunpk6 x0 x1 x2 x3 x4 x5 x6 x7) s = execVunpk6 x0 x1 x2 x3 x4 x5 x6 x7 s := rfl
@[simp] theorem exec_vhad (x0 : Engw) (x1 : Ty) (x2 : BitVec 5) (x3 : BitVec 5) (x4 : BitVec 6) (x5 : BitVec 3) (s : State) : exec (.vhad x0 x1 x2 x3 x4 x5) s = execVhad x0 x1 x2 x3 x4 x5 s := rfl
@[simp] theorem exec_vrotr (x0 : Engw) (x1 : Ty) (x2 : BitVec 5) (x3 : BitVec 5) (x4 : BitVec 8) (x5 : BitVec 3) (s : State) : exec (.vrotr x0 x1 x2 x3 x4 x5) s = execVrotr x0 x1 x2 x3 x4 x5 s := rfl
@[simp] theorem exec_vrotc (x0 : Engw) (x1 : Ty) (x2 : BitVec 5) (x3 : BitVec 5) (x4 : BitVec 8) (x5 : BitVec 3) (s : State) : exec (.vrotc x0 x1 x2 x3 x4 x5) s = execVrotc x0 x1 x2 x3 x4 x5 s := rfl
@[simp] theorem exec_vbcr (x0 : Engw) (x1 : Ty) (x2 : BitVec 5) (x3 : BitVec 5) (x4 : BitVec 8) (x5 : BitVec 3) (s : State) : exec (.vbcr x0 x1 x2 x3 x4 x5) s = execVbcr x0 x1 x2 x3 x4 x5 s := rfl
@[simp] theorem exec_vbcc (x0 : Engw) (x1 : Ty) (x2 : BitVec 5) (x3 : BitVec 5) (x4 : BitVec 8) (x5 : BitVec 3) (s : State) : exec (.vbcc x0 x1 x2 x3 x4 x5) s = execVbcc x0 x1 x2 x3 x4 x5 s := rfl
@[simp] theorem exec_vredr (x0 : Engw) (x1 : RedOp) (x2 : Ty) (x3 : BitVec 5) (x4 : BitVec 5) (x5 : BitVec 3) (s : State) : exec (.vredr x0 x1 x2 x3 x4 x5) s = execVredr x0 x1 x2 x3 x4 x5 s := rfl
@[simp] theorem exec_vredc (x0 : Engw) (x1 : RedOp) (x2 : Ty) (x3 : BitVec 5) (x4 : BitVec 5) (x5 : BitVec 3) (s : State) : exec (.vredc x0 x1 x2 x3 x4 x5) s = execVredc x0 x1 x2 x3 x4 x5 s := rfl
@[simp] theorem exec_vscanr (x0 : Engw) (x1 : RedOp) (x2 : Ty) (x3 : BitVec 5) (x4 : BitVec 5) (x5 : BitVec 3) (s : State) : exec (.vscanr x0 x1 x2 x3 x4 x5) s = execVscanr x0 x1 x2 x3 x4 x5 s := rfl
@[simp] theorem exec_vhist (x0 : Engw) (x1 : Ty) (x2 : BitVec 5) (x3 : BitVec 5) (x4 : BitVec 6) (x5 : BitVec 3) (s : State) : exec (.vhist x0 x1 x2 x3 x4 x5) s = execVhist x0 x1 x2 x3 x4 x5 s := rfl
@[simp] theorem exec_vrkey (x0 : Engw) (x1 : Ty) (x2 : BitVec 5) (x3 : BitVec 5) (x4 : BitVec 3) (s : State) : exec (.vrkey x0 x1 x2 x3 x4) s = execVrkey x0 x1 x2 x3 x4 s := rfl
@[simp] theorem exec_vselk (x0 : Engw) (x1 : BitVec 5) (x2 : BitVec 5) (x3 : BitVec 5) (x4 : BitVec 6) (x5 : BitVec 3) (s : State) : exec (.vselk x0 x1 x2 x3 x4 x5) s = execVselk x0 x1 x2 x3 x4 x5 s := rfl
@[simp] theorem exec_vcomp (x0 : Engw) (x1 : Ty) (x2 : BitVec 5) (x3 : BitVec 5) (x4 : BitVec 3) (s : State) : exec (.vcomp x0 x1 x2 x3 x4) s = execVcomp x0 x1 x2 x3 x4 s := rfl
@[simp] theorem exec_vlut (x0 : Engw) (x1 : Ty) (x2 : BitVec 5) (x3 : BitVec 5) (x4 : BitVec 5) (x5 : BitVec 3) (s : State) : exec (.vlut x0 x1 x2 x3 x4 x5) s = execVlut x0 x1 x2 x3 x4 x5 s := rfl
@[simp] theorem exec_vld (x0 : Engw) (x1 : Ty) (x2 : BitVec 5) (x3 : VAddr) (x4 : BitVec 3) (s : State) : exec (.vld x0 x1 x2 x3 x4) s = execVld x0 x1 x2 x3 x4 s := rfl
@[simp] theorem exec_vst (x0 : Engw) (x1 : Ty) (x2 : BitVec 5) (x3 : VAddr) (x4 : BitVec 3) (s : State) : exec (.vst x0 x1 x2 x3 x4) s = execVst x0 x1 x2 x3 x4 s := rfl
@[simp] theorem exec_vlda (x0 : Engw) (x1 : Ty) (x2 : BitVec 5) (x3 : VAddr) (x4 : BitVec 3) (s : State) : exec (.vlda x0 x1 x2 x3 x4) s = execVlda x0 x1 x2 x3 x4 s := rfl
@[simp] theorem exec_vsta (x0 : Engw) (x1 : Ty) (x2 : BitVec 5) (x3 : VAddr) (x4 : BitVec 3) (s : State) : exec (.vsta x0 x1 x2 x3 x4) s = execVsta x0 x1 x2 x3 x4 s := rfl
@[simp] theorem exec_vgth (x0 : Engw) (x1 : Ty) (x2 : BitVec 5) (x3 : VAddr) (x4 : BitVec 5) (x5 : BitVec 3) (s : State) : exec (.vgth x0 x1 x2 x3 x4 x5) s = execVgth x0 x1 x2 x3 x4 x5 s := rfl
@[simp] theorem exec_vsct (x0 : Engw) (x1 : Ty) (x2 : BitVec 5) (x3 : VAddr) (x4 : BitVec 5) (x5 : BitVec 3) (s : State) : exec (.vsct x0 x1 x2 x3 x4 x5) s = execVsct x0 x1 x2 x3 x4 x5 s := rfl
@[simp] theorem exec_mpush (x0 : Engw) (x1 : BitVec 3) (s : State) : exec (.mpush x0 x1) s = execMpush x0 x1 s := rfl
@[simp] theorem exec_minv (x0 : Engw) (s : State) : exec (.minv x0) s = execMinv x0 s := rfl
@[simp] theorem exec_mpop (x0 : Engw) (s : State) : exec (.mpop x0) s = execMpop x0 s := rfl
@[simp] theorem exec_mset (x0 : Engw) (x1 : BitVec 3) (x2 : Bool) (s : State) : exec (.mset x0 x1 x2) s = execMset x0 x1 x2 s := rfl
@[simp] theorem exec_mmov (x0 : Engw) (x1 : BitVec 3) (x2 : BitVec 3) (s : State) : exec (.mmov x0 x1 x2) s = execMmov x0 x1 x2 s := rfl
@[simp] theorem exec_many (x0 : Engw) (x1 : BitVec 3) (x2 : BitVec 3) (s : State) : exec (.many x0 x1 x2) s = execMany x0 x1 x2 s := rfl
@[simp] theorem exec_mnone (x0 : Engw) (x1 : BitVec 3) (x2 : BitVec 3) (s : State) : exec (.mnone x0 x1 x2) s = execMnone x0 x1 x2 s := rfl
@[simp] theorem exec_mcnt (x0 : Engw) (x1 : BitVec 5) (x2 : BitVec 3) (s : State) : exec (.mcnt x0 x1 x2) s = execMcnt x0 x1 x2 s := rfl
@[simp] theorem exec_vexp (x0 : Engw) (x1 : Ty) (x2 : BitVec 5) (x3 : BitVec 5) (x4 : BitVec 3) (s : State) : exec (.vexp x0 x1 x2 x3 x4) s = execVexp x0 x1 x2 x3 x4 s := rfl
@[simp] theorem exec_vexp2 (x0 : Engw) (x1 : Ty) (x2 : BitVec 5) (x3 : BitVec 5) (x4 : BitVec 3) (s : State) : exec (.vexp2 x0 x1 x2 x3 x4) s = execVexp2 x0 x1 x2 x3 x4 s := rfl
@[simp] theorem exec_vlog2 (x0 : Engw) (x1 : Ty) (x2 : BitVec 5) (x3 : BitVec 5) (x4 : BitVec 3) (s : State) : exec (.vlog2 x0 x1 x2 x3 x4) s = execVlog2 x0 x1 x2 x3 x4 s := rfl
@[simp] theorem exec_vrcp (x0 : Engw) (x1 : Ty) (x2 : BitVec 5) (x3 : BitVec 5) (x4 : BitVec 3) (s : State) : exec (.vrcp x0 x1 x2 x3 x4) s = execVrcp x0 x1 x2 x3 x4 s := rfl
@[simp] theorem exec_vrsq (x0 : Engw) (x1 : Ty) (x2 : BitVec 5) (x3 : BitVec 5) (x4 : BitVec 3) (s : State) : exec (.vrsq x0 x1 x2 x3 x4) s = execVrsq x0 x1 x2 x3 x4 s := rfl
@[simp] theorem exec_vsqrt (x0 : Engw) (x1 : Ty) (x2 : BitVec 5) (x3 : BitVec 5) (x4 : BitVec 3) (s : State) : exec (.vsqrt x0 x1 x2 x3 x4) s = execVsqrt x0 x1 x2 x3 x4 s := rfl
@[simp] theorem exec_vsin (x0 : Engw) (x1 : Ty) (x2 : BitVec 5) (x3 : BitVec 5) (x4 : BitVec 3) (s : State) : exec (.vsin x0 x1 x2 x3 x4) s = execVsin x0 x1 x2 x3 x4 s := rfl
@[simp] theorem exec_vcos (x0 : Engw) (x1 : Ty) (x2 : BitVec 5) (x3 : BitVec 5) (x4 : BitVec 3) (s : State) : exec (.vcos x0 x1 x2 x3 x4) s = execVcos x0 x1 x2 x3 x4 s := rfl
@[simp] theorem exec_vtanh (x0 : Engw) (x1 : Ty) (x2 : BitVec 5) (x3 : BitVec 5) (x4 : BitVec 3) (s : State) : exec (.vtanh x0 x1 x2 x3 x4) s = execVtanh x0 x1 x2 x3 x4 s := rfl
@[simp] theorem exec_qbind (x0 : Qual) (x1 : BitVec 4) (x2 : BitVec 16) (s : State) : exec (.qbind x0 x1 x2) s = execQbind x0 x1 x2 s := rfl
@[simp] theorem exec_qpos (x0 : Qual) (x1 : BitVec 4) (x2 : BitVec 6) (s : State) : exec (.qpos x0 x1 x2) s = execQpos x0 x1 x2 s := rfl
@[simp] theorem exec_qadv (x0 : Qual) (x1 : BitVec 4) (x2 : BitVec 16) (s : State) : exec (.qadv x0 x1 x2) s = execQadv x0 x1 x2 s := rfl
@[simp] theorem exec_mma (x0 : Engw) (x1 : Ty) (x2 : Bool) (x3 : BitVec 2) (x4 : BitVec 4) (x5 : BSrc) (x6 : BitVec 16) (s : State) : exec (.mma x0 x1 x2 x3 x4 x5 x6) s = execMma x0 x1 x2 x3 x4 x5 x6 s := rfl
@[simp] theorem exec_mmas (x0 : Engw) (x1 : Ty) (x2 : Bool) (x3 : BitVec 2) (x4 : BitVec 4) (x5 : BSrc) (x6 : BitVec 16) (x7 : BitVec 2) (x8 : BitVec 2) (s : State) : exec (.mmas x0 x1 x2 x3 x4 x5 x6 x7 x8) s = execMmas x0 x1 x2 x3 x4 x5 x6 x7 x8 s := rfl
@[simp] theorem exec_mzero (x0 : Engw) (x1 : BitVec 2) (s : State) : exec (.mzero x0 x1) s = execMzero x0 x1 s := rfl
@[simp] theorem exec_mrd (x0 : Engw) (x1 : Ty) (x2 : Rm) (x3 : BitVec 4) (x4 : BitVec 2) (s : State) : exec (.mrd x0 x1 x2 x3 x4) s = execMrd x0 x1 x2 x3 x4 s := rfl
@[simp] theorem exec_mwr (x0 : Engw) (x1 : BitVec 2) (x2 : BitVec 4) (s : State) : exec (.mwr x0 x1 x2) s = execMwr x0 x1 x2 s := rfl
@[simp] theorem exec_mldw (x0 : Engw) (x1 : Ty) (x2 : Bool) (x3 : BitVec 4) (s : State) : exec (.mldw x0 x1 x2 x3) s = execMldw x0 x1 x2 x3 s := rfl
@[simp] theorem exec_ptrn (x0 : Engw) (x1 : Ty) (x2 : BitVec 5) (x3 : BitVec 5) (x4 : BitVec 6) (x5 : BitVec 3) (s : State) : exec (.ptrn x0 x1 x2 x3 x4 x5) s = execPtrn x0 x1 x2 x3 x4 x5 s := rfl
@[simp] theorem exec_pshf (x0 : Engw) (x1 : Ty) (x2 : BitVec 5) (x3 : BitVec 5) (x4 : BitVec 5) (x5 : BitVec 3) (s : State) : exec (.pshf x0 x1 x2 x3 x4 x5) s = execPshf x0 x1 x2 x3 x4 x5 s := rfl
@[simp] theorem exec_prot (x0 : Engw) (x1 : Ty) (x2 : BitVec 5) (x3 : BitVec 5) (x4 : BitVec 8) (x5 : BitVec 3) (s : State) : exec (.prot x0 x1 x2 x3 x4 x5) s = execProt x0 x1 x2 x3 x4 x5 s := rfl
@[simp] theorem exec_pzip (x0 : Engw) (x1 : Bool) (x2 : Ty) (x3 : BitVec 5) (x4 : BitVec 5) (x5 : BitVec 5) (x6 : BitVec 3) (s : State) : exec (.pzip x0 x1 x2 x3 x4 x5 x6) s = execPzip x0 x1 x2 x3 x4 x5 x6 s := rfl
@[simp] theorem exec_cpy (x0 : Qual) (x1 : BitVec 6) (x2 : BitVec 6) (x3 : BitVec 10) (x4 : Bool) (s : State) : exec (.cpy x0 x1 x2 x3 x4) s = execCpy x0 x1 x2 x3 x4 s := rfl
@[simp] theorem exec_cpym (x0 : Qual) (x1 : BitVec 6) (x2 : BitVec 6) (x3 : BitVec 10) (x4 : Bool) (s : State) : exec (.cpym x0 x1 x2 x3 x4) s = execCpym x0 x1 x2 x3 x4 s := rfl
@[simp] theorem exec_gthr (x0 : Qual) (x1 : BitVec 6) (x2 : BitVec 6) (x3 : BitVec 10) (x4 : Bool) (x5 : BitVec 14) (s : State) : exec (.gthr x0 x1 x2 x3 x4 x5) s = execGthr x0 x1 x2 x3 x4 x5 s := rfl
@[simp] theorem exec_red (x0 : Qual) (x1 : BitVec 6) (x2 : BitVec 6) (x3 : BitVec 10) (x4 : Bool) (x5 : Bool) (x6 : RemOp) (x7 : Ty) (x8 : BitVec 10) (s : State) : exec (.red x0 x1 x2 x3 x4 x5 x6 x7 x8) s = execRed x0 x1 x2 x3 x4 x5 x6 x7 x8 s := rfl
@[simp] theorem exec_send (x0 : Qual) (x1 : BitVec 6) (x2 : BitVec 6) (x3 : BitVec 10) (x4 : Bool) (s : State) : exec (.send x0 x1 x2 x3 x4) s = execSend x0 x1 x2 x3 x4 s := rfl
@[simp] theorem exec_xlat (x0 : Qual) (x1 : BitVec 6) (x2 : BitVec 6) (x3 : BitVec 10) (x4 : Bool) (s : State) : exec (.xlat x0 x1 x2 x3 x4) s = execXlat x0 x1 x2 x3 x4 s := rfl
@[simp] theorem exec_aadd (x0 : Qual) (x1 : Bool) (x2 : Scope) (x3 : Ord) (x4 : BitVec 6) (x5 : BitVec 6) (x6 : BitVec 6) (s : State) : exec (.aadd x0 x1 x2 x3 x4 x5 x6) s = execAadd x0 x1 x2 x3 x4 x5 x6 s := rfl
@[simp] theorem exec_aand (x0 : Qual) (x1 : Bool) (x2 : Scope) (x3 : Ord) (x4 : BitVec 6) (x5 : BitVec 6) (x6 : BitVec 6) (s : State) : exec (.aand x0 x1 x2 x3 x4 x5 x6) s = execAand x0 x1 x2 x3 x4 x5 x6 s := rfl
@[simp] theorem exec_aor (x0 : Qual) (x1 : Bool) (x2 : Scope) (x3 : Ord) (x4 : BitVec 6) (x5 : BitVec 6) (x6 : BitVec 6) (s : State) : exec (.aor x0 x1 x2 x3 x4 x5 x6) s = execAor x0 x1 x2 x3 x4 x5 x6 s := rfl
@[simp] theorem exec_axor (x0 : Qual) (x1 : Bool) (x2 : Scope) (x3 : Ord) (x4 : BitVec 6) (x5 : BitVec 6) (x6 : BitVec 6) (s : State) : exec (.axor x0 x1 x2 x3 x4 x5 x6) s = execAxor x0 x1 x2 x3 x4 x5 x6 s := rfl
@[simp] theorem exec_amin (x0 : Qual) (x1 : Bool) (x2 : Scope) (x3 : Ord) (x4 : BitVec 6) (x5 : BitVec 6) (x6 : BitVec 6) (s : State) : exec (.amin x0 x1 x2 x3 x4 x5 x6) s = execAmin x0 x1 x2 x3 x4 x5 x6 s := rfl
@[simp] theorem exec_amax (x0 : Qual) (x1 : Bool) (x2 : Scope) (x3 : Ord) (x4 : BitVec 6) (x5 : BitVec 6) (x6 : BitVec 6) (s : State) : exec (.amax x0 x1 x2 x3 x4 x5 x6) s = execAmax x0 x1 x2 x3 x4 x5 x6 s := rfl
@[simp] theorem exec_aminn (x0 : Qual) (x1 : Bool) (x2 : Scope) (x3 : Ord) (x4 : BitVec 6) (x5 : BitVec 6) (x6 : BitVec 6) (s : State) : exec (.aminn x0 x1 x2 x3 x4 x5 x6) s = execAminn x0 x1 x2 x3 x4 x5 x6 s := rfl
@[simp] theorem exec_amaxn (x0 : Qual) (x1 : Bool) (x2 : Scope) (x3 : Ord) (x4 : BitVec 6) (x5 : BitVec 6) (x6 : BitVec 6) (s : State) : exec (.amaxn x0 x1 x2 x3 x4 x5 x6) s = execAmaxn x0 x1 x2 x3 x4 x5 x6 s := rfl
@[simp] theorem exec_axchg (x0 : Qual) (x1 : Bool) (x2 : Scope) (x3 : Ord) (x4 : BitVec 6) (x5 : BitVec 6) (x6 : BitVec 6) (s : State) : exec (.axchg x0 x1 x2 x3 x4 x5 x6) s = execAxchg x0 x1 x2 x3 x4 x5 x6 s := rfl
@[simp] theorem exec_acas (x0 : Qual) (x1 : Bool) (x2 : Scope) (x3 : Ord) (x4 : BitVec 6) (x5 : BitVec 6) (x6 : BitVec 6) (x7 : BitVec 6) (s : State) : exec (.acas x0 x1 x2 x3 x4 x5 x6 x7) s = execAcas x0 x1 x2 x3 x4 x5 x6 x7 s := rfl
@[simp] theorem exec_afadd (x0 : Qual) (x1 : Scope) (x2 : Ord) (x3 : BitVec 6) (x4 : BitVec 6) (x5 : BitVec 6) (s : State) : exec (.afadd x0 x1 x2 x3 x4 x5) s = execAfadd x0 x1 x2 x3 x4 x5 s := rfl
@[simp] theorem exec_fence (x0 : Qual) (x1 : Scope) (x2 : Ord) (s : State) : exec (.fence x0 x1 x2) s = execFence x0 x1 x2 s := rfl
@[simp] theorem exec_waita (x0 : Qual) (x1 : Scope) (x2 : Ord) (x3 : BitVec 6) (x4 : BitVec 6) (x5 : BitVec 6) (x6 : BitVec 6) (s : State) : exec (.waita x0 x1 x2 x3 x4 x5 x6) s = execWaita x0 x1 x2 x3 x4 x5 x6 s := rfl
@[simp] theorem exec_fsig (x0 : Qual) (x1 : Bool) (x2 : BitVec 6) (x3 : BitVec 6) (x4 : BitVec 6) (x5 : BitVec 10) (s : State) : exec (.fsig x0 x1 x2 x3 x4 x5) s = execFsig x0 x1 x2 x3 x4 x5 s := rfl
@[simp] theorem exec_fset (x0 : Qual) (x1 : Bool) (x2 : BitVec 6) (x3 : BitVec 6) (x4 : BitVec 6) (x5 : BitVec 10) (s : State) : exec (.fset x0 x1 x2 x3 x4 x5) s = execFset x0 x1 x2 x3 x4 x5 s := rfl
@[simp] theorem exec_fwait (x0 : Qual) (x1 : Bool) (x2 : BitVec 6) (x3 : BitVec 6) (x4 : BitVec 6) (x5 : BitVec 10) (x6 : BitVec 8) (s : State) : exec (.fwait x0 x1 x2 x3 x4 x5 x6) s = execFwait x0 x1 x2 x3 x4 x5 x6 s := rfl
@[simp] theorem exec_fread (x0 : Qual) (x1 : Bool) (x2 : BitVec 6) (x3 : BitVec 6) (x4 : BitVec 10) (s : State) : exec (.fread x0 x1 x2 x3 x4) s = execFread x0 x1 x2 x3 x4 s := rfl
@[simp] theorem exec_rclm (x0 : Qual) (x1 : BitVec 6) (x2 : BitVec 6) (x3 : BitVec 6) (x4 : BitVec 8) (s : State) : exec (.rclm x0 x1 x2 x3 x4) s = execRclm x0 x1 x2 x3 x4 s := rfl
@[simp] theorem exec_rpub (x0 : Qual) (x1 : BitVec 6) (x2 : BitVec 6) (x3 : BitVec 6) (s : State) : exec (.rpub x0 x1 x2 x3) s = execRpub x0 x1 x2 x3 s := rfl
@[simp] theorem exec_rwf (x0 : Qual) (x1 : BitVec 6) (x2 : BitVec 6) (x3 : BitVec 6) (x4 : BitVec 8) (s : State) : exec (.rwf x0 x1 x2 x3 x4) s = execRwf x0 x1 x2 x3 x4 s := rfl
@[simp] theorem exec_rrel (x0 : Qual) (x1 : BitVec 6) (x2 : BitVec 6) (x3 : BitVec 6) (s : State) : exec (.rrel x0 x1 x2 x3) s = execRrel x0 x1 x2 x3 s := rfl
@[simp] theorem exec_rinfo (x0 : Qual) (x1 : BitVec 6) (x2 : BitVec 6) (x3 : BitVec 6) (s : State) : exec (.rinfo x0 x1 x2 x3) s = execRinfo x0 x1 x2 x3 s := rfl
@[simp] theorem exec_binit (x0 : Qual) (x1 : BitVec 4) (x2 : BitVec 8) (s : State) : exec (.binit x0 x1 x2) s = execBinit x0 x1 x2 s := rfl
@[simp] theorem exec_bara (x0 : Qual) (x1 : BitVec 6) (x2 : BitVec 4) (s : State) : exec (.bara x0 x1 x2) s = execBara x0 x1 x2 s := rfl
@[simp] theorem exec_barw (x0 : Qual) (x1 : BitVec 6) (x2 : BitVec 4) (s : State) : exec (.barw x0 x1 x2) s = execBarw x0 x1 x2 s := rfl
@[simp] theorem exec_barq (x0 : Qual) (x1 : BitVec 6) (x2 : BitVec 4) (s : State) : exec (.barq x0 x1 x2) s = execBarq x0 x1 x2 s := rfl
@[simp] theorem exec_tkq (x0 : Qual) (x1 : BitVec 6) (x2 : TokQ) (s : State) : exec (.tkq x0 x1 x2) s = execTkq x0 x1 x2 s := rfl
@[simp] theorem exec_tsub (x0 : Qual) (x1 : BitVec 6) (x2 : BitVec 6) (x3 : BitVec 6) (x4 : BitVec 10) (s : State) : exec (.tsub x0 x1 x2 x3 x4) s = execTsub x0 x1 x2 x3 x4 s := rfl
@[simp] theorem exec_tdep (x0 : Qual) (x1 : BitVec 6) (x2 : BitVec 6) (x3 : BitVec 6) (x4 : BitVec 8) (s : State) : exec (.tdep x0 x1 x2 x3 x4) s = execTdep x0 x1 x2 x3 x4 s := rfl
@[simp] theorem exec_tcan (x0 : Qual) (x1 : BitVec 6) (x2 : BitVec 6) (s : State) : exec (.tcan x0 x1 x2) s = execTcan x0 x1 x2 s := rfl
@[simp] theorem exec_tqry (x0 : Qual) (x1 : BitVec 6) (x2 : BitVec 6) (x3 : BitVec 10) (x4 : BitVec 8) (s : State) : exec (.tqry x0 x1 x2 x3 x4) s = execTqry x0 x1 x2 x3 x4 s := rfl
@[simp] theorem exec_xqpush (x0 : Qual) (x1 : BitVec 6) (x2 : BitVec 10) (s : State) : exec (.xqpush x0 x1 x2) s = execXqpush x0 x1 x2 s := rfl
@[simp] theorem exec_xqtake (x0 : Qual) (x1 : BitVec 6) (x2 : BitVec 6) (x3 : BitVec 6) (x4 : BitVec 10) (x5 : BitVec 8) (s : State) : exec (.xqtake x0 x1 x2 x3 x4 x5) s = execXqtake x0 x1 x2 x3 x4 x5 s := rfl
@[simp] theorem exec_xqcomb (x0 : Qual) (x1 : Ty) (x2 : BitVec 6) (x3 : BitVec 6) (x4 : BitVec 6) (x5 : BitVec 10) (x6 : BitVec 4) (s : State) : exec (.xqcomb x0 x1 x2 x3 x4 x5 x6) s = execXqcomb x0 x1 x2 x3 x4 x5 x6 s := rfl
@[simp] theorem exec_srch (x0 : Qual) (x1 : BitVec 6) (x2 : BitVec 6) (x3 : BitVec 6) (x4 : BitVec 6) (s : State) : exec (.srch x0 x1 x2 x3 x4) s = execSrch x0 x1 x2 x3 x4 s := rfl
@[simp] theorem exec_ixapp (x0 : Qual) (x1 : BitVec 6) (x2 : BitVec 6) (x3 : BitVec 10) (s : State) : exec (.ixapp x0 x1 x2 x3) s = execIxapp x0 x1 x2 x3 s := rfl
@[simp] theorem exec_kvbind (x0 : Qual) (x1 : BitVec 6) (x2 : BitVec 6) (x3 : BitVec 6) (x4 : BitVec 10) (s : State) : exec (.kvbind x0 x1 x2 x3 x4) s = execKvbind x0 x1 x2 x3 x4 s := rfl
@[simp] theorem exec_kvlookPos (x0 : Qual) (x1 : BitVec 6) (x2 : BitVec 6) (x3 : BitVec 6) (s : State) : exec (.kvlookPos x0 x1 x2 x3) s = execKvlookPos x0 x1 x2 x3 s := rfl
@[simp] theorem exec_kvlookPsg (x0 : Qual) (x1 : BitVec 6) (x2 : BitVec 6) (x3 : BitVec 6) (s : State) : exec (.kvlookPsg x0 x1 x2 x3) s = execKvlookPsg x0 x1 x2 x3 s := rfl
@[simp] theorem exec_kvlookPfx (x0 : Qual) (x1 : BitVec 6) (x2 : BitVec 6) (x3 : BitVec 6) (s : State) : exec (.kvlookPfx x0 x1 x2 x3) s = execKvlookPfx x0 x1 x2 x3 s := rfl
@[simp] theorem exec_kvposPos (x0 : Qual) (x1 : BitVec 6) (x2 : BitVec 6) (x3 : BitVec 6) (x4 : BitVec 6) (s : State) : exec (.kvposPos x0 x1 x2 x3 x4) s = execKvposPos x0 x1 x2 x3 x4 s := rfl
@[simp] theorem exec_kvposPfx (x0 : Qual) (x1 : BitVec 6) (x2 : BitVec 6) (x3 : BitVec 6) (x4 : BitVec 6) (s : State) : exec (.kvposPfx x0 x1 x2 x3 x4) s = execKvposPfx x0 x1 x2 x3 x4 s := rfl
@[simp] theorem exec_astart (x0 : Qual) (x1 : BitVec 6) (x2 : BitVec 6) (x3 : BitVec 10) (s : State) : exec (.astart x0 x1 x2 x3) s = execAstart x0 x1 x2 x3 s := rfl
@[simp] theorem exec_csrr (x0 : BitVec 6) (x1 : BitVec 16) (s : State) : exec (.csrr x0 x1) s = execCsrr x0 x1 s := rfl
@[simp] theorem exec_csrw (x0 : BitVec 6) (x1 : BitVec 16) (s : State) : exec (.csrw x0 x1) s = execCsrw x0 x1 s := rfl
@[simp] theorem exec_fpCtrlWrite (x0 : BitVec 6) (s : State) : exec (.fpCtrlWrite x0) s = execFpCtrlWrite x0 s := rfl
@[simp] theorem exec_stochSeedWrite (x0 : BitVec 6) (s : State) : exec (.stochSeedWrite x0) s = execStochSeedWrite x0 s := rfl
@[simp] theorem exec_cmpdTableWrite (x0 : BitVec 6) (x1 : BitVec 16) (s : State) : exec (.cmpdTableWrite x0 x1) s = execCmpdTableWrite x0 x1 s := rfl
@[simp] theorem exec_cmpdArm (x0 : BitVec 6) (s : State) : exec (.cmpdArm x0) s = execCmpdArm x0 s := rfl
@[simp] theorem exec_syscBadcall (x0 : BitVec 16) (s : State) : exec (.syscBadcall x0) s = execSyscBadcall x0 s := rfl
@[simp] theorem exec_trmark (x0 : BitVec 6) (x1 : BitVec 16) (s : State) : exec (.trmark x0 x1) s = execTrmark x0 x1 s := rfl
@[simp] theorem exec_wpset (x0 : BitVec 6) (x1 : BitVec 6) (x2 : BitVec 2) (x3 : Scope) (x4 : WpKind) (s : State) : exec (.wpset x0 x1 x2 x3 x4) s = execWpset x0 x1 x2 x3 x4 s := rfl
@[simp] theorem exec_dbrk (x0 : BitVec 16) (s : State) : exec (.dbrk x0) s = execDbrk x0 s := rfl
@[simp] theorem exec_pavaneLit (x0 : BitVec 11) (s : State) : exec (.pavaneLit x0) s = execPavaneLit x0 s := rfl
@[simp] theorem exec_pavaneLith (x0 : BitVec 11) (s : State) : exec (.pavaneLith x0) s = execPavaneLith x0 s := rfl
@[simp] theorem exec_pavaneParm (x0 : BitVec 4) (s : State) : exec (.pavaneParm x0) s = execPavaneParm x0 s := rfl
@[simp] theorem exec_pavaneJmp (x0 : BitVec 11) (s : State) : exec (.pavaneJmp x0) s = execPavaneJmp x0 s := rfl
@[simp] theorem exec_pavaneBz (x0 : BitVec 11) (s : State) : exec (.pavaneBz x0) s = execPavaneBz x0 s := rfl
@[simp] theorem exec_pavaneDjnz (x0 : BitVec 11) (s : State) : exec (.pavaneDjnz x0) s = execPavaneDjnz x0 s := rfl
@[simp] theorem exec_pavaneWait (x0 : BitVec 4) (s : State) : exec (.pavaneWait x0) s = execPavaneWait x0 s := rfl
@[simp] theorem exec_pavaneSig (x0 : BitVec 10) (s : State) : exec (.pavaneSig x0) s = execPavaneSig x0 s := rfl
@[simp] theorem exec_pavaneKvblk (x0 : BitVec 1) (x1 : BitVec 2) (s : State) : exec (.pavaneKvblk x0 x1) s = execPavaneKvblk x0 x1 s := rfl
@[simp] theorem exec_pavaneQk (x0 : BitVec 2) (s : State) : exec (.pavaneQk x0) s = execPavaneQk x0 s := rfl
@[simp] theorem exec_pavaneSoft (x0 : BitVec 2) (s : State) : exec (.pavaneSoft x0) s = execPavaneSoft x0 s := rfl
@[simp] theorem exec_pavanePv (x0 : BitVec 2) (s : State) : exec (.pavanePv x0) s = execPavanePv x0 s := rfl
@[simp] theorem exec_ret (s : State) : exec .ret s = execRet s := rfl
@[simp] theorem exec_exit (s : State) : exec .exit s = execExit s := rfl
@[simp] theorem exec_nop (s : State) : exec .nop s = execNop s := rfl
@[simp] theorem exec_hret (s : State) : exec .hret s = execHret s := rfl
@[simp] theorem exec_pavaneDup (s : State) : exec .pavaneDup s = execPavaneDup s := rfl
@[simp] theorem exec_pavaneDrop (s : State) : exec .pavaneDrop s = execPavaneDrop s := rfl
@[simp] theorem exec_pavaneSwap (s : State) : exec .pavaneSwap s = execPavaneSwap s := rfl
@[simp] theorem exec_pavaneOver (s : State) : exec .pavaneOver s = execPavaneOver s := rfl
@[simp] theorem exec_pavaneAdd (s : State) : exec .pavaneAdd s = execPavaneAdd s := rfl
@[simp] theorem exec_pavaneSub (s : State) : exec .pavaneSub s = execPavaneSub s := rfl
@[simp] theorem exec_pavaneMul (s : State) : exec .pavaneMul s = execPavaneMul s := rfl
@[simp] theorem exec_pavaneHalt (s : State) : exec .pavaneHalt s = execPavaneHalt s := rfl
@[simp] theorem exec_pavaneFinal (s : State) : exec .pavaneFinal s = execPavaneFinal s := rfl
@[simp] theorem exec_pavaneTriple (s : State) : exec .pavaneTriple s = execPavaneTriple s := rfl
@[simp] theorem exec_pavaneMerge (s : State) : exec .pavaneMerge s = execPavaneMerge s := rfl
@[simp] theorem exec_pavaneRev (s : State) : exec .pavaneRev s = execPavaneRev s := rfl
@[simp] theorem exec_syscVersion (s : State) : exec .syscVersion s = execSyscVersion s := rfl
@[simp] theorem exec_syscObjset (s : State) : exec .syscObjset s = execSyscObjset s := rfl
@[simp] theorem exec_syscObjdel (s : State) : exec .syscObjdel s = execSyscObjdel s := rfl
@[simp] theorem exec_syscRingset (s : State) : exec .syscRingset s = execSyscRingset s := rfl
@[simp] theorem exec_syscXqset (s : State) : exec .syscXqset s = execSyscXqset s := rfl
@[simp] theorem exec_syscMap (s : State) : exec .syscMap s = execSyscMap s := rfl
@[simp] theorem exec_syscUnmap (s : State) : exec .syscUnmap s = execSyscUnmap s := rfl
@[simp] theorem exec_syscPreempt (s : State) : exec .syscPreempt s = execSyscPreempt s := rfl
@[simp] theorem exec_syscSwitch (s : State) : exec .syscSwitch s = execSyscSwitch s := rfl
@[simp] theorem exec_syscPreset (s : State) : exec .syscPreset s = execSyscPreset s := rfl
@[simp] theorem exec_syscPower (s : State) : exec .syscPower s = execSyscPower s := rfl
@[simp] theorem exec_syscCkpt (s : State) : exec .syscCkpt s = execSyscCkpt s := rfl
@[simp] theorem exec_syscAttest (s : State) : exec .syscAttest s = execSyscAttest s := rfl
@[simp] theorem exec_engineResultWrite (s : State) : exec .engineResultWrite s = execEngineResultWrite s := rfl
@[simp] theorem exec_monitorWake (s : State) : exec .monitorWake s = execMonitorWake s := rfl
@[simp] theorem exec_waitaTimeout (s : State) : exec .waitaTimeout s = execWaitaTimeout s := rfl
@[simp] theorem exec_flagWaitReturn (s : State) : exec .flagWaitReturn s = execFlagWaitReturn s := rfl
@[simp] theorem exec_fwaitTimeout (s : State) : exec .fwaitTimeout s = execFwaitTimeout s := rfl
@[simp] theorem exec_ringWaitReturn (s : State) : exec .ringWaitReturn s = execRingWaitReturn s := rfl
@[simp] theorem exec_ringWaitTimeout (s : State) : exec .ringWaitTimeout s = execRingWaitTimeout s := rfl
@[simp] theorem exec_ringDelivery (s : State) : exec .ringDelivery s = execRingDelivery s := rfl
@[simp] theorem exec_barrierWaitReturn (s : State) : exec .barrierWaitReturn s = execBarrierWaitReturn s := rfl
@[simp] theorem exec_xqcombCombine (s : State) : exec .xqcombCombine s = execXqcombCombine s := rfl
@[simp] theorem exec_ixappDurable (s : State) : exec .ixappDurable s = execIxappDurable s := rfl
@[simp] theorem exec_kvbindComplete (s : State) : exec .kvbindComplete s = execKvbindComplete s := rfl
@[simp] theorem exec_phasetimeExpiry (s : State) : exec .phasetimeExpiry s = execPhasetimeExpiry s := rfl
@[simp] theorem exec_tokdeadExpiry (s : State) : exec .tokdeadExpiry s = execTokdeadExpiry s := rfl
@[simp] theorem exec_waitInterrupt (s : State) : exec .waitInterrupt s = execWaitInterrupt s := rfl
@[simp] theorem exec_joinTimeout (s : State) : exec .joinTimeout s = execJoinTimeout s := rfl
@[simp] theorem exec_quadrilleDecode (s : State) : exec .quadrilleDecode s = execQuadrilleDecode s := rfl
@[simp] theorem exec_lineRefill (s : State) : exec .lineRefill s = execLineRefill s := rfl
@[simp] theorem exec_loadResponse (s : State) : exec .loadResponse s = execLoadResponse s := rfl
@[simp] theorem exec_smbDrainStart (s : State) : exec .smbDrainStart s = execSmbDrainStart s := rfl
@[simp] theorem exec_smbDrainComplete (s : State) : exec .smbDrainComplete s = execSmbDrainComplete s := rfl
@[simp] theorem exec_stagingExpire (s : State) : exec .stagingExpire s = execStagingExpire s := rfl
@[simp] theorem exec_copyCommandComplete (s : State) : exec .copyCommandComplete s = execCopyCommandComplete s := rfl
@[simp] theorem exec_redContribution (s : State) : exec .redContribution s = execRedContribution s := rfl
@[simp] theorem exec_peerPayloadArrival (s : State) : exec .peerPayloadArrival s = execPeerPayloadArrival s := rfl
@[simp] theorem exec_linkPortFail (s : State) : exec .linkPortFail s = execLinkPortFail s := rfl
@[simp] theorem exec_taskComplete (s : State) : exec .taskComplete s = execTaskComplete s := rfl
@[simp] theorem exec_dispatchSlot (s : State) : exec .dispatchSlot s = execDispatchSlot s := rfl
@[simp] theorem exec_nodePromote (s : State) : exec .nodePromote s = execNodePromote s := rfl
@[simp] theorem exec_nodeOffer (s : State) : exec .nodeOffer s = execNodeOffer s := rfl
@[simp] theorem exec_nodeTransferArrive (s : State) : exec .nodeTransferArrive s = execNodeTransferArrive s := rfl
@[simp] theorem exec_galliardPreemptRequest (s : State) : exec .galliardPreemptRequest s = execGalliardPreemptRequest s := rfl
@[simp] theorem exec_cancelToken (s : State) : exec .cancelToken s = execCancelToken s := rfl
@[simp] theorem exec_instanceEnd (s : State) : exec .instanceEnd s = execInstanceEnd s := rfl
@[simp] theorem exec_hostTailWrite (s : State) : exec .hostTailWrite s = execHostTailWrite s := rfl
@[simp] theorem exec_hostHeadWrite (s : State) : exec .hostHeadWrite s = execHostHeadWrite s := rfl
@[simp] theorem exec_hostHdmAccess (s : State) : exec .hostHdmAccess s = execHostHdmAccess s := rfl
@[simp] theorem exec_cmdNop (s : State) : exec .cmdNop s = execCmdNop s := rfl
@[simp] theorem exec_cmdLaunch (s : State) : exec .cmdLaunch s = execCmdLaunch s := rfl
@[simp] theorem exec_cmdCancel (s : State) : exec .cmdCancel s = execCmdCancel s := rfl
@[simp] theorem exec_cmdFence (s : State) : exec .cmdFence s = execCmdFence s := rfl
@[simp] theorem exec_cmdqBrkResume (s : State) : exec .cmdqBrkResume s = execCmdqBrkResume s := rfl
@[simp] theorem exec_hostRegisterWrite (s : State) : exec .hostRegisterWrite s = execHostRegisterWrite s := rfl
@[simp] theorem exec_msixCoalesceExpire (s : State) : exec .msixCoalesceExpire s = execMsixCoalesceExpire s := rfl
@[simp] theorem exec_xqAgeDue (s : State) : exec .xqAgeDue s = execXqAgeDue s := rfl
@[simp] theorem exec_xqFiringSlot (s : State) : exec .xqFiringSlot s = execXqFiringSlot s := rfl
@[simp] theorem exec_flashReadComplete (s : State) : exec .flashReadComplete s = execFlashReadComplete s := rfl
@[simp] theorem exec_indexMergeCommit (s : State) : exec .indexMergeCommit s = execIndexMergeCommit s := rfl
@[simp] theorem exec_pavaneMergeTimeout (s : State) : exec .pavaneMergeTimeout s = execPavaneMergeTimeout s := rfl
@[simp] theorem exec_pvlost (s : State) : exec .pvlost s = execPvlost s := rfl
@[simp] theorem exec_msetlost (s : State) : exec .msetlost s = execMsetlost s := rfl
@[simp] theorem exec_debugHaltRequest (s : State) : exec .debugHaltRequest s = execDebugHaltRequest s := rfl
@[simp] theorem exec_debugSessionAccess (s : State) : exec .debugSessionAccess s = execDebugSessionAccess s := rfl
@[simp] theorem exec_preemptStop (s : State) : exec .preemptStop s = execPreemptStop s := rfl
@[simp] theorem exec_contextSaveComplete (s : State) : exec .contextSaveComplete s = execContextSaveComplete s := rfl
@[simp] theorem exec_contextResume (s : State) : exec .contextResume s = execContextResume s := rfl
@[simp] theorem exec_partitionResetComplete (s : State) : exec .partitionResetComplete s = execPartitionResetComplete s := rfl
@[simp] theorem exec_deviceReset (s : State) : exec .deviceReset s = execDeviceReset s := rfl
@[simp] theorem exec_checkpointCommit (s : State) : exec .checkpointCommit s = execCheckpointCommit s := rfl
@[simp] theorem exec_restore (s : State) : exec .restore s = execRestore s := rfl
@[simp] theorem exec_domainEpochCheckpoint (s : State) : exec .domainEpochCheckpoint s = execDomainEpochCheckpoint s := rfl
@[simp] theorem exec_deviceFailureDetect (s : State) : exec .deviceFailureDetect s = execDeviceFailureDetect s := rfl
@[simp] theorem exec_backgroundScrub (s : State) : exec .backgroundScrub s = execBackgroundScrub s := rfl
@[simp] theorem exec_pavaneOperationComplete (s : State) : exec .pavaneOperationComplete s = execPavaneOperationComplete s := rfl
@[simp] theorem exec_xqSpillRefill (s : State) : exec .xqSpillRefill s = execXqSpillRefill s := rfl
@[simp] theorem exec_homeAcknowledgement (s : State) : exec .homeAcknowledgement s = execHomeAcknowledgement s := rfl
@[simp] theorem exec_debugSessionAttach (s : State) : exec .debugSessionAttach s = execDebugSessionAttach s := rfl
@[simp] theorem exec_debugSessionDetach (s : State) : exec .debugSessionDetach s = execDebugSessionDetach s := rfl
@[simp] theorem exec_debugResume (s : State) : exec .debugResume s = execDebugResume s := rfl
@[simp] theorem exec_imageLoad (s : State) : exec .imageLoad s = execImageLoad s := rfl
@[simp] theorem exec_indexCreate (s : State) : exec .indexCreate s = execIndexCreate s := rfl
@[simp] theorem exec_indexRemove (s : State) : exec .indexRemove s = execIndexRemove s := rfl
@[simp] theorem exec_galliardCtlWrite (s : State) : exec .galliardCtlWrite s = execGalliardCtlWrite s := rfl
@[simp] theorem exec_dieScratchGrant (s : State) : exec .dieScratchGrant s = execDieScratchGrant s := rfl
@[simp] theorem exec_powerLoss (s : State) : exec .powerLoss s = execPowerLoss s := rfl
@[simp] theorem exec_flitReplay (s : State) : exec .flitReplay s = execFlitReplay s := rfl
@[simp] theorem exec_hostDumpRead (s : State) : exec .hostDumpRead s = execHostDumpRead s := rfl

end Sys2Proof.Machine
end

