-- ==== Sys2Proof/Laws/Mem.lean ====
section
/-!
SUPPORT. Byte storage: reading after writing, and that every operation keeps the canonical form.
-/

namespace Sys2Proof.Machine

/-! ## Reading after writing -/

theorem memGet_lt_eq (lo : Nat) (m : Memory) (h : memOk (some lo) m = true) {a : Nat} (ha : a ≤ lo) : memGet m a = 0 := by
  cases m with
  | nil => rfl
  | cons x m =>
    obtain ⟨i, b⟩ := x
    simp only [memOk, Bool.and_eq_true, decide_eq_true_eq] at h
    simp only [memGet]
    rw [if_neg (by omega), if_pos (by omega)]

theorem memGet_memPut_same (m : Memory) (a : Nat) (v : Byte) (lo : Option Nat) (h : memOk lo m = true) :
    memGet (memPut m a v) a = v := by
  induction m generalizing lo with
  | nil =>
    by_cases hv : v = 0
    · simp [memPut, memGet, hv]
    · simp only [memPut, if_neg hv, memGet, if_true]
  | cons x m ih =>
    obtain ⟨i, b⟩ := x
    have ht : memOk (some i) m = true := by
      simp only [memOk, Bool.and_eq_true] at h; exact h.2
    simp only [memPut]
    split
    · by_cases hv : v = 0
      · simp only [hv, if_true, memGet]; rw [if_neg (by omega), if_pos (by assumption)]
      · simp only [if_neg hv, memGet, if_true]
    · split
      · subst_vars
        by_cases hv : v = 0
        · simp only [hv, if_true]; exact memGet_lt_eq _ m ht (by omega)
        · simp only [if_neg hv, memGet, if_true]
      · simp only [memGet]
        rw [if_neg (by omega), if_neg (by omega)]
        exact ih (some i) ht

theorem memGet_memPut_ne (m : Memory) {a c : Nat} (v : Byte) (lo : Option Nat) (h : memOk lo m = true) (hn : c ≠ a) :
    memGet (memPut m a v) c = memGet m c := by
  induction m generalizing lo with
  | nil =>
    by_cases hv : v = 0
    · simp [memPut, hv]
    · simp only [memPut, hv, if_false, memGet]; rw [if_neg (Ne.symm hn)]; split <;> rfl
  | cons x m ih =>
    obtain ⟨i, b⟩ := x
    have ht : memOk (some i) m = true := by
      simp only [memOk, Bool.and_eq_true] at h; exact h.2
    simp only [memPut]
    split
    · by_cases hv : v = 0
      · simp [hv]
      · simp only [if_neg hv, memGet]
        rw [if_neg (Ne.symm hn)]
        split
        · rw [if_neg (by omega), if_pos (by omega)]
        · rfl
    · split
      · subst_vars
        by_cases hv : v = 0
        · simp only [hv, if_true, memGet]
          rw [if_neg (Ne.symm hn)]
          split
          · exact memGet_lt_eq _ m ht (by omega)
          · rfl
        · simp only [if_neg hv, memGet]
          rw [if_neg (Ne.symm hn), if_neg (Ne.symm hn)]
      · simp only [memGet, ih (some i) ht]

/-! ## The canonical form -/

theorem memOk_mono {lo lo' : Nat} (m : Memory) (hl : lo' ≤ lo) (h : memOk (some lo) m = true) : memOk (some lo') m = true := by
  cases m with
  | nil => rfl
  | cons x m =>
    obtain ⟨i, b⟩ := x
    simp only [memOk, Bool.and_eq_true, decide_eq_true_eq] at h ⊢
    exact ⟨⟨by omega, h.1.2⟩, h.2⟩

theorem memOk_none {lo : Option Nat} (m : Memory) (h : memOk lo m = true) : memOk none m = true := by
  cases m with
  | nil => rfl
  | cons x m =>
    obtain ⟨i, b⟩ := x
    simp only [memOk, Bool.and_eq_true] at h ⊢
    exact ⟨⟨trivial, h.1.2⟩, h.2⟩

theorem memPut_memOk (m : Memory) (a : Nat) (v : Byte) (lo : Option Nat) (h : memOk lo m = true)
    (hl : ∀ l, lo = some l → l < a) : memOk lo (memPut m a v) = true := by
  induction m generalizing lo with
  | nil =>
    by_cases hv : v = 0
    · simp [memPut, hv, memOk]
    · cases lo with
      | none => simp only [memPut, if_neg hv, memOk]; simpa using hv
      | some l => simp only [memPut, if_neg hv, memOk]; simpa using ⟨hl l rfl, hv⟩
  | cons x m ih =>
    obtain ⟨i, b⟩ := x
    have h1 := h
    simp only [memOk, Bool.and_eq_true] at h1
    obtain ⟨⟨h1, h2⟩, h3⟩ := h1
    simp only [memPut]
    split
    · by_cases hv : v = 0
      · simpa [hv] using h
      · simp only [if_neg hv, memOk, Bool.and_eq_true, decide_eq_true_eq]
        refine ⟨⟨?_, by simpa using hv⟩, ⟨by assumption, h2⟩, h3⟩
        cases lo with
        | none => rfl
        | some l => simpa using hl l rfl
    · split
      · subst_vars
        by_cases hv : v = 0
        · simp only [hv, if_true]
          cases lo with
          | none => exact memOk_none m h3
          | some l => exact memOk_mono m (by have := hl l rfl; omega) h3
        · simp only [if_neg hv, memOk, Bool.and_eq_true]
          exact ⟨⟨h1, by simpa using hv⟩, h3⟩
      · simp only [memOk, Bool.and_eq_true]
        refine ⟨⟨h1, h2⟩, ih (some i) h3 ?_⟩
        intro l hl'
        cases hl'
        omega

/-- Storing a byte keeps the canonical form. -/
theorem memPut_wf (m : Memory) (a : Nat) (v : Byte) (h : m.wf = true) : Memory.wf (memPut m a v) = true :=
  memPut_memOk m a v none h (by simp)

/-- Storing bytes keeps the canonical form. -/
theorem memWrite_wf (m : Memory) (a : Nat) (bs : List Byte) (h : m.wf = true) : Memory.wf (memWrite m a bs) = true := by
  induction bs generalizing m a with
  | nil => exact h
  | cons b bs ih => exact ih _ _ (memPut_wf m a b h)

theorem filter_memOk (p : Nat × Byte → Bool) (m : Memory) (lo : Option Nat) (h : memOk lo m = true) :
    memOk lo (m.filter p) = true := by
  induction m generalizing lo with
  | nil => rfl
  | cons x m ih =>
    obtain ⟨i, b⟩ := x
    have h1 := h
    simp only [memOk, Bool.and_eq_true] at h1
    obtain ⟨⟨h1, h2⟩, h3⟩ := h1
    rw [List.filter_cons]
    split
    · simp only [memOk, Bool.and_eq_true]; exact ⟨⟨h1, h2⟩, ih _ h3⟩
    · cases lo with
      | none => exact memOk_none _ (ih _ h3)
      | some l =>
        refine memOk_mono _ ?_ (ih _ h3)
        simp only [decide_eq_true_eq] at h1
        omega

/-- Dropping cells keeps the canonical form. -/
theorem filter_wf (p : Nat × Byte → Bool) (m : Memory) (h : m.wf = true) : Memory.wf (m.filter p) = true :=
  filter_memOk p m none h

/-! ## Runs of bytes -/

theorem memGet_memWrite_out (m : Memory) (a : Nat) (bs : List Byte) (c : Nat) (h : m.wf = true)
    (hc : c < a ∨ a + bs.length ≤ c) : memGet (memWrite m a bs) c = memGet m c := by
  induction bs generalizing m a with
  | nil => rfl
  | cons b bs ih =>
    simp only [List.length_cons] at hc
    simp only [memWrite]
    rw [ih (memPut m a b) (a + 1) (memPut_wf m a b h) (by omega), memGet_memPut_ne m b none h (by omega)]

theorem memGet_memWrite_in (m : Memory) (a : Nat) (bs : List Byte) (i : Nat) (h : m.wf = true) (hi : i < bs.length) :
    memGet (memWrite m a bs) (a + i) = bs.getD i 0 := by
  induction bs generalizing m a i with
  | nil => simp at hi
  | cons b bs ih =>
    simp only [memWrite]
    cases i with
    | zero =>
      rw [memGet_memWrite_out _ _ _ _ (memPut_wf m a b h) (by omega)]
      simpa using memGet_memPut_same m a b none h
    | succ i =>
      have := ih (memPut m a b) (a + 1) i (memPut_wf m a b h) (by simpa using hi)
      rw [show a + (i + 1) = a + 1 + i by omega, this]
      simp

/-- A run reads back as it was stored. -/
theorem memRead_memWrite (m : Memory) (a : Nat) (bs : List Byte) (h : m.wf = true) :
    memRead (memWrite m a bs) a bs.length = bs := by
  induction bs generalizing m a with
  | nil => rfl
  | cons b bs ih =>
    simp only [memWrite, List.length_cons, memRead]
    rw [ih _ _ (memPut_wf m a b h), memGet_memWrite_out _ _ _ _ (memPut_wf m a b h) (by omega),
      memGet_memPut_same m a b none h]

theorem memRead_congr (m m' : Memory) (a n : Nat) (h : ∀ i, i < n → memGet m (a + i) = memGet m' (a + i)) :
    memRead m a n = memRead m' a n := by
  induction n generalizing a with
  | zero => rfl
  | succ n ih =>
    simp only [memRead]
    rw [show memGet m a = memGet m' a by simpa using h 0 (by omega), ih (a + 1)]
    intro i hi
    have := h (i + 1) (by omega)
    rwa [show a + 1 + i = a + (i + 1) by omega]

@[simp] theorem memRead_length (m : Memory) (a n : Nat) : (memRead m a n).length = n := by
  induction n generalizing a with
  | zero => rfl
  | succ n ih => simp [memRead, ih]

end Sys2Proof.Machine
end

