-- ==== Sys2Proof/Laws/Rows.lean ====
section
/-!
SUPPORT. Rows of a vector register (05_vector.md R128): a row read after it is written, and what leaving rows to be written later does.
-/

namespace Sys2Proof.Machine

theorem vrow_bit (x : VData) (i j : Nat) : (vrow x i).getLsbD j = (decide (j < 2048) && x.getLsbD (2048 * i + j)) := by
  rw [vrow, BitVec.getLsbD_extractLsb']

theorem setVrow_bit (x : VData) (i : Nat) (r : BitVec 2048) (k : Nat) (hk : k < 32768) :
    (setVrow x i r).getLsbD k = if 2048 * i ≤ k ∧ k < 2048 * i + 2048 then r.getLsbD (k - 2048 * i) else x.getLsbD k := by
  simp only [setVrow, BitVec.getLsbD_xor, BitVec.getLsbD_shiftLeft, BitVec.getLsbD_setWidth, vrow_bit, hk, decide_true, Bool.true_and]
  by_cases h1 : k < 2048 * i
  · rw [if_neg (by omega)]; simp [h1]
  · by_cases h2 : k < 2048 * i + 2048
    · rw [if_pos ⟨by omega, h2⟩, show 2048 * i + (k - 2048 * i) = k by omega]
      simp only [h1, show k - 2048 * i < 32768 by omega, show k - 2048 * i < 2048 by omega]
      simp
    · rw [if_neg (by omega), BitVec.getLsbD_of_ge r _ (by omega)]
      simp [show ¬k - 2048 * i < 2048 by omega]

theorem vrow_setVrow_same (x : VData) {i : Nat} (r : BitVec 2048) (hi : i < 16) : vrow (setVrow x i r) i = r := by
  apply BitVec.eq_of_getLsbD_eq
  intro j hj
  rw [vrow_bit, setVrow_bit _ _ _ _ (by omega), if_pos (by omega), show 2048 * i + j - 2048 * i = j by omega]
  simp [hj]

theorem vrow_setVrow_ne (x : VData) {i k : Nat} (r : BitVec 2048) (hk : k < 16) (h : k ≠ i) : vrow (setVrow x i r) k = vrow x k := by
  apply BitVec.eq_of_getLsbD_eq
  intro j hj
  rw [vrow_bit, vrow_bit, setVrow_bit _ _ _ _ (by omega), if_neg (by omega)]

/-- Nothing is left to write, so nothing changes. -/
@[simp] theorem Core.writeRows_none (c : Core) (e : Eng) (f : Nat → Bool) (h : c.late = []) : c.writeRows e f = c := by
  cases c
  simp_all [Core.writeRows]

/-- No row is left for later, so the word has its whole effect. -/
@[simp] theorem Core.delayRows_nil (old c : Core) (e : Eng) : old.delayRows c e [] = c := by
  cases c
  simp [Core.delayRows]

/-! Only the vector registers and the rows still to be written differ. -/

variable (old c : Core) (e : Eng) (rows : List Nat) (f : Nat → Bool)

@[simp] theorem Core.writeRows_s : (c.writeRows e f).s = c.s := rfl
@[simp] theorem Core.writeRows_c : (c.writeRows e f).c = c.c := rfl
@[simp] theorem Core.writeRows_pc : (c.writeRows e f).pc = c.pc := rfl
@[simp] theorem Core.writeRows_eng : (c.writeRows e f).eng = c.eng := rfl
@[simp] theorem Core.writeRows_toks : (c.writeRows e f).toks = c.toks := rfl
@[simp] theorem Core.delayRows_s : (old.delayRows c e rows).s = c.s := rfl
@[simp] theorem Core.delayRows_c : (old.delayRows c e rows).c = c.c := rfl
@[simp] theorem Core.delayRows_pc : (old.delayRows c e rows).pc = c.pc := rfl
@[simp] theorem Core.delayRows_eng : (old.delayRows c e rows).eng = c.eng := rfl
@[simp] theorem Core.delayRows_toks : (old.delayRows c e rows).toks = c.toks := rfl

end Sys2Proof.Machine
end

