-- ==== Sys2Proof/Laws/State.lean ====
section
/-!
SUPPORT. What each update of the state and of a core leaves: one lemma for each field, true by definition.
-/

namespace Sys2Proof.Machine

set_option Elab.async false

/-! ## updCore -/

section
variable (s : State) (g : Nat) (f : Core → Core)

@[simp] theorem State.updCore_agenda : (s.updCore g f).agenda = s.agenda := rfl
@[simp] theorem State.updCore_me : (s.updCore g f).me = s.me := rfl
@[simp] theorem State.updCore_clus : (s.updCore g f).clus = s.clus := rfl
@[simp] theorem State.updCore_arg : (s.updCore g f).arg = s.arg := rfl
@[simp] theorem State.updCore_fresh : (s.updCore g f).fresh = s.fresh := rfl
@[simp] theorem State.updCore_nextId : (s.updCore g f).nextId = s.nextId := rfl
@[simp] theorem State.updCore_cycle : (s.updCore g f).cycle = s.cycle := rfl
@[simp] theorem State.updCore_mem : (s.updCore g f).mem = s.mem := rfl
@[simp] theorem State.updCore_memunc : (s.updCore g f).memunc = s.memunc := rfl
@[simp] theorem State.updCore_dirty : (s.updCore g f).dirty = s.dirty := rfl
@[simp] theorem State.updCore_baseline : (s.updCore g f).baseline = s.baseline := rfl
@[simp] theorem State.updCore_clusters : (s.updCore g f).clusters = s.clusters := rfl
@[simp] theorem State.updCore_dies : (s.updCore g f).dies = s.dies := rfl
@[simp] theorem State.updCore_parts : (s.updCore g f).parts = s.parts := rfl
@[simp] theorem State.updCore_granules : (s.updCore g f).granules = s.granules := rfl
@[simp] theorem State.updCore_insts : (s.updCore g f).insts = s.insts := rfl
@[simp] theorem State.updCore_instCounter : (s.updCore g f).instCounter = s.instCounter := rfl
@[simp] theorem State.updCore_tokens : (s.updCore g f).tokens = s.tokens := rfl
@[simp] theorem State.updCore_tasks : (s.updCore g f).tasks = s.tasks := rfl
@[simp] theorem State.updCore_cmds : (s.updCore g f).cmds = s.cmds := rfl
@[simp] theorem State.updCore_rounds : (s.updCore g f).rounds = s.rounds := rfl
@[simp] theorem State.updCore_deliveries : (s.updCore g f).deliveries = s.deliveries := rfl
@[simp] theorem State.updCore_saved : (s.updCore g f).saved = s.saved := rfl
@[simp] theorem State.updCore_swapped : (s.updCore g f).swapped = s.swapped := rfl
@[simp] theorem State.updCore_stores : (s.updCore g f).stores = s.stores := rfl
@[simp] theorem State.updCore_spaceOwner : (s.updCore g f).spaceOwner = s.spaceOwner := rfl
@[simp] theorem State.updCore_searches : (s.updCore g f).searches = s.searches := rfl
@[simp] theorem State.updCore_searchCount : (s.updCore g f).searchCount = s.searchCount := rfl
@[simp] theorem State.updCore_binds : (s.updCore g f).binds = s.binds := rfl
@[simp] theorem State.updCore_appends : (s.updCore g f).appends = s.appends := rfl
@[simp] theorem State.updCore_coalesce : (s.updCore g f).coalesce = s.coalesce := rfl
@[simp] theorem State.updCore_toHost : (s.updCore g f).toHost = s.toHost := rfl
@[simp] theorem State.updCore_links : (s.updCore g f).links = s.links := rfl
@[simp] theorem State.updCore_rejects : (s.updCore g f).rejects = s.rejects := rfl
@[simp] theorem State.updCore_ports : (s.updCore g f).ports = s.ports := rfl
@[simp] theorem State.updCore_routes : (s.updCore g f).routes = s.routes := rfl
@[simp] theorem State.updCore_inDomain : (s.updCore g f).inDomain = s.inDomain := rfl
@[simp] theorem State.updCore_devNum : (s.updCore g f).devNum = s.devNum := rfl
@[simp] theorem State.updCore_quiesced : (s.updCore g f).quiesced = s.quiesced := rfl
@[simp] theorem State.updCore_firmware : (s.updCore g f).firmware = s.firmware := rfl
@[simp] theorem State.updCore_sigNext : (s.updCore g f).sigNext = s.sigNext := rfl
@[simp] theorem State.updCore_svcStatus : (s.updCore g f).svcStatus = s.svcStatus := rfl
@[simp] theorem State.updCore_svcResult : (s.updCore g f).svcResult = s.svcResult := rfl
@[simp] theorem State.updCore_powerReq : (s.updCore g f).powerReq = s.powerReq := rfl
@[simp] theorem State.updCore_images : (s.updCore g f).images = s.images := rfl
@[simp] theorem State.updCore_ckpt : (s.updCore g f).ckpt = s.ckpt := rfl
@[simp] theorem State.updCore_dbgValue : (s.updCore g f).dbgValue = s.dbgValue := rfl
@[simp] theorem State.updCore_lostDevs : (s.updCore g f).lostDevs = s.lostDevs := rfl
@[simp] theorem State.updCore_cluster (h : Nat) : (s.updCore g f).cluster h = s.cluster h := rfl
@[simp] theorem State.updCore_die (h : Nat) : (s.updCore g f).die h = s.die h := rfl
@[simp] theorem State.updCore_part (h : Nat) : (s.updCore g f).part h = s.part h := rfl
@[simp] theorem State.updCore_partOf (h : Nat) : (s.updCore g f).partOf h = s.partOf h := rfl

end

/-! ## updCluster -/

section
variable (s : State) (k : Nat) (f : Cluster → Cluster)

@[simp] theorem State.updCluster_agenda : (s.updCluster k f).agenda = s.agenda := rfl
@[simp] theorem State.updCluster_me : (s.updCluster k f).me = s.me := rfl
@[simp] theorem State.updCluster_clus : (s.updCluster k f).clus = s.clus := rfl
@[simp] theorem State.updCluster_arg : (s.updCluster k f).arg = s.arg := rfl
@[simp] theorem State.updCluster_fresh : (s.updCluster k f).fresh = s.fresh := rfl
@[simp] theorem State.updCluster_nextId : (s.updCluster k f).nextId = s.nextId := rfl
@[simp] theorem State.updCluster_cycle : (s.updCluster k f).cycle = s.cycle := rfl
@[simp] theorem State.updCluster_mem : (s.updCluster k f).mem = s.mem := rfl
@[simp] theorem State.updCluster_memunc : (s.updCluster k f).memunc = s.memunc := rfl
@[simp] theorem State.updCluster_dirty : (s.updCluster k f).dirty = s.dirty := rfl
@[simp] theorem State.updCluster_baseline : (s.updCluster k f).baseline = s.baseline := rfl
@[simp] theorem State.updCluster_cores : (s.updCluster k f).cores = s.cores := rfl
@[simp] theorem State.updCluster_dies : (s.updCluster k f).dies = s.dies := rfl
@[simp] theorem State.updCluster_parts : (s.updCluster k f).parts = s.parts := rfl
@[simp] theorem State.updCluster_granules : (s.updCluster k f).granules = s.granules := rfl
@[simp] theorem State.updCluster_insts : (s.updCluster k f).insts = s.insts := rfl
@[simp] theorem State.updCluster_instCounter : (s.updCluster k f).instCounter = s.instCounter := rfl
@[simp] theorem State.updCluster_tokens : (s.updCluster k f).tokens = s.tokens := rfl
@[simp] theorem State.updCluster_tasks : (s.updCluster k f).tasks = s.tasks := rfl
@[simp] theorem State.updCluster_cmds : (s.updCluster k f).cmds = s.cmds := rfl
@[simp] theorem State.updCluster_rounds : (s.updCluster k f).rounds = s.rounds := rfl
@[simp] theorem State.updCluster_deliveries : (s.updCluster k f).deliveries = s.deliveries := rfl
@[simp] theorem State.updCluster_saved : (s.updCluster k f).saved = s.saved := rfl
@[simp] theorem State.updCluster_swapped : (s.updCluster k f).swapped = s.swapped := rfl
@[simp] theorem State.updCluster_stores : (s.updCluster k f).stores = s.stores := rfl
@[simp] theorem State.updCluster_spaceOwner : (s.updCluster k f).spaceOwner = s.spaceOwner := rfl
@[simp] theorem State.updCluster_searches : (s.updCluster k f).searches = s.searches := rfl
@[simp] theorem State.updCluster_searchCount : (s.updCluster k f).searchCount = s.searchCount := rfl
@[simp] theorem State.updCluster_binds : (s.updCluster k f).binds = s.binds := rfl
@[simp] theorem State.updCluster_appends : (s.updCluster k f).appends = s.appends := rfl
@[simp] theorem State.updCluster_coalesce : (s.updCluster k f).coalesce = s.coalesce := rfl
@[simp] theorem State.updCluster_toHost : (s.updCluster k f).toHost = s.toHost := rfl
@[simp] theorem State.updCluster_links : (s.updCluster k f).links = s.links := rfl
@[simp] theorem State.updCluster_rejects : (s.updCluster k f).rejects = s.rejects := rfl
@[simp] theorem State.updCluster_ports : (s.updCluster k f).ports = s.ports := rfl
@[simp] theorem State.updCluster_routes : (s.updCluster k f).routes = s.routes := rfl
@[simp] theorem State.updCluster_inDomain : (s.updCluster k f).inDomain = s.inDomain := rfl
@[simp] theorem State.updCluster_devNum : (s.updCluster k f).devNum = s.devNum := rfl
@[simp] theorem State.updCluster_quiesced : (s.updCluster k f).quiesced = s.quiesced := rfl
@[simp] theorem State.updCluster_firmware : (s.updCluster k f).firmware = s.firmware := rfl
@[simp] theorem State.updCluster_sigNext : (s.updCluster k f).sigNext = s.sigNext := rfl
@[simp] theorem State.updCluster_svcStatus : (s.updCluster k f).svcStatus = s.svcStatus := rfl
@[simp] theorem State.updCluster_svcResult : (s.updCluster k f).svcResult = s.svcResult := rfl
@[simp] theorem State.updCluster_powerReq : (s.updCluster k f).powerReq = s.powerReq := rfl
@[simp] theorem State.updCluster_images : (s.updCluster k f).images = s.images := rfl
@[simp] theorem State.updCluster_ckpt : (s.updCluster k f).ckpt = s.ckpt := rfl
@[simp] theorem State.updCluster_dbgValue : (s.updCluster k f).dbgValue = s.dbgValue := rfl
@[simp] theorem State.updCluster_lostDevs : (s.updCluster k f).lostDevs = s.lostDevs := rfl
@[simp] theorem State.updCluster_core (h : Nat) : (s.updCluster k f).core h = s.core h := rfl
@[simp] theorem State.updCluster_die (h : Nat) : (s.updCluster k f).die h = s.die h := rfl
@[simp] theorem State.updCluster_part (h : Nat) : (s.updCluster k f).part h = s.part h := rfl

end

/-! ## updDie -/

section
variable (s : State) (d : Nat) (f : Die → Die)

@[simp] theorem State.updDie_agenda : (s.updDie d f).agenda = s.agenda := rfl
@[simp] theorem State.updDie_me : (s.updDie d f).me = s.me := rfl
@[simp] theorem State.updDie_clus : (s.updDie d f).clus = s.clus := rfl
@[simp] theorem State.updDie_arg : (s.updDie d f).arg = s.arg := rfl
@[simp] theorem State.updDie_fresh : (s.updDie d f).fresh = s.fresh := rfl
@[simp] theorem State.updDie_nextId : (s.updDie d f).nextId = s.nextId := rfl
@[simp] theorem State.updDie_cycle : (s.updDie d f).cycle = s.cycle := rfl
@[simp] theorem State.updDie_mem : (s.updDie d f).mem = s.mem := rfl
@[simp] theorem State.updDie_memunc : (s.updDie d f).memunc = s.memunc := rfl
@[simp] theorem State.updDie_dirty : (s.updDie d f).dirty = s.dirty := rfl
@[simp] theorem State.updDie_baseline : (s.updDie d f).baseline = s.baseline := rfl
@[simp] theorem State.updDie_cores : (s.updDie d f).cores = s.cores := rfl
@[simp] theorem State.updDie_clusters : (s.updDie d f).clusters = s.clusters := rfl
@[simp] theorem State.updDie_parts : (s.updDie d f).parts = s.parts := rfl
@[simp] theorem State.updDie_granules : (s.updDie d f).granules = s.granules := rfl
@[simp] theorem State.updDie_insts : (s.updDie d f).insts = s.insts := rfl
@[simp] theorem State.updDie_instCounter : (s.updDie d f).instCounter = s.instCounter := rfl
@[simp] theorem State.updDie_tokens : (s.updDie d f).tokens = s.tokens := rfl
@[simp] theorem State.updDie_tasks : (s.updDie d f).tasks = s.tasks := rfl
@[simp] theorem State.updDie_cmds : (s.updDie d f).cmds = s.cmds := rfl
@[simp] theorem State.updDie_rounds : (s.updDie d f).rounds = s.rounds := rfl
@[simp] theorem State.updDie_deliveries : (s.updDie d f).deliveries = s.deliveries := rfl
@[simp] theorem State.updDie_saved : (s.updDie d f).saved = s.saved := rfl
@[simp] theorem State.updDie_swapped : (s.updDie d f).swapped = s.swapped := rfl
@[simp] theorem State.updDie_stores : (s.updDie d f).stores = s.stores := rfl
@[simp] theorem State.updDie_spaceOwner : (s.updDie d f).spaceOwner = s.spaceOwner := rfl
@[simp] theorem State.updDie_searches : (s.updDie d f).searches = s.searches := rfl
@[simp] theorem State.updDie_searchCount : (s.updDie d f).searchCount = s.searchCount := rfl
@[simp] theorem State.updDie_binds : (s.updDie d f).binds = s.binds := rfl
@[simp] theorem State.updDie_appends : (s.updDie d f).appends = s.appends := rfl
@[simp] theorem State.updDie_coalesce : (s.updDie d f).coalesce = s.coalesce := rfl
@[simp] theorem State.updDie_toHost : (s.updDie d f).toHost = s.toHost := rfl
@[simp] theorem State.updDie_links : (s.updDie d f).links = s.links := rfl
@[simp] theorem State.updDie_rejects : (s.updDie d f).rejects = s.rejects := rfl
@[simp] theorem State.updDie_ports : (s.updDie d f).ports = s.ports := rfl
@[simp] theorem State.updDie_routes : (s.updDie d f).routes = s.routes := rfl
@[simp] theorem State.updDie_inDomain : (s.updDie d f).inDomain = s.inDomain := rfl
@[simp] theorem State.updDie_devNum : (s.updDie d f).devNum = s.devNum := rfl
@[simp] theorem State.updDie_quiesced : (s.updDie d f).quiesced = s.quiesced := rfl
@[simp] theorem State.updDie_firmware : (s.updDie d f).firmware = s.firmware := rfl
@[simp] theorem State.updDie_sigNext : (s.updDie d f).sigNext = s.sigNext := rfl
@[simp] theorem State.updDie_svcStatus : (s.updDie d f).svcStatus = s.svcStatus := rfl
@[simp] theorem State.updDie_svcResult : (s.updDie d f).svcResult = s.svcResult := rfl
@[simp] theorem State.updDie_powerReq : (s.updDie d f).powerReq = s.powerReq := rfl
@[simp] theorem State.updDie_images : (s.updDie d f).images = s.images := rfl
@[simp] theorem State.updDie_ckpt : (s.updDie d f).ckpt = s.ckpt := rfl
@[simp] theorem State.updDie_dbgValue : (s.updDie d f).dbgValue = s.dbgValue := rfl
@[simp] theorem State.updDie_lostDevs : (s.updDie d f).lostDevs = s.lostDevs := rfl
@[simp] theorem State.updDie_core (h : Nat) : (s.updDie d f).core h = s.core h := rfl
@[simp] theorem State.updDie_cluster (h : Nat) : (s.updDie d f).cluster h = s.cluster h := rfl
@[simp] theorem State.updDie_part (h : Nat) : (s.updDie d f).part h = s.part h := rfl
@[simp] theorem State.updDie_partOf (h : Nat) : (s.updDie d f).partOf h = s.partOf h := rfl

end

/-! ## updPart -/

section
variable (s : State) (p : Nat) (f : Partition → Partition)

@[simp] theorem State.updPart_agenda : (s.updPart p f).agenda = s.agenda := rfl
@[simp] theorem State.updPart_me : (s.updPart p f).me = s.me := rfl
@[simp] theorem State.updPart_clus : (s.updPart p f).clus = s.clus := rfl
@[simp] theorem State.updPart_arg : (s.updPart p f).arg = s.arg := rfl
@[simp] theorem State.updPart_fresh : (s.updPart p f).fresh = s.fresh := rfl
@[simp] theorem State.updPart_nextId : (s.updPart p f).nextId = s.nextId := rfl
@[simp] theorem State.updPart_cycle : (s.updPart p f).cycle = s.cycle := rfl
@[simp] theorem State.updPart_mem : (s.updPart p f).mem = s.mem := rfl
@[simp] theorem State.updPart_memunc : (s.updPart p f).memunc = s.memunc := rfl
@[simp] theorem State.updPart_dirty : (s.updPart p f).dirty = s.dirty := rfl
@[simp] theorem State.updPart_baseline : (s.updPart p f).baseline = s.baseline := rfl
@[simp] theorem State.updPart_cores : (s.updPart p f).cores = s.cores := rfl
@[simp] theorem State.updPart_clusters : (s.updPart p f).clusters = s.clusters := rfl
@[simp] theorem State.updPart_dies : (s.updPart p f).dies = s.dies := rfl
@[simp] theorem State.updPart_granules : (s.updPart p f).granules = s.granules := rfl
@[simp] theorem State.updPart_insts : (s.updPart p f).insts = s.insts := rfl
@[simp] theorem State.updPart_instCounter : (s.updPart p f).instCounter = s.instCounter := rfl
@[simp] theorem State.updPart_tokens : (s.updPart p f).tokens = s.tokens := rfl
@[simp] theorem State.updPart_tasks : (s.updPart p f).tasks = s.tasks := rfl
@[simp] theorem State.updPart_cmds : (s.updPart p f).cmds = s.cmds := rfl
@[simp] theorem State.updPart_rounds : (s.updPart p f).rounds = s.rounds := rfl
@[simp] theorem State.updPart_deliveries : (s.updPart p f).deliveries = s.deliveries := rfl
@[simp] theorem State.updPart_saved : (s.updPart p f).saved = s.saved := rfl
@[simp] theorem State.updPart_swapped : (s.updPart p f).swapped = s.swapped := rfl
@[simp] theorem State.updPart_stores : (s.updPart p f).stores = s.stores := rfl
@[simp] theorem State.updPart_spaceOwner : (s.updPart p f).spaceOwner = s.spaceOwner := rfl
@[simp] theorem State.updPart_searches : (s.updPart p f).searches = s.searches := rfl
@[simp] theorem State.updPart_searchCount : (s.updPart p f).searchCount = s.searchCount := rfl
@[simp] theorem State.updPart_binds : (s.updPart p f).binds = s.binds := rfl
@[simp] theorem State.updPart_appends : (s.updPart p f).appends = s.appends := rfl
@[simp] theorem State.updPart_coalesce : (s.updPart p f).coalesce = s.coalesce := rfl
@[simp] theorem State.updPart_toHost : (s.updPart p f).toHost = s.toHost := rfl
@[simp] theorem State.updPart_links : (s.updPart p f).links = s.links := rfl
@[simp] theorem State.updPart_rejects : (s.updPart p f).rejects = s.rejects := rfl
@[simp] theorem State.updPart_ports : (s.updPart p f).ports = s.ports := rfl
@[simp] theorem State.updPart_routes : (s.updPart p f).routes = s.routes := rfl
@[simp] theorem State.updPart_inDomain : (s.updPart p f).inDomain = s.inDomain := rfl
@[simp] theorem State.updPart_devNum : (s.updPart p f).devNum = s.devNum := rfl
@[simp] theorem State.updPart_quiesced : (s.updPart p f).quiesced = s.quiesced := rfl
@[simp] theorem State.updPart_firmware : (s.updPart p f).firmware = s.firmware := rfl
@[simp] theorem State.updPart_sigNext : (s.updPart p f).sigNext = s.sigNext := rfl
@[simp] theorem State.updPart_svcStatus : (s.updPart p f).svcStatus = s.svcStatus := rfl
@[simp] theorem State.updPart_svcResult : (s.updPart p f).svcResult = s.svcResult := rfl
@[simp] theorem State.updPart_powerReq : (s.updPart p f).powerReq = s.powerReq := rfl
@[simp] theorem State.updPart_images : (s.updPart p f).images = s.images := rfl
@[simp] theorem State.updPart_ckpt : (s.updPart p f).ckpt = s.ckpt := rfl
@[simp] theorem State.updPart_dbgValue : (s.updPart p f).dbgValue = s.dbgValue := rfl
@[simp] theorem State.updPart_lostDevs : (s.updPart p f).lostDevs = s.lostDevs := rfl
@[simp] theorem State.updPart_core (h : Nat) : (s.updPart p f).core h = s.core h := rfl
@[simp] theorem State.updPart_cluster (h : Nat) : (s.updPart p f).cluster h = s.cluster h := rfl
@[simp] theorem State.updPart_die (h : Nat) : (s.updPart p f).die h = s.die h := rfl
@[simp] theorem State.updPart_partOf (h : Nat) : (s.updPart p f).partOf h = s.partOf h := rfl

end

/-! ## Moving to the next word -/

section
variable (c : Core) (n : Word)

@[simp] theorem Core.goto_s : (c.goto n).s = c.s := rfl
@[simp] theorem Core.goto_shadow : (c.goto n).shadow = c.shadow := rfl
@[simp] theorem Core.goto_c : (c.goto n).c = c.c := rfl
@[simp] theorem Core.goto_v : (c.goto n).v = c.v := rfl
@[simp] theorem Core.goto_m : (c.goto n).m = c.m := rfl
@[simp] theorem Core.goto_mstack : (c.goto n).mstack = c.mstack := rfl
@[simp] theorem Core.goto_t : (c.goto n).t = c.t := rfl
@[simp] theorem Core.goto_tkind : (c.goto n).tkind = c.tkind := rfl
@[simp] theorem Core.goto_q : (c.goto n).q = c.q := rfl
@[simp] theorem Core.goto_loops : (c.goto n).loops = c.loops := rfl
@[simp] theorem Core.goto_task : (c.goto n).task = c.task := rfl
@[simp] theorem Core.goto_phase : (c.goto n).phase = c.phase := rfl
@[simp] theorem Core.goto_rank : (c.goto n).rank = c.rank := rfl
@[simp] theorem Core.goto_lastPart : (c.goto n).lastPart = c.lastPart := rfl
@[simp] theorem Core.goto_phaseStart : (c.goto n).phaseStart = c.phaseStart := rfl
@[simp] theorem Core.goto_phaseDue : (c.goto n).phaseDue = c.phaseDue := rfl
@[simp] theorem Core.goto_eng : (c.goto n).eng = c.eng := rfl
@[simp] theorem Core.goto_toks : (c.goto n).toks = c.toks := rfl
@[simp] theorem Core.goto_seq : (c.goto n).seq = c.seq := rfl
@[simp] theorem Core.goto_mmasSeen : (c.goto n).mmasSeen = c.mmasSeen := rfl
@[simp] theorem Core.goto_mmasDone : (c.goto n).mmasDone = c.mmasDone := rfl
@[simp] theorem Core.goto_wbuf : (c.goto n).wbuf = c.wbuf := rfl
@[simp] theorem Core.goto_smb : (c.goto n).smb = c.smb := rfl
@[simp] theorem Core.goto_staging : (c.goto n).staging = c.staging := rfl
@[simp] theorem Core.goto_out : (c.goto n).out = c.out := rfl
@[simp] theorem Core.goto_monitors : (c.goto n).monitors = c.monitors := rfl
@[simp] theorem Core.goto_wait : (c.goto n).wait = c.wait := rfl
@[simp] theorem Core.goto_att : (c.goto n).att = c.att := rfl
@[simp] theorem Core.goto_lines : (c.goto n).lines = c.lines := rfl
@[simp] theorem Core.goto_badLines : (c.goto n).badLines = c.badLines := rfl
@[simp] theorem Core.goto_refills : (c.goto n).refills = c.refills := rfl
@[simp] theorem Core.goto_ftz : (c.goto n).ftz = c.ftz := rfl
@[simp] theorem Core.goto_nten : (c.goto n).nten = c.nten := rfl
@[simp] theorem Core.goto_fpstat : (c.goto n).fpstat = c.fpstat := rfl
@[simp] theorem Core.goto_seed : (c.goto n).seed = c.seed := rfl
@[simp] theorem Core.goto_genS : (c.goto n).genS = c.genS := rfl
@[simp] theorem Core.goto_genV : (c.goto n).genV = c.genV := rfl
@[simp] theorem Core.goto_genM : (c.goto n).genM = c.genM := rfl
@[simp] theorem Core.goto_cmpdSeg : (c.goto n).cmpdSeg = c.cmpdSeg := rfl
@[simp] theorem Core.goto_cmpdOfs : (c.goto n).cmpdOfs = c.cmpdOfs := rfl
@[simp] theorem Core.goto_cmpdN : (c.goto n).cmpdN = c.cmpdN := rfl
@[simp] theorem Core.goto_cmpdValid : (c.goto n).cmpdValid = c.cmpdValid := rfl
@[simp] theorem Core.goto_cmpdErr : (c.goto n).cmpdErr = c.cmpdErr := rfl
@[simp] theorem Core.goto_joinTimeout : (c.goto n).joinTimeout = c.joinTimeout := rfl
@[simp] theorem Core.goto_xqStride : (c.goto n).xqStride = c.xqStride := rfl
@[simp] theorem Core.goto_xqWidth : (c.goto n).xqWidth = c.xqWidth := rfl
@[simp] theorem Core.goto_hndCtl : (c.goto n).hndCtl = c.hndCtl := rfl
@[simp] theorem Core.goto_hndBase : (c.goto n).hndBase = c.hndBase := rfl
@[simp] theorem Core.goto_inh : (c.goto n).inh = c.inh := rfl
@[simp] theorem Core.goto_skip : (c.goto n).skip = c.skip := rfl
@[simp] theorem Core.goto_hndStart : (c.goto n).hndStart = c.hndStart := rfl
@[simp] theorem Core.goto_faultRep : (c.goto n).faultRep = c.faultRep := rfl
@[simp] theorem Core.goto_wp : (c.goto n).wp = c.wp := rfl
@[simp] theorem Core.goto_wpHit : (c.goto n).wpHit = c.wpHit := rfl
@[simp] theorem Core.goto_traceCtl : (c.goto n).traceCtl = c.traceCtl := rfl
@[simp] theorem Core.goto_pend : (c.goto n).pend = c.pend := rfl
@[simp] theorem Core.goto_stopped : (c.goto n).stopped = c.stopped := rfl
@[simp] theorem Core.goto_halted : (c.goto n).halted = c.halted := rfl
@[simp] theorem Core.goto_haltRep : (c.goto n).haltRep = c.haltRep := rfl
@[simp] theorem Core.goto_haltStart : (c.goto n).haltStart = c.haltStart := rfl
@[simp] theorem Core.goto_drainSince : (c.goto n).drainSince = c.drainSince := rfl
@[simp] theorem Core.goto_late : (c.goto n).late = c.late := rfl
@[simp] theorem Core.goto_stage : (c.goto n).stage = c.stage := rfl
@[simp] theorem Core.goto_issueCycle : (c.goto n).issueCycle = c.issueCycle := rfl
@[simp] theorem Core.goto_issueSeq : (c.goto n).issueSeq = c.issueSeq := rfl
@[simp] theorem Core.goto_pc : (c.goto n).pc = n := rfl
@[simp] theorem Core.goto_noWatch : (c.goto n).noWatch = false := rfl
@[simp] theorem Core.advance_pc : c.advance.pc = c.pc + 8 := rfl
@[simp] theorem Core.advance_eq : c.advance = c.goto (c.pc + 8) := rfl

end

/-! ## Writing registers -/

section
variable (c : Core) (r : BitVec 6) (x : Word)

@[simp] theorem Core.setReg_c : (c.setReg r x).c = c.c := by unfold Core.setReg Core.putBank; split_ifs <;> rfl
@[simp] theorem Core.setReg_v : (c.setReg r x).v = c.v := by unfold Core.setReg Core.putBank; split_ifs <;> rfl
@[simp] theorem Core.setReg_m : (c.setReg r x).m = c.m := by unfold Core.setReg Core.putBank; split_ifs <;> rfl
@[simp] theorem Core.setReg_mstack : (c.setReg r x).mstack = c.mstack := by unfold Core.setReg Core.putBank; split_ifs <;> rfl
@[simp] theorem Core.setReg_t : (c.setReg r x).t = c.t := by unfold Core.setReg Core.putBank; split_ifs <;> rfl
@[simp] theorem Core.setReg_tkind : (c.setReg r x).tkind = c.tkind := by unfold Core.setReg Core.putBank; split_ifs <;> rfl
@[simp] theorem Core.setReg_q : (c.setReg r x).q = c.q := by unfold Core.setReg Core.putBank; split_ifs <;> rfl
@[simp] theorem Core.setReg_loops : (c.setReg r x).loops = c.loops := by unfold Core.setReg Core.putBank; split_ifs <;> rfl
@[simp] theorem Core.setReg_task : (c.setReg r x).task = c.task := by unfold Core.setReg Core.putBank; split_ifs <;> rfl
@[simp] theorem Core.setReg_phase : (c.setReg r x).phase = c.phase := by unfold Core.setReg Core.putBank; split_ifs <;> rfl
@[simp] theorem Core.setReg_rank : (c.setReg r x).rank = c.rank := by unfold Core.setReg Core.putBank; split_ifs <;> rfl
@[simp] theorem Core.setReg_lastPart : (c.setReg r x).lastPart = c.lastPart := by unfold Core.setReg Core.putBank; split_ifs <;> rfl
@[simp] theorem Core.setReg_phaseStart : (c.setReg r x).phaseStart = c.phaseStart := by unfold Core.setReg Core.putBank; split_ifs <;> rfl
@[simp] theorem Core.setReg_phaseDue : (c.setReg r x).phaseDue = c.phaseDue := by unfold Core.setReg Core.putBank; split_ifs <;> rfl
@[simp] theorem Core.setReg_eng : (c.setReg r x).eng = c.eng := by unfold Core.setReg Core.putBank; split_ifs <;> rfl
@[simp] theorem Core.setReg_toks : (c.setReg r x).toks = c.toks := by unfold Core.setReg Core.putBank; split_ifs <;> rfl
@[simp] theorem Core.setReg_seq : (c.setReg r x).seq = c.seq := by unfold Core.setReg Core.putBank; split_ifs <;> rfl
@[simp] theorem Core.setReg_mmasSeen : (c.setReg r x).mmasSeen = c.mmasSeen := by unfold Core.setReg Core.putBank; split_ifs <;> rfl
@[simp] theorem Core.setReg_mmasDone : (c.setReg r x).mmasDone = c.mmasDone := by unfold Core.setReg Core.putBank; split_ifs <;> rfl
@[simp] theorem Core.setReg_wbuf : (c.setReg r x).wbuf = c.wbuf := by unfold Core.setReg Core.putBank; split_ifs <;> rfl
@[simp] theorem Core.setReg_smb : (c.setReg r x).smb = c.smb := by unfold Core.setReg Core.putBank; split_ifs <;> rfl
@[simp] theorem Core.setReg_staging : (c.setReg r x).staging = c.staging := by unfold Core.setReg Core.putBank; split_ifs <;> rfl
@[simp] theorem Core.setReg_out : (c.setReg r x).out = c.out := by unfold Core.setReg Core.putBank; split_ifs <;> rfl
@[simp] theorem Core.setReg_monitors : (c.setReg r x).monitors = c.monitors := by unfold Core.setReg Core.putBank; split_ifs <;> rfl
@[simp] theorem Core.setReg_wait : (c.setReg r x).wait = c.wait := by unfold Core.setReg Core.putBank; split_ifs <;> rfl
@[simp] theorem Core.setReg_att : (c.setReg r x).att = c.att := by unfold Core.setReg Core.putBank; split_ifs <;> rfl
@[simp] theorem Core.setReg_lines : (c.setReg r x).lines = c.lines := by unfold Core.setReg Core.putBank; split_ifs <;> rfl
@[simp] theorem Core.setReg_badLines : (c.setReg r x).badLines = c.badLines := by unfold Core.setReg Core.putBank; split_ifs <;> rfl
@[simp] theorem Core.setReg_refills : (c.setReg r x).refills = c.refills := by unfold Core.setReg Core.putBank; split_ifs <;> rfl
@[simp] theorem Core.setReg_ftz : (c.setReg r x).ftz = c.ftz := by unfold Core.setReg Core.putBank; split_ifs <;> rfl
@[simp] theorem Core.setReg_nten : (c.setReg r x).nten = c.nten := by unfold Core.setReg Core.putBank; split_ifs <;> rfl
@[simp] theorem Core.setReg_fpstat : (c.setReg r x).fpstat = c.fpstat := by unfold Core.setReg Core.putBank; split_ifs <;> rfl
@[simp] theorem Core.setReg_seed : (c.setReg r x).seed = c.seed := by unfold Core.setReg Core.putBank; split_ifs <;> rfl
@[simp] theorem Core.setReg_genS : (c.setReg r x).genS = c.genS := by unfold Core.setReg Core.putBank; split_ifs <;> rfl
@[simp] theorem Core.setReg_genV : (c.setReg r x).genV = c.genV := by unfold Core.setReg Core.putBank; split_ifs <;> rfl
@[simp] theorem Core.setReg_genM : (c.setReg r x).genM = c.genM := by unfold Core.setReg Core.putBank; split_ifs <;> rfl
@[simp] theorem Core.setReg_cmpdSeg : (c.setReg r x).cmpdSeg = c.cmpdSeg := by unfold Core.setReg Core.putBank; split_ifs <;> rfl
@[simp] theorem Core.setReg_cmpdOfs : (c.setReg r x).cmpdOfs = c.cmpdOfs := by unfold Core.setReg Core.putBank; split_ifs <;> rfl
@[simp] theorem Core.setReg_cmpdN : (c.setReg r x).cmpdN = c.cmpdN := by unfold Core.setReg Core.putBank; split_ifs <;> rfl
@[simp] theorem Core.setReg_cmpdValid : (c.setReg r x).cmpdValid = c.cmpdValid := by unfold Core.setReg Core.putBank; split_ifs <;> rfl
@[simp] theorem Core.setReg_cmpdErr : (c.setReg r x).cmpdErr = c.cmpdErr := by unfold Core.setReg Core.putBank; split_ifs <;> rfl
@[simp] theorem Core.setReg_joinTimeout : (c.setReg r x).joinTimeout = c.joinTimeout := by unfold Core.setReg Core.putBank; split_ifs <;> rfl
@[simp] theorem Core.setReg_xqStride : (c.setReg r x).xqStride = c.xqStride := by unfold Core.setReg Core.putBank; split_ifs <;> rfl
@[simp] theorem Core.setReg_xqWidth : (c.setReg r x).xqWidth = c.xqWidth := by unfold Core.setReg Core.putBank; split_ifs <;> rfl
@[simp] theorem Core.setReg_hndCtl : (c.setReg r x).hndCtl = c.hndCtl := by unfold Core.setReg Core.putBank; split_ifs <;> rfl
@[simp] theorem Core.setReg_hndBase : (c.setReg r x).hndBase = c.hndBase := by unfold Core.setReg Core.putBank; split_ifs <;> rfl
@[simp] theorem Core.setReg_inh : (c.setReg r x).inh = c.inh := by unfold Core.setReg Core.putBank; split_ifs <;> rfl
@[simp] theorem Core.setReg_skip : (c.setReg r x).skip = c.skip := by unfold Core.setReg Core.putBank; split_ifs <;> rfl
@[simp] theorem Core.setReg_hndStart : (c.setReg r x).hndStart = c.hndStart := by unfold Core.setReg Core.putBank; split_ifs <;> rfl
@[simp] theorem Core.setReg_faultRep : (c.setReg r x).faultRep = c.faultRep := by unfold Core.setReg Core.putBank; split_ifs <;> rfl
@[simp] theorem Core.setReg_wp : (c.setReg r x).wp = c.wp := by unfold Core.setReg Core.putBank; split_ifs <;> rfl
@[simp] theorem Core.setReg_wpHit : (c.setReg r x).wpHit = c.wpHit := by unfold Core.setReg Core.putBank; split_ifs <;> rfl
@[simp] theorem Core.setReg_traceCtl : (c.setReg r x).traceCtl = c.traceCtl := by unfold Core.setReg Core.putBank; split_ifs <;> rfl
@[simp] theorem Core.setReg_pend : (c.setReg r x).pend = c.pend := by unfold Core.setReg Core.putBank; split_ifs <;> rfl
@[simp] theorem Core.setReg_stopped : (c.setReg r x).stopped = c.stopped := by unfold Core.setReg Core.putBank; split_ifs <;> rfl
@[simp] theorem Core.setReg_halted : (c.setReg r x).halted = c.halted := by unfold Core.setReg Core.putBank; split_ifs <;> rfl
@[simp] theorem Core.setReg_haltRep : (c.setReg r x).haltRep = c.haltRep := by unfold Core.setReg Core.putBank; split_ifs <;> rfl
@[simp] theorem Core.setReg_haltStart : (c.setReg r x).haltStart = c.haltStart := by unfold Core.setReg Core.putBank; split_ifs <;> rfl
@[simp] theorem Core.setReg_drainSince : (c.setReg r x).drainSince = c.drainSince := by unfold Core.setReg Core.putBank; split_ifs <;> rfl
@[simp] theorem Core.setReg_late : (c.setReg r x).late = c.late := by unfold Core.setReg Core.putBank; split_ifs <;> rfl
@[simp] theorem Core.setReg_stage : (c.setReg r x).stage = c.stage := by unfold Core.setReg Core.putBank; split_ifs <;> rfl
@[simp] theorem Core.setReg_issueCycle : (c.setReg r x).issueCycle = c.issueCycle := by unfold Core.setReg Core.putBank; split_ifs <;> rfl
@[simp] theorem Core.setReg_issueSeq : (c.setReg r x).issueSeq = c.issueSeq := by unfold Core.setReg Core.putBank; split_ifs <;> rfl
@[simp] theorem Core.setReg_pc : (c.setReg r x).pc = c.pc := by unfold Core.setReg Core.putBank; split_ifs <;> rfl
@[simp] theorem Core.setReg_noWatch : (c.setReg r x).noWatch = c.noWatch := by unfold Core.setReg Core.putBank; split_ifs <;> rfl
@[simp] theorem Core.setReg_qpos : (c.setReg r x).qpos = c.qpos := by unfold Core.setReg Core.putBank; split_ifs <;> rfl

end

section
variable (c : Core) (k : BitVec 3) (b : Bool)

@[simp] theorem Core.setCreg_s : (c.setCreg k b).s = c.s := by unfold Core.setCreg; split_ifs <;> rfl
@[simp] theorem Core.setCreg_shadow : (c.setCreg k b).shadow = c.shadow := by unfold Core.setCreg; split_ifs <;> rfl
@[simp] theorem Core.setCreg_v : (c.setCreg k b).v = c.v := by unfold Core.setCreg; split_ifs <;> rfl
@[simp] theorem Core.setCreg_m : (c.setCreg k b).m = c.m := by unfold Core.setCreg; split_ifs <;> rfl
@[simp] theorem Core.setCreg_mstack : (c.setCreg k b).mstack = c.mstack := by unfold Core.setCreg; split_ifs <;> rfl
@[simp] theorem Core.setCreg_t : (c.setCreg k b).t = c.t := by unfold Core.setCreg; split_ifs <;> rfl
@[simp] theorem Core.setCreg_tkind : (c.setCreg k b).tkind = c.tkind := by unfold Core.setCreg; split_ifs <;> rfl
@[simp] theorem Core.setCreg_q : (c.setCreg k b).q = c.q := by unfold Core.setCreg; split_ifs <;> rfl
@[simp] theorem Core.setCreg_loops : (c.setCreg k b).loops = c.loops := by unfold Core.setCreg; split_ifs <;> rfl
@[simp] theorem Core.setCreg_task : (c.setCreg k b).task = c.task := by unfold Core.setCreg; split_ifs <;> rfl
@[simp] theorem Core.setCreg_phase : (c.setCreg k b).phase = c.phase := by unfold Core.setCreg; split_ifs <;> rfl
@[simp] theorem Core.setCreg_rank : (c.setCreg k b).rank = c.rank := by unfold Core.setCreg; split_ifs <;> rfl
@[simp] theorem Core.setCreg_lastPart : (c.setCreg k b).lastPart = c.lastPart := by unfold Core.setCreg; split_ifs <;> rfl
@[simp] theorem Core.setCreg_phaseStart : (c.setCreg k b).phaseStart = c.phaseStart := by unfold Core.setCreg; split_ifs <;> rfl
@[simp] theorem Core.setCreg_phaseDue : (c.setCreg k b).phaseDue = c.phaseDue := by unfold Core.setCreg; split_ifs <;> rfl
@[simp] theorem Core.setCreg_eng : (c.setCreg k b).eng = c.eng := by unfold Core.setCreg; split_ifs <;> rfl
@[simp] theorem Core.setCreg_toks : (c.setCreg k b).toks = c.toks := by unfold Core.setCreg; split_ifs <;> rfl
@[simp] theorem Core.setCreg_seq : (c.setCreg k b).seq = c.seq := by unfold Core.setCreg; split_ifs <;> rfl
@[simp] theorem Core.setCreg_mmasSeen : (c.setCreg k b).mmasSeen = c.mmasSeen := by unfold Core.setCreg; split_ifs <;> rfl
@[simp] theorem Core.setCreg_mmasDone : (c.setCreg k b).mmasDone = c.mmasDone := by unfold Core.setCreg; split_ifs <;> rfl
@[simp] theorem Core.setCreg_wbuf : (c.setCreg k b).wbuf = c.wbuf := by unfold Core.setCreg; split_ifs <;> rfl
@[simp] theorem Core.setCreg_smb : (c.setCreg k b).smb = c.smb := by unfold Core.setCreg; split_ifs <;> rfl
@[simp] theorem Core.setCreg_staging : (c.setCreg k b).staging = c.staging := by unfold Core.setCreg; split_ifs <;> rfl
@[simp] theorem Core.setCreg_out : (c.setCreg k b).out = c.out := by unfold Core.setCreg; split_ifs <;> rfl
@[simp] theorem Core.setCreg_monitors : (c.setCreg k b).monitors = c.monitors := by unfold Core.setCreg; split_ifs <;> rfl
@[simp] theorem Core.setCreg_wait : (c.setCreg k b).wait = c.wait := by unfold Core.setCreg; split_ifs <;> rfl
@[simp] theorem Core.setCreg_att : (c.setCreg k b).att = c.att := by unfold Core.setCreg; split_ifs <;> rfl
@[simp] theorem Core.setCreg_lines : (c.setCreg k b).lines = c.lines := by unfold Core.setCreg; split_ifs <;> rfl
@[simp] theorem Core.setCreg_badLines : (c.setCreg k b).badLines = c.badLines := by unfold Core.setCreg; split_ifs <;> rfl
@[simp] theorem Core.setCreg_refills : (c.setCreg k b).refills = c.refills := by unfold Core.setCreg; split_ifs <;> rfl
@[simp] theorem Core.setCreg_ftz : (c.setCreg k b).ftz = c.ftz := by unfold Core.setCreg; split_ifs <;> rfl
@[simp] theorem Core.setCreg_nten : (c.setCreg k b).nten = c.nten := by unfold Core.setCreg; split_ifs <;> rfl
@[simp] theorem Core.setCreg_fpstat : (c.setCreg k b).fpstat = c.fpstat := by unfold Core.setCreg; split_ifs <;> rfl
@[simp] theorem Core.setCreg_seed : (c.setCreg k b).seed = c.seed := by unfold Core.setCreg; split_ifs <;> rfl
@[simp] theorem Core.setCreg_genS : (c.setCreg k b).genS = c.genS := by unfold Core.setCreg; split_ifs <;> rfl
@[simp] theorem Core.setCreg_genV : (c.setCreg k b).genV = c.genV := by unfold Core.setCreg; split_ifs <;> rfl
@[simp] theorem Core.setCreg_genM : (c.setCreg k b).genM = c.genM := by unfold Core.setCreg; split_ifs <;> rfl
@[simp] theorem Core.setCreg_cmpdSeg : (c.setCreg k b).cmpdSeg = c.cmpdSeg := by unfold Core.setCreg; split_ifs <;> rfl
@[simp] theorem Core.setCreg_cmpdOfs : (c.setCreg k b).cmpdOfs = c.cmpdOfs := by unfold Core.setCreg; split_ifs <;> rfl
@[simp] theorem Core.setCreg_cmpdN : (c.setCreg k b).cmpdN = c.cmpdN := by unfold Core.setCreg; split_ifs <;> rfl
@[simp] theorem Core.setCreg_cmpdValid : (c.setCreg k b).cmpdValid = c.cmpdValid := by unfold Core.setCreg; split_ifs <;> rfl
@[simp] theorem Core.setCreg_cmpdErr : (c.setCreg k b).cmpdErr = c.cmpdErr := by unfold Core.setCreg; split_ifs <;> rfl
@[simp] theorem Core.setCreg_joinTimeout : (c.setCreg k b).joinTimeout = c.joinTimeout := by unfold Core.setCreg; split_ifs <;> rfl
@[simp] theorem Core.setCreg_xqStride : (c.setCreg k b).xqStride = c.xqStride := by unfold Core.setCreg; split_ifs <;> rfl
@[simp] theorem Core.setCreg_xqWidth : (c.setCreg k b).xqWidth = c.xqWidth := by unfold Core.setCreg; split_ifs <;> rfl
@[simp] theorem Core.setCreg_hndCtl : (c.setCreg k b).hndCtl = c.hndCtl := by unfold Core.setCreg; split_ifs <;> rfl
@[simp] theorem Core.setCreg_hndBase : (c.setCreg k b).hndBase = c.hndBase := by unfold Core.setCreg; split_ifs <;> rfl
@[simp] theorem Core.setCreg_inh : (c.setCreg k b).inh = c.inh := by unfold Core.setCreg; split_ifs <;> rfl
@[simp] theorem Core.setCreg_skip : (c.setCreg k b).skip = c.skip := by unfold Core.setCreg; split_ifs <;> rfl
@[simp] theorem Core.setCreg_hndStart : (c.setCreg k b).hndStart = c.hndStart := by unfold Core.setCreg; split_ifs <;> rfl
@[simp] theorem Core.setCreg_faultRep : (c.setCreg k b).faultRep = c.faultRep := by unfold Core.setCreg; split_ifs <;> rfl
@[simp] theorem Core.setCreg_wp : (c.setCreg k b).wp = c.wp := by unfold Core.setCreg; split_ifs <;> rfl
@[simp] theorem Core.setCreg_wpHit : (c.setCreg k b).wpHit = c.wpHit := by unfold Core.setCreg; split_ifs <;> rfl
@[simp] theorem Core.setCreg_traceCtl : (c.setCreg k b).traceCtl = c.traceCtl := by unfold Core.setCreg; split_ifs <;> rfl
@[simp] theorem Core.setCreg_pend : (c.setCreg k b).pend = c.pend := by unfold Core.setCreg; split_ifs <;> rfl
@[simp] theorem Core.setCreg_stopped : (c.setCreg k b).stopped = c.stopped := by unfold Core.setCreg; split_ifs <;> rfl
@[simp] theorem Core.setCreg_halted : (c.setCreg k b).halted = c.halted := by unfold Core.setCreg; split_ifs <;> rfl
@[simp] theorem Core.setCreg_haltRep : (c.setCreg k b).haltRep = c.haltRep := by unfold Core.setCreg; split_ifs <;> rfl
@[simp] theorem Core.setCreg_haltStart : (c.setCreg k b).haltStart = c.haltStart := by unfold Core.setCreg; split_ifs <;> rfl
@[simp] theorem Core.setCreg_drainSince : (c.setCreg k b).drainSince = c.drainSince := by unfold Core.setCreg; split_ifs <;> rfl
@[simp] theorem Core.setCreg_late : (c.setCreg k b).late = c.late := by unfold Core.setCreg; split_ifs <;> rfl
@[simp] theorem Core.setCreg_stage : (c.setCreg k b).stage = c.stage := by unfold Core.setCreg; split_ifs <;> rfl
@[simp] theorem Core.setCreg_issueCycle : (c.setCreg k b).issueCycle = c.issueCycle := by unfold Core.setCreg; split_ifs <;> rfl
@[simp] theorem Core.setCreg_issueSeq : (c.setCreg k b).issueSeq = c.issueSeq := by unfold Core.setCreg; split_ifs <;> rfl
@[simp] theorem Core.setCreg_pc : (c.setCreg k b).pc = c.pc := by unfold Core.setCreg; split_ifs <;> rfl
@[simp] theorem Core.setCreg_noWatch : (c.setCreg k b).noWatch = c.noWatch := by unfold Core.setCreg; split_ifs <;> rfl
@[simp] theorem Core.setCreg_qpos : (c.setCreg k b).qpos = c.qpos := by unfold Core.setCreg; split_ifs <;> rfl

end

end Sys2Proof.Machine
end

