-- ==== Sys2Proof/Laws/Transfer.lean ====
section
/-!
SUPPORT. What a pausing word, a comparison at LEND or LBRK, and a LEND can do (04_scalar_control.md R109, R114, R117).
-/

namespace Sys2Proof.Machine

/-- A pausing word of a core that is not attached goes to its target, or on to the next word. -/
theorem State.transfer_free {s : State} {target : Option Word} {trip : BitVec 32} {eff : Core → Core} {copy : LoopState → LoopState}
    (ht : target.any (!codeOk ·) = false) (ha : s.myCore.att = false) :
    s.transfer target trip eff copy = .next (s.updMe fun c => (eff c).goto (target.getD (s.myCore.pc + 8))) := by
  simp [State.transfer, ht, ha]

/-- Every answer of a pausing word: a trap out of the code window, a wait, or its effect, the core perhaps resolving the Quadrille's
pause or detaching. -/
theorem State.transfer_cases (s : State) (target : Option Word) (trip : BitVec 32) (eff : Core → Core) (copy : LoopState → LoopState) :
    let next := target.getD (s.myCore.pc + 8)
    let go (u : State) : Out := .next (u.updMe fun c => (eff c).goto next)
    let out := s.transfer target trip eff copy
    (target.any (!codeOk ·) = true ∧ out = s.trap { cause := cPCRANGE, addr := next.toNat }) ∨ out = .next s ∨ out = go s ∨
    out = go (s.detach s.me) ∨
    out = go (s.updCluster (clusOf s.me) fun x => { x with quad := x.quad.resolve s.myCore.qpos next trip copy }) := by
  simp only [State.transfer]
  split
  · exact .inl ⟨‹_›, rfl⟩
  · split
    · exact .inr (.inr (.inl rfl))
    · split
      · exact .inr (.inl rfl)
      · split
        · split
          · exact .inr (.inr (.inr (.inr rfl)))
          · exact .inr (.inl rfl)
        · split
          · exact .inr (.inr (.inl rfl))
          · exact .inr (.inr (.inr (.inl rfl)))

/-- A core that is not attached, or goes where the Quadrille's copy goes, stays as it is. -/
theorem State.compare_agrees {s : State} {next : Word}
    (h : s.myCore.att = false ∨ ∃ e, s.entryOf s.me = some e ∧ e.ref = some next) : s.compare next = s := by
  rcases h with h | ⟨e, he, hr⟩
  · simp [State.compare, h]
  · cases ha : s.myCore.att <;> simp [State.compare, ha, he, hr]

/-- An attached core whose window entry holds another address detaches. -/
theorem State.compare_departs {s : State} {next : Word} {e : WinEntry} (ha : s.myCore.att = true) (he : s.entryOf s.me = some e)
    (hr : e.ref ≠ some next) : s.compare next = s.detach s.me := by
  simp [State.compare, ha, he, hr]

/-- A LEND that goes on counts one iteration of its level and leaves the others. -/
theorem LoopState.lend_more {l : LoopState} {v : Nat} (h : lendMore (l.get v) l.sp l.nst = true) :
    (l.lend v).2 = true ∧ (l.lend v).1.nst = (l.set v { l.get v with k := (l.get v).k + 1 }).nst := by
  simp [LoopState.lend, h]

end Sys2Proof.Machine
end

