-- ==== Sys2Proof/Laws/Words.lean ====
section
/-!
SUPPORT. Registers read after they are written, and what the frames of a scalar word and of an engine word can do.
-/

namespace Sys2Proof.Machine

/-! ## Scalar and condition registers -/

@[simp] theorem Core.reg_zero (c : Core) : c.reg 0 = 0 := by simp [Core.reg]

/-- An element of a register file after one was replaced. -/
theorem getD_setIfInBounds {α : Type} {n : Nat} (x : Vector α n) (i j : Nat) (v d : α) :
    (x.setIfInBounds i v).toArray.getD j d = if i = j ∧ j < n then v else x.toArray.getD j d := by
  simp only [Vector.toArray_setIfInBounds, Array.getD_eq_getD_getElem?, Array.getElem?_setIfInBounds, Vector.size_toArray]
  split_ifs <;> simp_all

theorem Core.reg_setReg_same (c : Core) (d : BitVec 6) (v : Word) (h : d ≠ 0) : (c.setReg d v).reg d = v := by
  have hd : d.toNat < 64 := d.isLt
  unfold Core.setReg Core.putBank Core.reg
  rw [if_neg h, if_neg h]
  by_cases hs : (c.inh && decide (56 ≤ d.toNat)) = true
  · simp only [if_pos hs, getD_setIfInBounds]
    simp [show d.toNat - 56 < 8 by omega]
  · simp only [if_neg hs, getD_setIfInBounds]
    simp [hd]

theorem Core.reg_setReg_ne (c : Core) {d r : BitVec 6} (v : Word) (h : r ≠ d) : (c.setReg d v).reg r = c.reg r := by
  have hn : d.toNat ≠ r.toNat := fun e => h (BitVec.eq_of_toNat_eq e.symm)
  unfold Core.setReg Core.putBank Core.reg
  by_cases h0 : r = 0
  · rw [if_pos h0, if_pos h0]
  by_cases hd : d = 0
  · rw [if_pos hd]
  rw [if_neg h0, if_neg h0, if_neg hd]
  by_cases hs : (c.inh && decide (56 ≤ d.toNat)) = true
  · rw [if_pos hs]
    simp only [Bool.and_eq_true, decide_eq_true_eq] at hs
    simp only [getD_setIfInBounds]
    split_ifs with h1 h2
    · simp only [Bool.and_eq_true, decide_eq_true_eq] at h1; omega
    · rfl
    · rfl
  · rw [if_neg hs]
    simp only [getD_setIfInBounds]
    split_ifs with h1 h2
    · rfl
    · omega
    · rfl

theorem Core.setReg_zero (c : Core) (v : Word) : c.setReg 0 v = c := by simp [Core.setReg, Core.putBank]

@[simp] theorem Core.creg_zero (c : Core) : c.creg 0 = true := by simp [Core.creg]

theorem Core.setCreg_zero (c : Core) (b : Bool) : c.setCreg 0 b = c := by simp [Core.setCreg]

theorem Core.creg_setCreg_same (c : Core) (k : BitVec 3) (b : Bool) (h : k ≠ 0) : (c.setCreg k b).creg k = b := by
  have h8 : k.toNat < 8 := k.isLt
  unfold Core.setCreg Core.creg
  rw [if_neg h, decide_eq_false h, Bool.false_or]
  cases b <;> simp [h8]

theorem Core.creg_setCreg_ne (c : Core) {j k : BitVec 3} (b : Bool) (h : j ≠ k) : (c.setCreg k b).creg j = c.creg j := by
  have hn : j.toNat ≠ k.toNat := fun e => h (BitVec.eq_of_toNat_eq e)
  have h8 : j.toNat < 8 := j.isLt
  unfold Core.setCreg Core.creg
  by_cases h0 : k = 0
  · rw [if_pos h0]
  rw [if_neg h0]
  cases b <;> by_cases hl : j.toNat < k.toNat <;> simp [hl, h8] <;>
    simp [show ¬ j.toNat - k.toNat = 0 by omega]

/-! ## The frame of a scalar word -/

theorem scalarWord_off {q : Qual} {rs : List (BitVec 6)} {cs : List (BitVec 3)} {s : State} {f : State → Out}
    (h : s.myCore.isOn q = false) : scalarWord q rs cs s f = .next (s.advance s.me) := by
  simp [scalarWord, h, State.done]

theorem scalarWord_pending {q : Qual} {rs : List (BitVec 6)} {cs : List (BitVec 3)} {s : State} {f : State → Out}
    (h : s.myCore.isOn q = true) (hr : s.myCore.ready rs cs = false) : scalarWord q rs cs s f = .next s := by
  simp [scalarWord, h, hr]

theorem scalarWord_on {q : Qual} {rs : List (BitVec 6)} {cs : List (BitVec 3)} {s : State} {f : State → Out}
    (h : s.myCore.isOn q = true) (hr : s.myCore.ready rs cs = true) : scalarWord q rs cs s f = f s := by
  simp [scalarWord, h, hr]

/-- Everything a scalar word can do: pass, wait, or act. -/
theorem scalarWord_cases (q : Qual) (rs : List (BitVec 6)) (cs : List (BitVec 3)) (s : State) (f : State → Out) :
    (s.myCore.isOn q = false ∧ scalarWord q rs cs s f = .next (s.advance s.me)) ∨
    (s.myCore.isOn q = true ∧ s.myCore.ready rs cs = false ∧ scalarWord q rs cs s f = .next s) ∨
    (s.myCore.isOn q = true ∧ s.myCore.ready rs cs = true ∧ scalarWord q rs cs s f = f s) := by
  cases h : s.myCore.isOn q
  · exact .inl ⟨rfl, scalarWord_off h⟩
  · cases hr : s.myCore.ready rs cs
    · exact .inr (.inl ⟨rfl, rfl, scalarWord_pending h hr⟩)
    · exact .inr (.inr ⟨rfl, rfl, scalarWord_on h hr⟩)

/-- A word that only writes a scalar register. -/
theorem scalarTo_on {q : Qual} {d : BitVec 6} {rs : List (BitVec 6)} {cs : List (BitVec 3)} {f : Core → Word} {s : State}
    (h : s.myCore.isOn q = true) (hr : s.myCore.ready (d :: rs) cs = true) :
    scalarTo q d rs cs f s = .next (s.updMe fun c => (c.setReg d (f c)).advance) := by
  simp [scalarTo, scalarWord_on h hr]

/-! ## The frame of an engine word -/

/-- A word whose entry is on, not held, with its tokens there and nothing else to wait for: its body decides. -/
theorem engineWordIf_go {e : Eng} {p : Engw} {wait : State → Bool} {body : EngBody} {s : State} {h : QEntry} {t : List QEntry}
    (hq : (s.myCore.getEng e).queue = h :: t) (hh : s.myCore.holds h = false) (ho : h.on = true)
    (ht : s.myCore.tokensReady p = true) (hw : wait s = false) :
    engineWordIf e p wait body s =
      match body h s with
      | .error t => .next ((s.raise s.me (some h) { t with eng := some e }).updCore s.me (·.unmarkHead e))
      | .ok r => .next (r.st.updCore s.me fun c => (c.issued e p h r).noteIssue h s.cycle) := by
  simp only [engineWordIf, hq, hh, ho, ht, hw]
  rfl

/-- An engine turn never stops the machine. -/
theorem engineWordIf_next (e : Eng) (p : Engw) (wait : State → Bool) (body : EngBody) (s : State) :
    ∃ t, engineWordIf e p wait body s = .next t := by
  simp only [engineWordIf]
  split
  · exact ⟨_, rfl⟩
  · split_ifs <;> first | exact ⟨_, rfl⟩ | (split <;> exact ⟨_, rfl⟩)

end Sys2Proof.Machine
end

