-- ==== Sys2Proof/Tests/Slice0.lean ====
section
/-!
SUPPORT. Own tests: an ill-formed term that each check of WellFormed refuses; words written out from the encoding tables and the
worked examples of the spec, with what they decode to or leave; and for every obligation a state and operands that meet the
hypotheses of its clauses.
-/

namespace Sys2Proof.Tests

open Sys2Proof Sys2Proof.Machine Sys2Proof.Spec

set_option Elab.async false

/-- An engine word that is always on and has no tokens. -/
def plain : Engw := ⟨.always, none, none⟩

/-! ## Every check of WellFormed refuses an ill-formed term (R32, R50, R52) -/

theorem test_wf_shift_amounts : (Instr.shli .always 1 2 64).wf = false ∧ (Instr.lea .always 1 2 3 5).wf = false ∧
    (Instr.bfx .always 1 2 60 5).wf = false := by decide
theorem test_wf_scalar_types : (Instr.fadd .always .i32 .rne 1 2 3).wf = false ∧ (Instr.fadd .always .f32 .rsto 1 2 3).wf = false ∧
    (Instr.ffma .always .f8a .rne 1 2 3 4).wf = false ∧ (Instr.fsqrt .always .n32 .rne 1 2).wf = false ∧
    (Instr.fmin .always .i8 1 2 3).wf = false ∧ (Instr.fclass .always .i8 1 2).wf = false ∧
    (Instr.fcmp .always .f32 .ltn 1 2 3).wf = false ∧ (Instr.fcvt .always .f32 .f32 .rne 1 2).wf = false ∧
    (Instr.fcvt .always .f32 .bf16 .rsto 1 2).wf = false := by decide
theorem test_wf_loops : (Instr.loop 6 1 4).wf = false ∧ (Instr.loop 1 1 0).wf = false ∧ (Instr.ploop 1 1 2 (-1)).wf = false ∧
    (Instr.lend 1 1).wf = false ∧ (Instr.lbrk 7 1).wf = false := by decide
theorem test_wf_orderings : (Instr.ldd .always 1 2 .near .rel 0).wf = false ∧ (Instr.std .always 1 2 .near .acq 0).wf = false ∧
    (Instr.fence .always .dev .rlx).wf = false ∧ (Instr.waita .always .dev .rel 1 2 3 4).wf = false := by decide
theorem test_wf_vector_types : (Instr.vadd plain .i64 1 2 3 0).wf = false ∧ (Instr.vshl plain .f32 1 2 3 0).wf = false ∧
    (Instr.vbfx plain .n8 1 2 7 1 0).wf = false ∧ (Instr.vcmp plain .f32 .gen 1 2 3 0).wf = false ∧
    (Instr.vli plain .i8 1 256 0).wf = false ∧ (Instr.vext plain .f32 1 2 3 64).wf = false ∧
    (Instr.vcvt plain .f32 .bf16 1 2 2 .rne 0).wf = false ∧ (Instr.vqnt plain .i8 false 1 2 0 .rne 0).wf = false ∧
    (Instr.vdqnt plain .f32 false 1 2 0 0).wf = false ∧ (Instr.vpack6 plain .f8a 1 2 0 0).wf = false ∧
    (Instr.vunpk6 plain .bf16 .f6a 1 2 0 .rne 0).wf = false := by decide
theorem test_wf_vector_operands : (Instr.vhad plain .f32 1 2 8 0).wf = false ∧ (Instr.vrotr plain .f32 1 2 64 0).wf = false ∧
    (Instr.vrotc plain .f32 1 2 16 0).wf = false ∧ (Instr.vredr plain .xor .f32 1 2 0).wf = false ∧
    (Instr.vhist plain .i8 1 2 0 0).wf = false ∧ (Instr.vrkey plain .n64 1 2 0).wf = false ∧
    (Instr.vselk plain 1 1 2 3 0).wf = false ∧ (Instr.vcomp plain .f32 1 1 0).wf = false ∧ (Instr.vlut plain .i8 1 2 3 0).wf = false ∧
    (Instr.vld plain .mx4 1 (.base 2 none) 0).wf = false ∧ (Instr.vgth plain .i8 1 (.base 2 none) 3 0).wf = false ∧
    (Instr.vexp plain .i32 1 2 0).wf = false := by decide
theorem test_wf_streams_and_matrix : (Instr.qadv .always 1 0).wf = false ∧ (Instr.mma plain .f32 false 0 1 .wb 1).wf = false ∧
    (Instr.mma plain .i8 true 0 1 .wb 1).wf = false ∧ (Instr.mmas plain .i8 false 0 1 .wb 0 0 0).wf = false ∧
    (Instr.mrd plain .f32 .rsto 0 1).wf = false ∧ (Instr.ptrn plain .f32 1 2 3 0).wf = false ∧
    (Instr.pshf plain .mx4 1 2 3 0).wf = false ∧ (Instr.prot plain .f32 1 2 64 0).wf = false ∧
    (Instr.pzip plain true .i64 1 2 3 0).wf = false := by decide
theorem test_wf_sync : (Instr.red .always 1 2 3 false true .add .f32 0).wf = false ∧ (Instr.red .always 1 2 3 false false .add .f16 0).wf = false ∧
    (Instr.fwait .always true 1 2 3 4 41).wf = false ∧ (Instr.rclm .always 1 2 3 41).wf = false ∧ (Instr.binit .always 1 0).wf = false ∧
    (Instr.tqry .always 1 2 0 4).wf = false ∧ (Instr.xqcomb .always .f16 1 2 3 4 0).wf = false := by decide
theorem test_wf_registers : (Instr.csrr 1 0x003).wf = false ∧ (Instr.csrw 1 0x003).wf = false ∧ (Instr.csrw 1 0x010).wf = false ∧
    (Instr.cmpdTableWrite 1 0x050).wf = false ∧ (Instr.syscBadcall 0x000C).wf = false ∧ (Instr.tqry .always 1 2 3 0).wf = false ∧
    (Instr.pavaneSig 0).wfPavane = false := by decide
theorem test_wf_tokens : (Instr.vadd ⟨.always, some .SL, none⟩ .f32 1 2 3 0).wf = false ∧
    (Instr.vadd ⟨.always, none, some .LA⟩ .f32 1 2 3 0).wf = false ∧ (Instr.vadd ⟨.always, some .LA, some .AS⟩ .f32 1 2 3 0).wf = true := by
  decide
theorem test_wf_events_are_no_words : Instr.taskComplete.wf = false ∧ (Instr.pavaneLit 1).wf = false ∧ (Instr.exit).wf = true := by decide

/-! ## Words written out from the encoding tables (R41 to R56, R315) -/

theorem test_decode_store_far : decodeWord 0x4200024A23000000 = .ok (.std .always 9 10 .clus .rlx 0) := by decide +kernel
theorem test_decode_vli : decodeWord 0x55000080FE001000 = .ok (.vli plain .f32 1 0x3F80 0) := by decide +kernel
theorem test_decode_vins : decodeWord 0x5500009000003005 = .ok (.vins plain .f32 1 4 0 5 0) := by decide +kernel
theorem test_decode_vcmp : decodeWord 0x5300008440004000 = .ok (.vcmp plain .f32 .gt 1 1 2 0) := by decide +kernel
theorem test_decode_mmas : decodeWord 0x85000121400F0020 = .ok (.mmas plain .mx4 false 0 1 (.stream 2) 32 3 3) := by decide +kernel
theorem test_decode_waita : decodeWord 0xA2000105180700CC = .ok (.waita .always .sys .acq 4 5 6 7) := by decide +kernel
theorem test_decode_rpub : decodeWord 0xA500028000030100 = .ok (.rpub .always 10 0 3) := by decide +kernel
theorem test_decode_kvlook : decodeWord 0xBB0001C824000000 = .ok (.kvlookPos .always 7 8 9) := by decide +kernel
theorem test_decode_astart : decodeWord 0xBD00010500090000 = .ok (.astart .always 4 5 9) := by decide +kernel
theorem test_decode_csrr : decodeWord 0xC000014000000000 = .ok (.csrr 5 0) := by decide +kernel
theorem test_decode_hret_trmark : decodeWord 0xC300000000000000 = .ok .hret ∧ decodeWord 0xC400000700000042 = .ok (.trmark 7 0x42) := by
  decide +kernel
theorem test_decode_illegal : decodeWord 0x010000C308000001 = .error 3 ∧ decodeWord 0x310005C0FFFFFFFB = .error 4 ∧
    decodeWord 0x010100C308000000 = .error 5 := by decide +kernel
theorem test_decode_pavane : ([0x1008, 0x2800, 0x1800, 0x8000, 0x8800, 0x9000, 0x9800, 0x0001, 0x3800, 0x67F7, 0x2000, 0xA000, 0x7800] :
      List (BitVec 16)).map decodePavane =
    [some (.pavaneParm 8), some .pavaneSwap, some .pavaneDup, some (.pavaneKvblk 0 0), some (.pavaneQk 0), some (.pavaneSoft 0),
      some (.pavanePv 0), some (.pavaneLit 1), some .pavaneAdd, some (.pavaneDjnz (-9)), some .pavaneDrop, some .pavaneFinal,
      some .pavaneHalt] := by decide +kernel

/-! ## Small states -/

/-- The state after reset with core 0 changed. -/
def at0 (f : Core → Core) : State := State.reset.updCore 0 f

/-- A core with scalar registers set. -/
def regs (rs : List (BitVec 6 × Word)) (c : Core) : Core := rs.foldl (fun c x => c.setReg x.1 x.2) c

/-- A core that stands at the start of the code window. -/
def inCode (c : Core) : Core := { c with pc := BitVec.ofNat 64 ownClus }

def pcA : Word := BitVec.ofNat 64 ownClus

/-- A tile task of `n` cores of cluster 0 from core 0, in partition 0, with a kernel. -/
def task (n : Nat) : Task :=
  { inst := 1, node := 0, part := 0, clus := 0, first := 0, size := n, recAddr := 0, pro := pcA, kern := pcA + 64, epi := pcA + 128,
    trip := 3, nst := 0, since := 0, preReq := false, haltReq := false, saving := false, preBytes := 0 }

/-- Core 0 runs the prologue of a task of `n` cores, changed by `f`. -/
def inTask (n : Nat) (f : Core → Core) : State :=
  { at0 fun c => f { inCode c with task := some 0, phase := .prologue } with tasks := [(0, task n)] }

/-- A core with an open loop level. -/
def looped (v : Nat) (x : LoopLv) (c : Core) : Core := { c with loops := c.loops.set v x }

def setPhase (p : Phase) (c : Core) : Core := { c with phase := p }
def setPc (p : Word) (c : Core) : Core := { c with pc := p }
def setOut (l : List OutAcc) (c : Core) : Core := { c with out := l }
def setSmb (l : List SmbEntry) (c : Core) : Core := { c with smb := l }
def setMon (m : Monitor) (c : Core) : Core := { c with monitors := c.monitors.setIfInBounds 0 (some m) }
def setWait (w : Wait) (c : Core) : Core := { c with wait := some w }
def setRefills (l : List Nat) (c : Core) : Core := { c with refills := l }
def setNten (c : Core) : Core := { c with nten := true }
def setAtt (c : Core) : Core := { c with att := true }
def setInh (c : Core) : Core := { c with inh := true }

/-- The state with an event's operands and the cycle set. -/
def event (a : Arg) (n : Nat) (s : State) : State := { s with arg := a, cycle := n }

/-- A ring of cluster 0 with 4 slots of 64 bytes at the start of the own-cluster window. -/
def ring (claimed tail taken head : BitVec 32) : Ring :=
  { Ring.reset with
    base := BitVec.ofNat 52 ownClus, slotsz := 64, count := 4, valid := true, claimed := claimed, tail := tail, taken := taken, head := head }

def withRing (r : Ring) (s : State) : State := s.updRing 0 3 fun _ => r

def bar (cur nxt mem : BitVec 16) (exp : BitVec 5) : Barrier := ⟨cur, nxt, mem, exp, exp, false, true, 0⟩

def withBar (b : Barrier) (s : State) : State := s.setBar 0 2 b

def setEng (e : Eng) (q : List QEntry) (f : List Inflight) (c : Core) : Core := c.setEng e ⟨q, f⟩

def setSince (n : Nat) (c : Core) : Core := { c with drainSince := some n }

def setStream (i : BitVec 4) (q : StreamReg) (c : Core) : Core := { c with q := c.q.setIfInBounds i.toNat q }

/-- An object entry of two dimensions, e0 by e1 elements with rows t1 bytes apart, with no loop bound. -/
def entry (ty : Ty) (base e0 e1 t1 rights : Nat) : BitVec 512 :=
  BitVec.ofNat 512 (base + ty.code.toNat * 2 ^ 64 + 2 ^ 69 + rights * 2 ^ 73 + 2 ^ 78 + e0 * 2 ^ 128 + e1 * 2 ^ 152 + t1 * 2 ^ 192 +
    7 * 2 ^ 397 + 7 * 2 ^ 413 + 7 * 2 ^ 429 + 7 * 2 ^ 445)

/-- Partition 0 with one entry of its object table. -/
def withObj (i : Nat) (e : BitVec 512) (s : State) : State :=
  s.updPart 0 fun x => { x with objs := x.objs.set i ⟨e, 0, 0, 0⟩ }

/-- The queue entry of a word without operands to capture. -/
def qe (i : Instr) : QEntry :=
  { seq := 0, word := encode i, pc := pcA, on := true, scalar := 0, sa := .reset, sb := .reset, pa := ⟨0, 0, 0, 0⟩, pb := ⟨0, 0, 0, 0⟩,
    ms := none, mc := none, noWatch := false, nth := 1 }

/-- Core 0 with vector registers of distinct lanes and one entry at the head of an engine's queue. -/
def vec (e : Eng) (i : Instr) : State :=
  at0 fun c => setEng e [qe i] []
    { c with v := ((c.v.set 1 (BitVec.ofNat 32768 0x3F8000004000000040400000)).set 2 (BitVec.ofNat 32768 0x4080000040A0000040C00000)).set 3 5 }

/-- As `qe`, with the value of the base register. -/
def qeb (i : Instr) (x : Word) : QEntry := { qe i with scalar := x }

/-- As `qe`, with two bound streams of the entries `a` and `b`. -/
def qes (i : Instr) (a b : BitVec 512) : QEntry :=
  { qe i with sa := ⟨true, 1, a, 0, 0, 0, 0⟩, sb := ⟨true, 2, b, 0, 0, 0, 0⟩ }

/-- Core 0 with one entry at the head of an engine's queue, and bytes at the start of its own cluster's scratch. -/
def eng (e : Eng) (h : QEntry) : State :=
  { at0 fun c => setEng e [h] [] { c with v := (c.v.set 1 (BitVec.ofNat 32768 0x3F8000004000000040400000)).set 2 (BitVec.ofNat 32768 0x000000400000001000000008) }
    with mem := [(clusLoc 0 + 1, 7), (clusLoc 0 + 5, 9), (clusLoc 0 + 0x1004, 3)] }

/-- Storage with 8-byte words written. -/
def words (l : List (Nat × Nat)) (s : State) : State :=
  { s with mem := l.foldl (fun m x => memWrite m x.1 (natBytes 8 x.2)) s.mem }

/-- A region record in core 0's near scratch: object, position, box, index list. -/
def region (pos obj p n idx : Nat) : List (Nat × Nat) :=
  [(nearLoc 0 + pos, obj), (nearLoc 0 + pos + 8, p), (nearLoc 0 + pos + 16, n), (nearLoc 0 + pos + 24, idx)]

def box (n0 n1 : Nat) : Nat := n0 + n1 * 2 ^ 24 + 2 ^ 48 + 2 ^ 56

def nearA : Word := BitVec.ofNat 64 ownNear

/-- Two objects of 4 by 4 f32 elements, a source record at near offset 0 and a destination record at 32. -/
def copying (sn dn : Nat) : State :=
  words (region 0 40 0 sn 0 ++ region 32 41 0 dn 0 ++ [(clusLoc 0, 0x400000003F800000), (clusLoc 0 + 0x108, 0x3F800000)])
    (withObj 40 (entry .f32 ownClus 4 4 16 31) (withObj 41 (entry .f32 (ownClus + 256) 4 4 16 31) (at0 (regs [(1, nearA), (2, nearA + 32)]))))

/-- A command of core 0 at engine 0, started. -/
def cmd0 (k : CmdKind) : Cmd :=
  { id := 7, die := false, engine := 0, core := some 0, task := none, pc := pcA, ftz := false, part := 0, inst := 1, node := none, flag := 5, kind := k,
    started := true, moved := false, applied := false, seq := 0, trapped := false, reads := [] }

def withCmd (k : CmdKind) (s : State) : State := { s with cmds := [cmd0 k], nextId := 8, arg := .unit 7 }

/-- A live instance of partition 0 with nodes. -/
def inst (ns : List Node) : Instance :=
  { part := 0, parent := none, die := 0, notify := .flag 0 3, graph := dieScr, nodes := ns, cancelled := none, delivered := false,
    restarts := 0, batch := none }

def node (r : BitVec 512) (cnt : Nat) (st : NodeState) : Node :=
  { record := r, succ := [], addr := dieScr, cnt := cnt, st := st, die := 0, readyAt := 0, promoted := false, moved := false,
    inTransit := none, blocked := none, asked := false, task := none }

/-- A tile record of one core with a kernel at the start of the code window. -/
def tileRec : BitVec 512 := BitVec.ofNat 512 (ownClus * 2 ^ 64 + 4 * 2 ^ 192)

def withInst (i : Nat) (x : Instance) (s : State) : State := { s with insts := s.insts ++ [(i, x)] }

/-! ## Worked examples of the spec, and single steps with values worked out by hand from the rules -/

/-- The next state, with reset's where there is none. -/
def next (x : Out) : State :=
  match x with
  | .next t => t
  | _ => State.reset

/-- Scalar register `r` of core 0 after one instruction. -/
def after (i : Instr) (r : BitVec 6) (c : Core → Core) : Word := (next (exec i (at0 c))).myCore.reg r

/-- The next state of a step. -/
def stepped (s : State) : State := next (step s)

-- R128: v4 takes row 0 of v1 at once and row 1 later; an unordered reader between the two sees row 1 as it was before.
theorem test_late_rows :
    let s := (vec .arith (.vmov plain 4 1 0)).updCore 0 fun c =>
      { c with v := (c.v.set 1 (setVrow (setVrow 0 0 7) 1 8)).set 4 (setVrow (setVrow 0 0 1) 1 2) }
    let t := stepped { s with agenda := [⟨1, .engineLate 0 .arith [1]⟩, ⟨1, .engine 0 .arith⟩, ⟨1, .rows 0 .arith [1]⟩] }
    let row (s : State) (i : Nat) : BitVec 2048 := vrow ((s.core 0).v.toArray.getD 4 0) i
    row t 0 = 7 ∧ row t 1 = 2 ∧ row (stepped (stepped t)) 1 = 8 ∧ (stepped (stepped t)).agenda = [] := by decide +kernel

-- R97: sums wrap; s0 discards writes.
theorem test_add_wraps : after (.add .always 3 1 2) 3 (regs [(1, -1), (2, 2)]) = 1 := by decide +kernel
theorem test_add_s0 : after (.add .always 0 1 2) 0 (regs [(1, 5), (2, 2)]) = 0 := by decide +kernel
-- R100: a division by zero gives all ones and leaves the dividend; signed division rounds toward zero.
theorem test_div_by_zero : after (.divn .always 3 1 2) 3 (regs [(1, 9)]) = -1 ∧ after (.remn .always 3 1 2) 3 (regs [(1, 9)]) = 9 := by
  decide +kernel
theorem test_div_signed : after (.div .always 3 1 2) 3 (regs [(1, -7), (2, 2)]) = -3 ∧
    after (.rem .always 3 1 2) 3 (regs [(1, -7), (2, 2)]) = -1 := by decide +kernel
-- R99: a shift takes the low six bits of its count.
theorem test_shift_count : after (.shl .always 3 1 2) 3 (regs [(1, 1), (2, 65)]) = 2 ∧
    after (.sar .always 3 1 2) 3 (regs [(1, -8), (2, 1)]) = -4 := by decide +kernel
-- R103, R75: 1.0 + 2^-24 rounds to even, and the sum is inexact.
theorem test_fadd_ties_even : after (.fadd .always .f32 .rne 3 1 2) 3 (regs [(1, 0x3F800000), (2, 0x33800000)]) = 0x3F800000 := by
  decide +kernel
theorem test_fadd_inexact : (next (exec (.fadd .always .f32 .rne 3 1 2)
    (at0 (regs [(1, 0x3F800000), (2, 0x33800000)])))).myCore.fpstat ≠ 0 := by decide +kernel
-- R110: a direct branch goes to the word's address plus eight times its offset.
theorem test_branch : (next (exec (.br (-2)) (at0 fun c => setPc (pcA + 64) c))).myCore.pc = pcA + 48 := by decide +kernel
-- R212: a misaligned load traps with SALIGN; the task's core has no handler, so its part ends and the instance is cancelled.
theorem test_misaligned : (next (exec (.ldw .always 3 1 .near .rlx 1) (withInst 1 (inst []) (inTask 1 (regs [(1, nearA)]))))).myCore.phase =
    .ended := by decide +kernel
-- R212: a signed byte load extends the sign.
theorem test_load_sign : (next (exec (.ldb .always 3 1 .near .rlx 0) (words [(nearLoc 0, 0x80)] (at0 (regs [(1, nearA)]))))).myCore.out =
    [.load 3 false (-128)] := by decide +kernel
-- R150: keys order floats, the NaN last.
theorem test_keys : ([0x3F800000, 0x40400000, 0x7F800000, 0x7FC00000] : List Nat).map (keyOf .f32) =
    [0xBF800000, 0xC0400000, 0xFF800000, 0xFFFFFFFF] := by decide +kernel
-- R76, R151: the worked example of R153: lanes 135 and 195 first, and of the tie lane 5.
theorem test_greatest : ((((List.range 1024).foldl (fun l i =>
      insertKey i (if i = 135 then 0xFFFFFFFF else if i = 195 then 0xFF800000 else if i = 5 ∨ i = 64 then 0xC0400000 else 0xBF800000) l)
      []).take 3).map (·.1)) = [135, 195, 5] := by decide +kernel
-- R328: the worked example: entry 41 of level 2, a 64 MiB page.
theorem test_translation : leafPa 0x000000800920001F 2 0x4005234560 = 0x8009234560 ∧ pteV 0x000000800920001F = true ∧
    pteLeaf 0x000000800920001F = true ∧ pteWr 0x000000800920001F = true ∧ pteCont 0x000000800920001F = true := by decide +kernel
-- R303, R307: the worked example of a sequence with S = 2, W = 4, P = 1.
theorem test_slots : let x : SeqDesc := ⟨0, 0, 2, 4, 1, 0, entry .i8 0x4000000000 64 4096 0x10000 31⟩
    x.slotOf 6 = (2, 1) ∧ x.slotOf 1 = (1, 0) ∧ slotEntry 1 0x6A = 0x800000010000006A ∧ x.blockVa 0x6B = 0x40006B0000 := by decide +kernel
theorem test_slot_stale : judgeSlot 0x8000000000000066 1 = .stale ∧ judgeSlot 0x800000010000006B 1 = .block 0x6B ∧
    judgeSlot 0 0 = .empty := by decide +kernel
-- R315: DJNZ with 1 on the stack falls through, with 2 it jumps.
theorem test_djnz : (next (exec (.pavaneDjnz 5) (State.reset.setPass 0 (some { slotPass with stack := [1] })))).passOf 0 =
    some { slotPass with stack := [], pc := 1 } := by decide +kernel
theorem test_djnz_jumps : ((next (exec (.pavaneDjnz 5) (State.reset.setPass 0 (some { slotPass with stack := [2] })))).passOf 0).map
    (fun p => (p.stack, p.pc)) = some ([1], 5) := by decide +kernel
-- R370: an unknown call answers BADCALL in s1.
theorem test_badcall : after (.syscBadcall 99) 1 (regs [(1, 7)]) = 1 := by decide +kernel
-- R351: HRET outside the handler raises HRETMODE, which no handler takes.
theorem test_hret_outside : (next (exec .hret (inTask 1 id))).myCore.phase = .ended := by decide +kernel

/-! ## A slot fetches and runs what stands in it -/

theorem test_probe_decodes : decodeTableWord 16 0x7800 = some .pavaneHalt := by decide +kernel
theorem test_probe_runs : ((next (step (State.reset.withFetchWord 16 0x1800))).passOf 0).map (·.stack) = some [0, 0, 0] := by
  decide +kernel
theorem test_slot_engine_word : ((next (step (State.reset.withFetchWord 64 0x55000080FE001000))).core 0).lane .f32 1 0 =
    0x3F800000 := by decide +kernel

/-! ## For every obligation, states and operands that meet the hypotheses of its clauses -/

/-- A value that a computation gives and that meets `p`. -/
theorem ok_and {ε α : Type} {x : Except ε α} {p : α → Prop} [DecidablePred p] (h : (x.toOption.any fun a => decide (p a)) = true) :
    ∃ a, x = .ok a ∧ p a := by
  cases x with
  | error _ => simp [Except.toOption] at h
  | ok a => exact ⟨a, rfl, by simpa [Except.toOption] using h⟩

theorem some_and {α : Type} {x : Option α} {p : α → Prop} [DecidablePred p] (h : (x.any fun a => decide (p a)) = true) :
    ∃ a, x = some a ∧ p a := by
  cases x with
  | none => simp at h
  | some a => exact ⟨a, rfl, by simpa using h⟩

/-- The carried value, when there is one. -/
def okOr {ε α : Type} (d : α) : Except ε α → α
  | .ok a => a
  | .error _ => d

/-- Core 0 with two operands, the second one odd. -/
def sAB : State := at0 fun c => regs [(1, 0x3F800000), (2, 7), (4, 70)] (inCode c)

theorem witness_IntegerResults : Fires .always [3, 1, 2] [] sAB ∧ Fires .always [3, 1, 2, 4] [] sAB ∧ Fires .always [3, 1, 2] [5] sAB := by
  decide +kernel
theorem witness_CarryAndBitCounts : Fires .always [3, 1, 2] [4] sAB ∧ Fires .always [3, 1, 2] [0] sAB ∧ Fires .always [3, 1] [] sAB ∧
    Fires .always [3, 1, 2] [4] (sAB.updMe fun c => c.setCreg 4 true) ∧
    (sAB.updMe fun c => c.setCreg 4 true).myCore.creg 4 = true ∧ (4 : BitVec 3) ≠ 0 := by
  decide +kernel
theorem witness_ImmediateAndCompareResults : Fires .always [3, 1] [] sAB ∧ Fires .always [3] [] sAB ∧ Fires .always [3, 3] [] sAB ∧
    Fires .always [3, 3, 1] [] sAB ∧ Fires .always [1, 2] [5] sAB ∧ Fires .always [1] [5] sAB ∧ 3 + 5 ≤ 64 := by decide +kernel
theorem witness_IntegerFrame : intDest (.add .always 3 1 2) = some 3 ∧
    ∃ t, exec (.add .always 3 1 2) sAB = .next t ∧ t.myCore.reg 3 = 0x3F800007 := ⟨rfl, _, rfl, by decide +kernel⟩
theorem witness_ReadAfterWrite : (3 : BitVec 6) ≠ 0 ∧ (4 : BitVec 6) ≠ 3 ∧ Memory.wf [] = true ∧
    Memory.wf [(700, 9)] = true ∧ (4 < 5 ∨ 5 + 3 ≤ 4) ∧ (701 : Nat) ≠ 700 := by decide +kernel
theorem witness_OffWordsOnlyPass : gateOf (.add (.stage 0) 1 2 3) = some (.stage 0) ∧ sAB.myCore.isOn (.stage 0) = false := by
  decide +kernel
theorem witness_FloatResults : Fires .always [3, 1, 2] [] sAB ∧ Fires .always [3, 1, 2, 4] [] sAB ∧ Fires .always [3, 1] [] sAB ∧
    Fires .always [1, 2] [5] sAB ∧
    (sAB.myCore.nten && (Ty.f16.isFloat && isNanBits .f16 (convert .f32 .f16 .rsto (drawOf (nextGen sAB.myCore.genS)) sAB.myCore.ftz
      (fcvtWidens .f16 .f32) (fpArg sAB.myCore .f32 1)).1)) = false ∧
    (sAB.myCore.nten && isNanBits .f32 (fAdd fmtF32 .rne sAB.myCore.ftz 0x3F800000 7).1) = false := by decide +kernel

/-- Core 0 with NTEN set, a NaN, and a misaligned address. -/
def sTrap : State := at0 fun c => setNten (regs [(1, 0x7FC00000), (2, 0x10000000000000), (3, 0x1001)] (inCode c))

/-- The same core at the last word of the code window, in the kernel, with level 1 open. -/
def sEdge (b : Bool) (k : Nat) : State :=
  sTrap.updMe fun c => setPhase .kernel (looped 1 ⟨true, 4, k, pcA, false, b, true⟩ (setPc (pcA + 0xFFFFF8) (c.setReg 62 0x1001)))

theorem witness_ScalarTraps : Fires .always [4, 1, 5] [] sTrap ∧ Fires .always [4, 1, 5, 6] [] sTrap ∧ Fires .always [4, 1] [] sTrap ∧
    sTrap.myCore.nten = true ∧
    isNanBits .f32 (fAdd fmtF32 .rne sTrap.myCore.ftz (fpArg sTrap.myCore .f32 1) (fpArg sTrap.myCore .f32 5)).1 = true ∧
    isNanBits .f32 (fSub fmtF32 .rne sTrap.myCore.ftz (fpArg sTrap.myCore .f32 1) (fpArg sTrap.myCore .f32 5)).1 = true ∧
    isNanBits .f32 (fFma fmtF32 .rne sTrap.myCore.ftz false (fpArg sTrap.myCore .f32 1) (fpArg sTrap.myCore .f32 5)
      (fpArg sTrap.myCore .f32 6)).1 = true ∧
    isNanBits .f32 (fSqrt fmtF32 .rne sTrap.myCore.ftz (fpArg sTrap.myCore .f32 1)).1 = true ∧
    isNanBits .bf16 (convert .f32 .bf16 .rne (drawOf sTrap.myCore.genS) sTrap.myCore.ftz (fcvtWidens .f32 .bf16)
      (fpArg sTrap.myCore .f32 1)).1 = true ∧ Ty.isFloat .bf16 = true ∧
    isNanBits .f32 (fMul fmtF32 .rne sTrap.myCore.ftz (fpArg sTrap.myCore .f32 1) (fpArg sTrap.myCore .f32 5)).1 = true ∧
    isNanBits .f32 (fDiv fmtF32 .rne sTrap.myCore.ftz (fpArg sTrap.myCore .f32 5) (fpArg sTrap.myCore .f32 5)).1 = true ∧
    codeOk (target sTrap (-1)) = false ∧ sTrap.myCore.ready [3] [] = true ∧ codeOk (sTrap.myCore.reg 3) = false ∧
    (sEdge false 0).myCore.ready [62] [] = true ∧ (sEdge false 0).myCore.ready [] [2] = true ∧ (sEdge false 0).myCore.ready [3, 62] [] = true ∧
    codeOk ((sEdge false 0).myCore.reg 62) = false ∧ codeOk (target (sEdge false 0) 1) = false ∧ codeOk (target (sEdge false 0) 0 + 8) = false ∧
    ((sEdge false 0).myCore.creg 2 != true) = true ∧ ((sEdge false 0).myCore.getEng .arith).queue = [] ∧
    ((sEdge false 0).myCore.getEng .arith).inflight = [] ∧ (sEdge false 0).myCore.m0 ≠ 0 ∧
    ((sEdge false 0).updMe fun c => { c with mstack := [0] }).myCore.m0 = 0 ∧ (sEdge false 0).myCore.inh = false ∧
    (sEdge false 0).myCore.loops.nestOk 2 = true ∧ ((sEdge false 0).myCore.reg 9).toNat % 2 ^ 32 = 0 ∧ (sEdge false 0).myCore.phase = .kernel ∧
    (sEdge false 0).myCore.loops.inner = some 1 ∧ goesOn (sEdge false 0).myCore.loops 1 = true ∧
    ((sEdge false 0).myCore.loops.get 1).active = true ∧ ((sEdge false 0).myCore.loops.get 1).pipelined = false ∧
    Fires .always [3, 2, 5] [] sTrap ∧ Fires .always [5, 3, 2] [] sTrap ∧ Fires .always [5, 2, 3, 6] [] sTrap ∧ 2 ^ 52 ≤ (sTrap.myCore.reg 2).toNat ∧ (sTrap.myCore.reg 3).toNat < 2 ^ 52 ∧
    (sTrap.myCore.reg 3).toNat % 8 ≠ 0 ∧ (sTrap.myCore.reg 3).toNat % 4 ≠ 0 ∧ (sTrap.myCore.reg 3).toNat % 2 ≠ 0 := by decide +kernel

/-- Core 0 with an address of the code window in s1 and s62. -/
def sJump : State := at0 fun c => regs [(1, pcA + 16), (62, pcA + 24)] (inCode c)

theorem witness_BranchResults : codeOk (target sJump 2) = true ∧ sJump.myCore.ready [62] [] = true ∧
    sJump.myCore.ready [] [1] = true ∧ codeOk (sJump.myCore.pc + 8) = true ∧ sJump.myCore.ready [1] [] = true ∧
    sJump.myCore.ready [1, 62] [] = true ∧ codeOk (sJump.myCore.reg 1) = true ∧ codeOk (sJump.myCore.reg 62) = true ∧
    Follows sJump (target sJump 2) 0 ∧ (sJump.myCore.getEng .arith).queue = [] ∧ (sJump.myCore.getEng .arith).inflight = [] :=
  by and_intros <;> first | exact .inl rfl | decide +kernel

/-- Core 0 at word 2 of the code with 3 in s2 and level 1 as `x`. -/
def sLoop (x : LoopLv) : State := at0 fun c => looped 1 x (regs [(2, 3)] (setPc (pcA + 16) c))

def level (k : Nat) (brk pipelined : Bool) : LoopLv := ⟨true, 4, k, pcA, brk, pipelined, true⟩

/-- Core 0 in the kernel of a task of one core, with level 0 as `x`. -/
def sKernel (x : LoopLv) : State := inTask 1 fun c => setPhase .kernel (looped 0 x (regs [(2, 3)] (setPc (pcA + 16) c)))

/-- As `sLoop` with a pipelined level, its stage window at `sp` of two stages. -/
def sPiped (k : Nat) (sp : BitVec 8) : State := (sLoop (level k false true)).updMe fun c => withLoops c { c.loops with sp := sp, nst := 1 }

/-- A sixteen-core set's attached core 0 at a word for which the Quadrille holds `ref` and `trip`. -/
def sRef (ref : Option Word) (trip : BitVec 32) : State :=
  (inTask 16 fun c => looped 1 (level 0 false false) (regs [(2, 3), (3, pcA + 64)] { setPc (pcA + 16) c with att := true, qpos := 0 })).updCluster 0
    fun x => { x with quad := { startQuad { task 16 with pro := pcA } with run := .paused, win := [⟨pcA + 16, encode (.lend 1 (-1)), false, ref, trip⟩] } }

theorem witness_LoopResults :
    (sLoop .reset).myCore.ready [2] [] = true ∧ (sLoop .reset).myCore.inh = false ∧ (sLoop .reset).myCore.loops.nestOk 0 = true ∧
    ((sLoop .reset).myCore.reg 2).extractLsb' 0 32 ≠ 0 ∧ ((sLoop .reset).myCore.reg 3).extractLsb' 0 32 = 0 ∧
    codeOk (target (sLoop .reset) 2 + 8) = true ∧ (sLoop .reset).myCore.att = false ∧
    (let s := sKernel (level 0 false false)
     s.myCore.phase = .kernel ∧ s.myCore.loops.nestOk 1 = true ∧ s.myCore.ready [2] [] = true ∧ s.myCore.ready [3] [] = true ∧
       (s.myCore.reg 2).extractLsb' 0 32 ≠ 0 ∧ (s.myCore.reg 3).extractLsb' 0 32 = 0 ∧ codeOk (target s 2 + 8) = true ∧
       s.myCore.inh = false ∧ s.myCore.loops.inner = some 0 ∧ s.taskOf s.me = some (task 1) ∧ s.cancelledAt s.me = false ∧
       goesOn s.myCore.loops 0 = true ∧ codeOk (target s (-1)) = true ∧ s.atStop s.me = false ∧ (task 1).epi ≠ 0 ∧
       (s.myCore.loops.get 0).active = true) ∧
    (let s := sKernel (level 3 false false)
     goesOn s.myCore.loops 0 = false ∧ ({ s with tasks := [(0, { task 1 with epi := 0 })] } : State).taskOf 0 = some { task 1 with epi := 0 }) ∧
    (sLoop (level 0 false false)).myCore.loops.inner = some 1 ∧ (sLoop (level 0 false false)).myCore.phase ≠ .kernel ∧
    codeOk (target (sLoop (level 0 false false)) (-1)) = true ∧ goesOn (sLoop (level 0 false false)).myCore.loops 1 = true ∧
    goesOn (sLoop (level 3 false false)).myCore.loops 1 = false ∧ goesOn (sPiped 3 1).myCore.loops 1 = true ∧
    nextLoops (sPiped 3 1).myCore.loops 1 = (sPiped 4 2).myCore.loops ∧ goesOn (sPiped 4 2).myCore.loops 1 = false ∧
    ((sPiped 4 2).myCore.loops.get 1).opened = true ∧
    ((sLoop (level 0 false true)).myCore.loops.get 1).pipelined = true ∧ ((sLoop (level 0 false true)).myCore.loops.get 1).active = true := by
  decide +kernel
/-- A detached core of a sixteen-core set whose Quadrille runs with this window and history. -/
def sDetached (w : List WinEntry) (h : List (Word × BitVec 32)) : State :=
  (inTask 16 id).updCluster 0 fun x => { x with quad := { startQuad (task 16) with win := w, hist := h } }

/-- Core 0 in its task, whose record has the trip count `n`, the epilogue `e` and the halt request `b`, changed by `f`. -/
def sExit (n : BitVec 32) (e : Word) (b : Bool) (f : Core → Core) : State :=
  { inTask 1 f with tasks := [(0, { task 1 with trip := n, epi := e, haltReq := b })] }

theorem witness_PhaseWords_exit :
    (∀ s ∈ [sExit 0 (pcA + 128) true id, sExit 0 (pcA + 128) true (setEng .load [] [⟨0, none, none, none⟩]), sExit 0 (pcA + 128) false id,
        sExit 0 0 false id, sExit 3 0 false (setPhase .epilogue), withInst 1 { inst [] with cancelled := some 130, delivered := true } (inTask 1 id)],
      s.myCore.inh = false ∧ s.myCore.phase ≠ .kernel ∧ s.myCore.loops.inner = none ∧ (s.taskOf s.me).isSome = true) ∧
    (sExit 0 (pcA + 128) true id).haltAtExit 0 = true ∧ (sExit 0 (pcA + 128) true id).myCore.drained = true ∧
    (sExit 0 (pcA + 128) true (setEng .load [] [⟨0, none, none, none⟩])).haltAtExit 0 = true ∧
    (sExit 0 (pcA + 128) true (setEng .load [] [⟨0, none, none, none⟩])).myCore.drained = false ∧
    (sExit 0 (pcA + 128) false id).haltAtExit 0 = false ∧ (sExit 0 (pcA + 128) false id).cancelledAt 0 = false ∧
    (sExit 0 (pcA + 128) false id).myCore.phase = .prologue ∧ (sExit 0 0 false id).haltAtExit 0 = false ∧
    (sExit 3 0 false (setPhase .epilogue)).haltAtExit 0 = false ∧
    (withInst 1 { inst [] with cancelled := some 130, delivered := true } (inTask 1 id)).haltAtExit 0 = false ∧
    (withInst 1 { inst [] with cancelled := some 130, delivered := true } (inTask 1 id)).cancelledAt 0 = true ∧
    (sExit 0 0 false id).myCore.smb = [] ∧ (sExit 0 0 false id).myCore.out = [] ∧
    (inTask 1 setInh).myCore.inh = true ∧ (inTask 1 (setPhase .kernel)).myCore.phase = .kernel ∧
    (inTask 1 (looped 1 ⟨true, 4, 0, pcA, false, false, true⟩)).myCore.loops.inner ≠ none := by decide +kernel

theorem witness_PhaseWords : State.reset.myCore.ready [3] [] = true ∧ State.reset.myCore.ready [] [1] = true ∧
    State.reset.inSixteen 0 = false ∧ (inTask 1 id).myCore.phase = .prologue ∧ (inTask 1 id).myCore.loops.inner = none ∧
    (inTask 1 id).haltAtExit 0 = false ∧ (inTask 1 id).cancelledAt 0 = false ∧ (inTask 1 id).taskOf 0 = some (task 1) ∧
    (task 1).trip ≠ 0 ∧ (inTask 16 setAtt).inSixteen 0 = true ∧ (inTask 16 setAtt).myCore.att = true ∧
    (inTask 16 id).myCore.att = false ∧ (inTask 16 id).myCore.ready [] [1] = true ∧ ((inTask 16 id).cluster 0).quad.run = .idle ∧
    (sDetached [⟨pcA, joinWord 9, false, none, 0⟩] []).myCore.inh = false ∧ (sDetached [] []).inSixteen 0 = true ∧
    ((sDetached [] []).cluster 0).quad.run ≠ .idle ∧
    (((sDetached [⟨pcA, joinWord 9, false, none, 0⟩] []).cluster 0).quad.win.findIdx? fun e => e.pc = pcA && e.word = joinWord 9) = some 0 ∧
    (((sDetached [] []).cluster 0).quad.win.findIdx? fun e => e.pc = pcA && e.word = joinWord 9) = none ∧
    ((sDetached [] []).myCore.pc, (9 : BitVec 32)) ∉ ((sDetached [] []).cluster 0).quad.hist ∧
    ((sDetached [] [(pcA, 9)]).myCore.pc, (9 : BitVec 32)) ∈ ((sDetached [] [(pcA, 9)]).cluster 0).quad.hist ∧
    (sDetached [] []).cycle < (sDetached [] []).cycle + (sDetached [] []).myCore.joinTimeout.toNat := by decide +kernel

/-- Core 0 with addresses of its near scratch, its cluster's scratch and die scratch. -/
def sMem : State := at0 (regs [(1, nearA), (2, 0x123456789ABCDEF), (5, pcA), (6, BitVec.ofNat 64 dieScr), (7, 100)])

theorem witness_LoadsAndStores : Fires .always [2, 1] [] sMem ∧ Reaches sMem .rd (nearA + 8) 8 (nearLoc 0 + 8) ∧
    Reaches sMem .rd (pcA + 4) 4 (clusLoc 0 + 4) ∧ Reaches sMem .wr (nearA + 8) 8 (nearLoc 0 + 8) ∧
    Reaches sMem .wr (pcA + 4) 4 (clusLoc 0 + 4) ∧ Quiet sMem.myCore ∧ sMem.myCore.staging = [] ∧
    (nearLoc 0 + 8) / 64 = (nearLoc 0 + 8 + 8 - 1) / 64 ∧ inNear 0 (nearLoc 0 + 8) = true ∧ inNear 0 (clusLoc 0 + 4) = false ∧
    smbRoom sMem.myCore.smb (gransOf (clusLoc 0 + 4) 4) = true ∧ strong .rel .dev = true ∧ strong .rlx .near = false := by
  decide +kernel
theorem witness_AtomicResults : Fires .always [3, 1, 2] [] sMem ∧ Fires .always [3, 1, 2, 4] [] sMem ∧
    Reaches sMem .both nearA 8 (nearLoc 0) ∧ Reaches sMem .both pcA 4 (clusLoc 0) ∧ isHostLoc (clusLoc 0) = false ∧
    isHostLoc (nearLoc 0) = false ∧ sMem.myCore.smb = [] ∧ sMem.myCore.settled = true := by decide +kernel
theorem witness_FenceAndWaita : Fires .always [] [] sMem ∧ sMem.myCore.settled = true ∧ sMem.myCore.loadsDone = true ∧
    sMem.myCore.smb = [] ∧ Fires .always [3, 5, 2, 7] [] sMem ∧ Reaches sMem .both pcA 8 (clusLoc 0) ∧
    sMem.myCore.monitors.toArray.getD 0 none = none ∧ sMem.interrupted 0 = false ∧ sMem.myCore.reg 7 ≠ 0 ∧
    sMem.myCore.reg 0 = 0 ∧ Fires .always [3, 5, 2, 0] [] sMem ∧ Fires .always [3, 5, 3, 0] [] sMem ∧ Fires .always [3, 5, 3, 7] [] sMem ∧
    bytesWord (sMem.homeBytes (clusLoc 0) 8) ≠ sMem.myCore.reg 2 ∧ bytesWord (sMem.homeBytes (clusLoc 0) 8) = sMem.myCore.reg 3 := by
  decide +kernel

def monitor (expect : Word) : Monitor := ⟨clusLoc 0, expect, 2, false, true, .dev, some 9, true⟩

theorem witness_CompletionEvents :
    ((at0 (setOut [.load 2 false 7])).core 0).out = [.load 2 false 7] ∧ ((at0 (setOut [.atomic 2 false 7])).core 0).out = [.atomic 2 false 7] ∧
    ((at0 (setOut [.store (clusLoc 0) [1, 2] ownClus])).core 0).out = [.store (clusLoc 0) [1, 2] ownClus] ∧
    ((at0 (setSmb [⟨5, 9, 1, false, 0⟩])).core 0).smb = [⟨5, 9, 1, false, 0⟩] ∧ (at0 id).mem.wf = true ∧
    outTouches ((at0 (setSmb [⟨5, 9, 1, false, 0⟩])).core 0).out (64 * 5) 64 = false ∧ outTouches [.store 322 [1, 2] 322] (64 * 5) 64 = true ∧
    ((at0 fun c => setOut [.store 322 [1, 2] 322] (setSmb [⟨5, 9, 1, false, 0⟩] c)).core 0).out = [.store 322 [1, 2] 322] ∧
    ((at0 (setMon (monitor 3))).core 0).monitors.toArray.getD 0 none = some (monitor 3) ∧
    bytesWord ((at0 (setMon (monitor 3))).coreBytes 0 (monitor 3).loc 8) ≠ (monitor 3).expect ∧ (monitor 0).deadline = some 9 ∧
    9 ≤ (event (.pair 0 0) 20 (at0 (setMon (monitor 0)))).cycle ∧ ((at0 (setRefills [3])).core 0).refills.contains 3 = true ∧
    (event (.unit 0) 0 (at0 id)).arg = .unit 0 := by decide +kernel

def waiting (w : Wait) (n : Nat) (s : State) : State := event (.unit 0) n (s.updCore 0 (setWait w))

theorem witness_FlagResults : Fires .always [1, 2, 3] [] (at0 (regs [(3, 7)])) ∧ Quiet (at0 (regs [(3, 7)])).myCore ∧
    (at0 (regs [(3, 7)])).flagName 0 false 5 = some (0, 5) ∧ (at0 (regs [(3, 7)])).flagName 0 true 5 = some (0, 5) ∧
    (at0 (regs [(3, 7)])).interrupted 0 = false ∧
    ((at0 (regs [(3, 7)])).flagAt 0 false 0 5 - ((at0 (regs [(3, 7)])).myCore.reg 2).setWidth 32).toNat < 2 ^ 31 ∧
    2 ^ 31 ≤ ((at0 (regs [(3, 7)])).flagAt 0 false 0 5 - ((at0 (regs [(3, 7)])).myCore.reg 3).setWidth 32).toNat ∧
    ((waiting (.fwait false 0 5 7 0 (some 9) 2 0) 50 (at0 id)).core 0).wait = some (.fwait false 0 5 7 0 (some 9) 2 0) ∧
    9 ≤ (waiting (.fwait false 0 5 7 0 (some 9) 2 0) 50 (at0 id)).cycle := by decide +kernel

/-- Ring 3 of cluster 0 with these counts, s2 holding the address of its slot 1. -/
def sRing (claimed tail taken head : BitVec 32) : State := withRing (ring claimed tail taken head) (at0 (regs [(2, pcA + 64)]))

theorem witness_RingResults : Fires .always [2, 1] [] (sRing 4 1 1 0) ∧ (sRing 4 1 1 0).ringName 0 0 3 = some 0 ∧
    (sRing 4 1 1 0).interrupted 0 = false ∧ (((ring 1 0 0 0).claimed - (ring 1 0 0 0).head).toNat < (ring 1 0 0 0).count.toNat) ∧
    ((ring 4 1 1 0).count.toNat ≤ ((ring 4 1 1 0).claimed - (ring 4 1 1 0).head).toNat) ∧ (ring 4 2 1 0).taken ≠ (ring 4 2 1 0).tail ∧
    (ring 4 1 1 0).taken = (ring 4 1 1 0).tail ∧ Quiet (sRing 4 1 1 0).myCore ∧
    ((sRing 4 1 1 0).ring 0 3).slotOf 0 0 ((sRing 4 1 1 0).myCore.reg 2).toNat = some 1 ∧ ((ring 4 1 1 0).publish 1).isSome = true ∧
    ((ring 4 4 2 0).release 1).isSome = true ∧
    ((waiting (.rclm 0 3 (some 9) 2) 20 (sRing 4 2 1 0)).core 0).wait = some (.rclm 0 3 (some 9) 2) ∧
    ((waiting (.rwf 0 3 (some 9) 2) 20 (sRing 4 2 1 0)).core 0).wait = some (.rwf 0 3 (some 9) 2) ∧
    9 ≤ (waiting (.rwf 0 3 (some 9) 2) 20 (sRing 4 2 1 0)).cycle := by decide +kernel
theorem witness_CountersInOrder : ((ring 4 2 1 0).taken - (ring 4 2 1 0).head).toNat ≤ ((ring 4 2 1 0).tail - (ring 4 2 1 0).head).toNat ∧
    ((ring 4 2 1 0).tail - (ring 4 2 1 0).head).toNat ≤ ((ring 4 2 1 0).claimed - (ring 4 2 1 0).head).toNat ∧
    ((ring 4 2 1 0).claimed - (ring 4 2 1 0).head).toNat ≤ (ring 4 2 1 0).count.toNat ∧ ((ring 3 2 1 0).claim).isSome = true ∧
    ((ring 3 2 1 0).take).isSome = true ∧ ((ring 4 1 1 0).publish 1).isSome = true ∧ ((ring 4 4 2 0).release 1).isSome = true ∧
    (bar 0 0 0 2).cur.getLsbD 3 = false ∧ (((bar 0 0 0 2).cur ||| (1#16 <<< 3)).cpop.toNat < (bar 0 0 0 2).exp.toNat) ∧
    ((bar 1 0 1 2).exp.toNat ≤ ((bar 1 0 1 2).cur ||| (1#16 <<< 3)).cpop.toNat) ∧ (bar 1 0 1 2).nxt = 0 ∧
    (bar 0 0 0 2).valid = true ∧ (bar 1 1 1 2).nxt ≠ 0 ∧ (bar 1 1 1 2).nxt.cpop.toNat < (bar 1 1 1 2).expl.toNat ∧
    (bar 1 3 3 2).expl.toNat ≤ (bar 1 3 3 2).nxt.cpop.toNat ∧ (bar 8 0 8 2).nxt.getLsbD 3 = false ∧
    (bar 8 0 8 2).cur.cpop.toNat < (bar 8 0 8 2).exp.toNat ∧ (bar 8 8 8 2).cur.getLsbD 3 = true ∧ (bar 8 8 8 2).nxt.getLsbD 3 = true := by decide +kernel
/-- A task whose instance has been cancelled, and whose core 0 is in wait `w`. -/
def sStops (w : Wait) : State :=
  { waiting w 20 (inTask 1 id) with insts := [(1, { inst [] with cancelled := some 130, delivered := true })] }

def sCancelled : State := sStops (.rclm 0 3 none 2)

theorem witness_BarrierResults : Fires .always [2] [] State.reset ∧ Fires .always [2] [1] State.reset ∧ Quiet State.reset.myCore ∧
    (State.reset.bar 0 5).valid = false ∧ (bar 0 0 1 2).valid = true ∧ ((bar 0 0 1 2).cur = 0 ∧ (bar 0 0 1 2).nxt = 0) ∧
    (withBar (bar 1 0 1 2) (at0 id)).bar 0 2 = bar 1 0 1 2 ∧ (bar 1 0 1 2).cur ≠ 0 ∧ (withBar (bar 1 1 1 3) (at0 id)).bar 0 2 = bar 1 1 1 3 ∧
    (bar 1 1 1 3).cur.getLsbD (0 % 16) = true ∧ (bar 1 1 1 3).nxt.getLsbD (0 % 16) = true ∧ ((withBar (bar 0 0 0 2) (at0 id)).bar 0 2).arrive 0 = .ok (bar 1 0 1 2) ∧
    ((withBar (bar 2 0 0 2) (at0 id)).bar 0 2).arrive 0 = .ok { bar 0 0 1 2 with phase := 1 } ∧
    (withBar (bar 0 0 0 2) (at0 id)).interrupted 0 = false ∧
    (bar 1 0 1 2).doneFor 0 = false ∧ ({ bar 0 0 1 2 with phase := 1 } : Barrier).doneFor 0 = true ∧
    sCancelled.interrupted 0 = true ∧ ((1 : Nat) ≠ 0 ∧ clusOf 1 = clusOf 0 ∧
      (((at0 id).updCore 1 (setWait (.barw 2 3 none))).core 1).wait = some (.barw 2 3 none)) ∧
    ((waiting (.barw 2 3 (some (9, true))) 0 (at0 id)).core 0).wait = some (.barw 2 3 (some (9, true))) := by decide +kernel

/-- Core 0 past the limit of its phase, changed by `h`. -/
def sLate (h : Core → Core) : State := event (.unit 0) 70000 (inTask 1 h)

/-- A detached core of a set of sixteen whose Quadrille runs, in the wait of a JOIN. -/
def sJoining (n : Nat) : State := waiting (.join 3 9) n (sDetached [] [])

theorem witness_WaitEvents : (((sJoining 20).core 0).wait = some (.join 3 9) ∧ 9 ≤ (sJoining 20).cycle ∧ (sJoining 5).cycle < 9 ∧
      ((sJoining 20).core 0).ready [] [1] = true ∧ ((sJoining 20).core 0).inh = false ∧ (sJoining 20).inSixteen 0 = true ∧
      ((sJoining 20).core 0).att = false ∧ ((sJoining 20).cluster (clusOf 0)).quad.run ≠ .idle ∧
      ((sJoining 20).cluster (clusOf 0)).quad.win = []) ∧
    (∀ w ∈ [Wait.rclm 0 3 none 2, .rwf 0 3 none 2, .fwait false 0 5 7 0 none 2 0, .barw 2 3 none, .barw 2 3 (some (9, true))],
      ((sStops w).core 0).wait = some w ∧ (sStops w).interrupted 0 = true ∧ (sStops w).arg = .unit 0 ∧
        ∀ m ∈ ((sStops w).core 0).monitors.toList, m = none) ∧
    (withBar (bar 1 0 1 2) (sStops (.barw 2 3 none))).interrupted 0 = true ∧
    ((withBar (bar 1 0 1 2) (sStops (.barw 2 3 none))).bar (clusOf 0) 2).doneFor (0 % 16) = false ∧
    ((((sStops (.waita 0)).updCore 0 (setMon (monitor 0))).core 0).monitors.toArray.getD 0 none = some (monitor 0) ∧
      (((sStops (.waita 0)).updCore 0 fun c => setMon (monitor 0) { c with wait := none }).core 0).wait = none) ∧
    (∀ h ∈ [id, setWait (.sysc .syscMap), setWait (.join 3 9), setWait (.rwf 0 3 none 2)],
      ((sLate h).core 0).running = true ∧ ((sLate h).core 0).stopped = false ∧ ((sLate h).core 0).halted = false ∧
        ((sLate h).core 0).pend = none ∧ ((sLate h).core 0).phase = .prologue ∧ ((sLate h).core 0).phaseStart + 65536 < (sLate h).cycle) ∧
    ((sLate id).core 0).wait = none ∧ ((sLate (setWait (.sysc .syscMap))).core 0).wait = some (.sysc .syscMap) ∧
    ((sLate (setPhase .epilogue)).core 0).phase = .epilogue ∧ ((sLate setInh).core 0).hndStart + 65536 < (sLate setInh).cycle ∧
    (let s := event (.unit 0) 70000 (withInst 1 (inst []) (inTask 1 fun c => setPhase .ended (setSince 0 (setEng .load [] [⟨0, none, none, none⟩] c))))
     (s.core 0).drained = false ∧ (s.core 0).inh = false ∧ (s.core 0).halted = false ∧ (s.core 0).drainSince = some 0 ∧ (s.core 0).task = some 0 ∧ (s.core 0).pend = none ∧
       s.insts.find (s.instOf 0) = some (inst []) ∧ (inst []).cancelled = none) := by
  decide +kernel

/-- A stream bound to object 40. -/
def sStream : State := withObj 40 (entry .f32 ownClus 4 4 16 15) (at0 (setStream 3 ⟨true, 40, entry .f32 ownClus 4 4 16 15, 0, 0, 0, 0⟩))

theorem witness_QueueResults : decodeWord 0x50A1420440000000 = .ok (.vadd ⟨.stage 2, some .LA, some .AS⟩ .f32 4 1 2 0) ∧
    (State.reset.myCore.getEng .arith).queue.length < 32 ∧
    State.reset.myCore.ready ((scalarSrc (.vext plain .f32 7 1 0 2)).toList ++ (marksS (.vext plain .f32 7 1 0 2)).toList) [] = true ∧
    ((at0 (setEng .arith [] [⟨0, some .AS, some (2, 7), some (3, true)⟩])).myCore.getEng .arith).inflight =
      [⟨0, some .AS, some (2, 7), some (3, true)⟩] ∧
    Fires .always [] [] sStream ∧ Fires .always [2] [] sStream ∧ (sStream.objEntry 0 40).isSome = true ∧
    streamA (.mma plain .i8 false 1 3 (.stream 4) 1) = some 3 ∧ streamB (.mma plain .i8 false 1 3 (.stream 4) 1) = some 4 ∧
    ((at0 id).core 0).pend = none ∧ sStream.myCore.affineFull 2 (entry .f32 ownClus 4 4 16 15) = false ∧ (sStream.myCore.stream 3).bound = true ∧
    (sStream.myCore.stream 3).p1.toNat + 2 < 2 ^ 24 := by decide +kernel

/-- Any engine word without clauses issues at the head of its queue. -/
theorem issues_vec (e : Eng) (i : Instr) : Issues e plain (vec e i) (qe i) := by
  cases e <;> exact ⟨rfl, rfl, rfl, rfl⟩

theorem witness_VectorArithmetic : Issues .arith plain (vec .arith (.vadd plain .f32 4 1 2 0)) (qe (.vadd plain .f32 4 1 2 0)) ∧
    (Instr.vadd plain .f32 4 1 2 0).limits = true ∧ (Instr.vmul plain .i32 4 1 2 0).limits = true ∧
    (Instr.vfma plain .f32 4 1 2 3 0).limits = true ∧ (Instr.vabs plain .f32 4 1 0).limits = true ∧
    (Instr.vexp plain .f32 4 1 0).limits = true ∧ (vec .arith (.vexp plain .f32 4 1 0)).pavRuns = false ∧
    (Ty.isFloat .f32 && (vec .arith (.vadd plain .f32 4 1 2 0)).myCore.nten && true) = false :=
  ⟨issues_vec _ _, rfl, rfl, rfl, rfl, rfl, by decide +kernel, by decide +kernel⟩
theorem witness_VectorLogicMoves : Issues .arith plain (vec .arith (.vand plain 4 1 2 0)) (qe (.vand plain 4 1 2 0)) ∧
    (Instr.vand plain 4 1 2 0).limits = true ∧ (Instr.vshl plain .i16 4 1 2 0).limits = true ∧
    (Instr.vbfx plain .i32 4 1 4 3 0).limits = true ∧ (Instr.vfsh plain .n32 4 1 2 3 0).limits = true ∧
    (Instr.vclz plain .n16 4 1 0).limits = true ∧ (Instr.vcmp plain .f32 .lt 3 1 2 0).limits = true ∧
    (Instr.vli plain .f32 4 0x3F80 0).limits = true ∧ (Instr.vext plain .f32 7 1 0 2).limits = true ∧
    (Instr.vins plain .f32 4 7 0 2 0).limits = true :=
  ⟨issues_vec _ _, rfl, rfl, rfl, rfl, rfl, rfl, rfl, rfl, rfl⟩
theorem witness_VectorConversions : Issues .arith plain (vec .arith (.vcvt plain .bf16 .f32 4 1 1 .rne 0)) (qe (.vcvt plain .bf16 .f32 4 1 1 .rne 0)) ∧
    (Instr.vcvt plain .bf16 .f32 4 1 1 .rne 0).limits = true ∧ (Instr.vqnt plain .f8a false 4 1 2 .rne 0).limits = true ∧
    (Instr.vqnt plain .mx4 false 4 1 1 .rne 0).limits = true ∧ (Instr.vdqnt plain .bf16 false 4 1 1 0).limits = true ∧
    (Instr.vdqnt plain .mx4 false 4 1 1 0).limits = true ∧ (Instr.vpack6 plain .f6a 4 1 1 0).limits = true ∧
    (Instr.vunpk6 plain .f8a .f6a 4 1 1 .rne 0).limits = true ∧ (at0 fun c => { c with cmpdValid := true }).myCore.cmpdValid = true ∧
    (vec .arith (.vqnt plain .mx4 false 4 1 1 .rne 0)).myCore.nten = false :=
  ⟨issues_vec _ _, rfl, rfl, rfl, rfl, rfl, rfl, rfl, rfl, by decide +kernel⟩
theorem witness_VectorRowsColumns : Issues .arith plain (vec .arith (.vhad plain .f32 4 1 16 0)) (qe (.vhad plain .f32 4 1 16 0)) ∧
    (Instr.vhad plain .f32 4 1 16 0).limits = true ∧ (Instr.vrotr plain .f32 4 1 3 0).limits = true ∧
    (Instr.vrotc plain .f32 4 1 3 0).limits = true ∧ (Instr.vbcr plain .f32 4 1 3 0).limits = true ∧
    (Instr.vbcc plain .f32 4 1 3 0).limits = true ∧ (Instr.vredr plain .add .f32 4 1 0).limits = true ∧
    (Instr.vredc plain .add .f32 4 1 0).limits = true ∧ (Instr.vscanr plain .add .f32 4 1 0).limits = true :=
  ⟨issues_vec _ _, rfl, rfl, rfl, rfl, rfl, rfl, rfl, rfl⟩
theorem witness_SelectionAndPermute : Issues .arith plain (vec .arith (.vrkey plain .f32 4 1 0)) (qe (.vrkey plain .f32 4 1 0)) ∧
    Issues .permute plain (vec .permute (.ptrn plain .f32 4 1 16 0)) (qe (.ptrn plain .f32 4 1 16 0)) ∧
    (Instr.vrkey plain .f32 4 1 0).limits = true ∧ (Instr.vhist plain .n8 4 1 0 0).limits = true ∧
    (Instr.vselk plain 4 1 2 4 0).limits = true ∧ (Instr.vcomp plain .n32 4 1 0).limits = true ∧
    (Instr.vlut plain .n32 4 3 2 0).limits = true ∧ (Instr.ptrn plain .f32 4 1 16 0).limits = true ∧
    (Instr.pshf plain .f32 4 1 2 0).limits = true ∧ (Instr.prot plain .f32 4 1 3 0).limits = true ∧
    (Instr.pzip plain true .f32 4 1 2 0).limits = true :=
  ⟨issues_vec _ _, issues_vec _ _, rfl, rfl, rfl, rfl, rfl, rfl, rfl, rfl, rfl⟩
theorem witness_MaskResults : Issues .arith plain (vec .arith (.mpush plain 3)) (qe (.mpush plain 3)) ∧
    (vec .arith (.mpush plain 3)).myCore.mstack.length < 16 ∧ ¬1 < (vec .arith (.mpop plain)).myCore.mstack.length ∧
    1 < (at0 fun c => { c with mstack := [1, 2] }).myCore.mstack.length :=
  ⟨issues_vec _ _, by decide +kernel, by decide +kernel, by decide +kernel⟩

theorem witness_VectorMemory :
    let h := qeb (.vld plain .f32 4 (.base 7 none) 0) pcA
    Issues .load plain (eng .load h) h ∧ (Instr.vld plain .f32 4 (.base 7 none) 0).limits = true ∧ Memory.wf (eng .load h).mem = true ∧
    (∃ ls, vmemLanes (eng .load h) h .f32 (.base 7 none) (.rows true) false ((eng .load h).myCore.mask 0) = .ok ls ∧
      ((∀ x ∈ ls, (eng .load h).unc x.2 4 = false) ∧ Unwatched (eng .load h) false (ls.map fun x => (x.2, 4)))) ∧
    (∃ ls, vmemLanes (eng .load h) h .f32 (.base 7 none) (.lanes 2) true ((eng .load h).myCore.mask 0) = .ok ls ∧
      (Unwatched (eng .load h) true (ls.map fun x => (x.2, 4)) ∧ NoPending (eng .load h) (ls.map fun x => (x.2, 4)))) ∧
    (eng .load h).myCore.staging = [] ∧ (eng .load h).myCore.smb = [] :=
  ⟨⟨rfl, rfl, rfl, rfl⟩, rfl, by decide +kernel, ok_and (by decide +kernel), ok_and (by decide +kernel), rfl, rfl⟩

def mxA : BitVec 512 := entry .i8 ownClus 64 5 64 31
def mxB : BitVec 512 := entry .i8 (ownClus + 0x1000) 64 3 64 31
def mmaI : Instr := .mma plain .i8 false 1 3 (.stream 4) 1
def mmaH : QEntry := qes mmaI mxA mxB
def mmaW : MxWord := ⟨.i8, false, 1, 3, .stream 4, 1, 0, 0⟩

/-- An MMAS of a grid of `cm1 + 1` columns. -/
def mmasH (rm1 cm1 : BitVec 2) : QEntry := qes (.mmas plain .i8 false 1 3 (.stream 4) 1 rm1 cm1) mxA mxB

/-- Core 0 of a task of `n` cores with `h` at the head of the matrix queue. -/
def mxTask (h : QEntry) (n : Nat) : State :=
  { inTask n (setEng .matrix [h] []) with mem := [(clusLoc 0 + 1, 7), (clusLoc 0 + 5, 9), (clusLoc 0 + 0x1005, 3)] }

/-- Cores 0 and 1 of a task of 4 with an MMAS over both at their heads, core 1's changed by `f`. -/
def mxTwo (f : QEntry → QEntry) : State :=
  { (mxTask (mmasH 0 1) 4).updCore 1 (fun c => setEng .matrix [f (mmasH 0 1)] [] { c with task := some 0, phase := .prologue }) with
    tasks := [(0, task 4)] }

/-- Core 1 has left the phase without its part of the product. -/
def mxLost : State := event (.unit 0) 0 ((mxTwo id).updCore 1 fun c => setPhase .ended (setEng .matrix [] [] c))

theorem witness_MatrixProducts :
    Issues .matrix plain (eng .matrix mmaH) mmaH ∧ (eng .matrix mmaH).pavRuns = false ∧
    (∃ r, mxCheck (eng .matrix mmaH) (eng .matrix mmaH).me mmaW mmaH = .ok r ∧ Clear (eng .matrix mmaH) mmaW mmaH r) ∧
    Issues .matrix plain (mxTask (mmasH 0 0) 1) (mmasH 0 0) ∧ (mxTask (mmasH 0 0) 1).taskOf 0 = some (task 1) ∧
    decodeWord (mmasH 0 0).word = .ok (.mmas plain .i8 false 1 3 (.stream 4) 1 0 0) ∧ 0 ∈ participants (task 1) 1 1 ∧
    (∀ k ∈ participants (task 1) 1 1, (mxTask (mmasH 0 0) 1).atMmas 1 (mmasH 0 0).nth k = true ∧
      (((mxTask (mmasH 0 0) 1).core k).mqHead).elim false (sameMmas (mmasH 0 0)) = true) ∧
    (∃ r, mxCheck (mxTask (mmasH 0 0) 1) 0 mmaW (mmasH 0 0) = .ok r ∧ Clear (mxTask (mmasH 0 0) 1) mmaW (mmasH 0 0) r) ∧
    (mxTwo id).myCore.mmasDone < (mmasH 0 1).nth ∧ (mmasH 0 0).nth ≤ ((mxTask (mmasH 0 0) 1).updMe fun c => { c with mmasDone := 1 }).myCore.mmasDone ∧
    (∀ k ∈ participants (task 4) 1 2, (mxTwo id).atMmas 4 (mmasH 0 1).nth k = true ∧ (mxTwo id).mmasFails 4 k = false ∧
      (((mxTwo id).core k).mqHead).elim false (sameMmas (mmasH 0 1)) = true ∧ (((mxTwo id).mmasOne 4 k).any fun x => x.2.2.isOk) = true) ∧
    Issues .matrix plain (mxTask (mmasH 1 0) 1) (mmasH 1 0) ∧ ((task 1).size = 1 ∧ ((1 : BitVec 2) ≠ 0 ∨ (0 : BitVec 2) ≠ 0)) ∧
    (let h' : QEntry := { mmasH 0 1 with sa := { (mmasH 0 1).sa with p0 := 1 } }
     let s := mxTwo fun _ => h'
     Issues .matrix plain s (mmasH 0 1) ∧ s.taskOf s.me = some (task 4) ∧ s.me ∈ participants (task 4) 1 2 ∧
      (∀ k ∈ participants (task 4) 1 2, s.atMmas 4 (mmasH 0 1).nth k = true) ∧
      (∃ k ∈ participants (task 4) 1 2, ((s.core k).mqHead).elim false (sameMmas (mmasH 0 1)) = false)) ∧
    mxLost.arg = .unit 0 ∧ mxLost.taskOf 0 = some (task 4) ∧ (mxLost.core 0).mqHead = some (mmasH 0 1) ∧ 0 ∈ participants (task 4) 1 2 ∧
    mxLost.atMmas (task 4).size (mmasH 0 1).nth 0 = true ∧
    (∃ k ∈ participants (task 4) 1 2, k ≠ 0 ∧ mxLost.lostAt (mmasH 0 1).nth k = true) :=
  ⟨⟨rfl, rfl, rfl, rfl⟩, by decide +kernel, ok_and (by decide +kernel), ⟨rfl, rfl, rfl, rfl⟩, by decide +kernel, by decide +kernel,
    by decide +kernel, by decide +kernel, ok_and (by decide +kernel), by decide +kernel, by decide +kernel, by decide +kernel,
    ⟨rfl, rfl, rfl, rfl⟩, by decide, ⟨⟨rfl, rfl, rfl, rfl⟩, by decide +kernel, by decide +kernel, by decide +kernel, by decide +kernel⟩, rfl, by decide +kernel,
    by decide +kernel, by decide +kernel, by decide +kernel, by decide +kernel⟩
theorem witness_ProductElements :
    let ab : List (Option (List Byte)) := some (List.replicate 64 3) :: List.replicate 127 none
    ab.length = 128 ∧ (5 < 128) ∧ ab[1]? = some none ∧ ab[0]? = some (some (List.replicate 64 3)) ∧ mmaW.ty = .i8 ∧
    ({ mmaW with ty := .f8a } : MxWord).ty ≠ .i8 := ⟨rfl, by decide, rfl, rfl, rfl, by decide⟩

/-- As `qes`, of an f32 object of 4 by 3 elements. -/
def tileH (i : Instr) : QEntry := qes i (entry .f32 ownClus 4 3 16 31) (entry .f32 ownClus 4 3 16 31)

def mldwH : QEntry := qes (.mldw plain .i8 false 3) mxA mxA

theorem witness_TileMemory :
    Issues .matrix plain (eng .matrix (tileH (.mwr plain 2 3))) (tileH (.mwr plain 2 3)) ∧
    (eng .matrix (tileH (.mwr plain 2 3))).pavRuns = false ∧
    (∃ rs, tileCheck (eng .matrix (tileH (.mwr plain 2 3))) (tileH (.mwr plain 2 3)) 3 .f32 false = .ok rs ∧
      ((eng .matrix (tileH (.mwr plain 2 3))).piecesUnc rs.flatten = none ∧
        Unwatched (eng .matrix (tileH (.mwr plain 2 3))) false (rs.flatten.map fun p => p.2))) ∧
    (Instr.mrd plain .f32 .rne 3 2).limits = true ∧
    (∃ rs, tileCheck (eng .matrix (tileH (.mrd plain .f32 .rne 3 2))) (tileH (.mrd plain .f32 .rne 3 2)) 3 .f32 true = .ok rs ∧
      (Unwatched (eng .matrix (tileH (.mrd plain .f32 .rne 3 2))) true (rs.flatten.map fun p => p.2) ∧
        NoPending (eng .matrix (tileH (.mrd plain .f32 .rne 3 2))) (rs.flatten.map fun p => p.2))) ∧
    (eng .matrix (tileH (.mrd plain .f32 .rne 3 2))).myCore.nten = false ∧ (eng .matrix (tileH (.mrd plain .f32 .rne 3 2))).myCore.smb = [] ∧
    mxUnbound [⟨3, mldwH.sa, mldwH.pa, .i8⟩] = none ∧ mxFormat [⟨3, mldwH.sa, mldwH.pa, .i8⟩] = none ∧
    mxRight [⟨3, mldwH.sa, mldwH.pa, .i8⟩] = none ∧ mxCmpd (eng .matrix mldwH).myCore [⟨3, mldwH.sa, mldwH.pa, .i8⟩] = none ∧
    mxBounds [⟨3, mldwH.sa, mldwH.pa, .i8⟩] none = none ∧ mldwOk mldwH.sa.entry mldwH.pa .i8 false = true ∧
    (∃ ls, (mldwRuns mldwH.sa.entry mldwH.pa .i8 false).mapM (locatePieces (eng .matrix mldwH) ((eng .matrix mldwH).whoCore 0) .rd) = .ok ls ∧
      (eng .matrix mldwH).piecesUnc ls.flatten = none) ∧
    (eng .matrix mldwH).myCore.wp.toList.all (fun w => w.kind = 0) = true :=
  ⟨⟨rfl, rfl, rfl, rfl⟩, by decide +kernel, ok_and (by decide +kernel), rfl, ok_and (by decide +kernel), by decide +kernel, rfl,
    by decide +kernel, by decide +kernel, by decide +kernel, by decide +kernel, by decide +kernel, by decide +kernel,
    ok_and (by decide +kernel), by decide +kernel⟩

/-- The objects of `copying`, both 4 by 4. -/
def sCopy : State := copying (box 4 4) (box 4 4)

/-- An index list that names two columns, and records for a gather. -/
def sGather : State :=
  words [(clusLoc 0, 0x0000000300000002)] (words (region 0 40 0 (box 4 1) ownClus) (copying (box 4 1) (box 4 2)))

/-- The destination of a SEND: a claimed slot of ring 3. -/
def sSend : State := withRing (ring 1 0 0 0) { sCopy.updCore 0 (regs [(2, 3)]) with nextId := 1 }

/-- The checks of a copy word pass, and no watchpoint is met. -/
abbrev CopyOk (s : State) (op : CopyOp) : Prop :=
  ∃ x, checkCopy s (s.whoCore s.me) op (s.myCore.reg 1) (s.myCore.reg 2) = .ok x ∧
    (Unwatched s false (pieceRuns x.rd) ∧ Unwatched s true (pieceRuns x.wr))

theorem witness_CommandHandOff : Fires .always [1, 2] [] sCopy ∧ sCopy.myCore.inh = false ∧ EngineFree sCopy ∧ Quiet sCopy.myCore ∧
    CopyOk sCopy .cpy ∧ CopyOk sCopy .cpym ∧ CopyOk sGather (.gthr 2) ∧ sGather.myCore.writesOut = false ∧ EngineFree sGather ∧
    CopyOk sCopy (.red false .add .f32 1) ∧ CopyOk sSend .send ∧ EngineFree sSend := by
  refine ⟨?_, ?_, ?_, ?_, ok_and ?_, ok_and ?_, ok_and ?_, ?_, ?_, ok_and ?_, ok_and ?_, ?_⟩ <;> decide +kernel

/-- A whole 4 by 4 object of f32 at `b`. -/
def whole (o b : Nat) : Region :=
  { obj := BitVec.ofNat 16 o, entry := entInstalled (entry .f32 b 4 4 16 31) 0, dev := 0, remote := false, rank := 0, pos := 0,
    box := BitVec.ofNat 64 (box 4 4), idx := 0 }

def srcR : Region := whole 40 ownClus
def dstR : Region := whole 41 (ownClus + 256)
def copyK : CmdKind := .copy srcR dstR
def redK : CmdKind := .reduce srcR dstR .f32 .add false 0

theorem witness_CommandsComplete :
    (withCmd copyK sCopy).arg = .unit 7 ∧ (withCmd copyK sCopy).cmd 7 = some (cmd0 copyK) ∧ AllStarted (withCmd copyK sCopy) ∧
    (cmd0 copyK).node = none ∧ moveRuns copyK = some (srcR.runs, dstR.runs) ∧
    (withCmd copyK sCopy).piecesUnc (cmdPieces (withCmd copyK sCopy) (cmd0 copyK) .rd srcR.runs) = none ∧ (cmd0 copyK).die = false ∧
    (cmd0 copyK).flag ≠ 0 ∧ (withCmd redK sCopy).cmd 7 = some (cmd0 redK) ∧ AllStarted (withCmd redK sCopy) ∧
    (cmd0 redK).applied = false ∧ (cmd0 redK).core = some 0 ∧ dstR.remote = false ∧ ((withCmd redK sCopy).core 0).nten = false ∧
    (let s := withCmd redK sCopy
     let bs := s.runsBytes (pieceRuns (cmdPieces s (cmd0 redK) .rd srcR.runs))
     let x := redArrival (cmd0 redK) srcR dstR .f32 .add false 0 bs
     s.piecesUnc (cmdPieces s (cmd0 redK) .rd srcR.runs) = none ∧ x.mixed s = false ∧ s.piecesUnc (x.pieces s) = none) :=
  ⟨rfl, by decide +kernel, by decide +kernel, rfl, rfl, by decide +kernel, rfl, by decide +kernel, by decide +kernel, by decide +kernel, rfl,
    rfl, rfl, by decide +kernel, by decide +kernel, by decide +kernel, by decide +kernel⟩

/-- An ordered contribution of `n` sources that meets the rounds `rs`. -/
def ordK (n : Nat) : CmdKind := .reduce { srcR with rank := 1 } dstR .f32 .add true n
def sOrd (n : Nat) (rs : List Round) : State := { withCmd (ordK n) sCopy with rounds := rs }
def ordIn (n : Nat) (rs : List Round) : RedIn :=
  redArrival (cmd0 (ordK n)) { srcR with rank := 1 } dstR .f32 .add true n
    ((sOrd n rs).runsBytes (pieceRuns (cmdPieces (sOrd n rs) (cmd0 (ordK n)) .rd srcR.runs)))
/-- A round of `n` sources on the same region that holds rank `k`. -/
def openRound (n k : Nat) : Round := ⟨0, 41, dstR.pos, dstR.box, dstR.entry, .f32, .add, n, 0, 0, [⟨k, List.replicate 64 0, false, none⟩]⟩

theorem witness_CommandsComplete_ordered :
    (∀ x ∈ [((1 : Nat), ([] : List Round)), (2, []), (2, [openRound 2 0])],
      (sOrd x.1 x.2).cmd 7 = some (cmd0 (ordK x.1)) ∧ AllStarted (sOrd x.1 x.2) ∧ ((sOrd x.1 x.2).core 0).nten = false ∧
      (sOrd x.1 x.2).piecesUnc (cmdPieces (sOrd x.1 x.2) (cmd0 (ordK x.1)) .rd srcR.runs) = none ∧ (ordIn x.1 x.2).mixed (sOrd x.1 x.2) = false ∧
      ((ordIn x.1 x.2).waits (sOrd x.1 x.2) || (sOrd x.1 x.2).redBehind (cmd0 (ordK x.1))) = false ∧
      (sOrd x.1 x.2).piecesUnc ((ordIn x.1 x.2).pieces (sOrd x.1 x.2)) = none) ∧
    (insertRank (ordIn 2 []).contribution []).length ≠ 2 ∧
    ((insertRank (ordIn 2 [openRound 2 0]).contribution (openRound 2 0).held).length = 2 ∧
      ((ordIn 2 [openRound 2 0]).round (sOrd 2 [openRound 2 0])) = some (openRound 2 0)) ∧
    ((ordIn 3 [openRound 3 1]).mixed (sOrd 3 [openRound 3 1]) = false ∧ (ordIn 3 [openRound 3 1]).waits (sOrd 3 [openRound 3 1]) = true) ∧
    ({ cmd0 redK with applied := true } : Cmd).applied = true := by decide +kernel

/-- A graph of one tile record in die scratch, handed to core 0 of a running task. -/
def sSubmit : State :=
  words ((List.range 8).map fun i => (dieScr + 8 * i, bitsOf tileRec.toNat (64 * i) 64))
    (withInst 1 (inst []) (inTask 1 (regs [(1, BitVec.ofNat 64 dieScr), (2, 1)])))

def two3 : Instance := inst [node tileRec 3 .waiting, node tileRec 1 .waiting]

/-- A task that names instance 6, which is `x`. -/
def sNames (x : Instance) : State := withInst 6 x (inTask 1 (regs [(1, 6), (2, 0)]))

def xqc : XQueue := xqOf 0 (BitVec.ofNat 128 (1 + 2 * 2 ^ 13 + 100 * 2 ^ 32 + dieScr * 2 ^ 64))
def withXq (n : Nat) (x : XQueue) (s : State) : State := s.updPart 0 fun p => { p with xqs := p.xqs.set n x }

theorem witness_TaskWords : Fires .always [4, 1, 2] [] sSubmit ∧ Quiet sSubmit.myCore ∧
    (∃ r, (released sSubmit).submit (sSubmit.partOf sSubmit.me) (dieOf sSubmit.me) (sSubmit.myCore.reg 1).toNat
      (sSubmit.myCore.reg 2).toNat (some (sSubmit.instOf sSubmit.me)) (.flag (clusOf sSubmit.me) 3) = .ok r ∧ r.1 = 2) ∧
    ((sNames two3).myCore.reg 1).toNat < 2 ^ 24 ∧ (sNames two3).liveInst 0 6 = some two3 ∧ two3.cancelled = none ∧
    two3.nodes[0]? = some (node tileRec 3 .waiting) ∧ 2 + 1 ≤ (node tileRec 3 .waiting).count ∧
    (sNames { two3 with cancelled := some 130 }).liveInst 0 6 = some { two3 with cancelled := some 130 } ∧
    (sNames two3).liveInst 0 7 = none ∧ (withXq 5 xqc sSubmit).xq 0 5 = some xqc := by
  refine ⟨?_, ?_, ok_and ?_, ?_, ?_, ?_, ?_, ?_, ?_, ?_, ?_⟩ <;> decide +kernel

/-- An instance whose nodes all stand in die 0's pool. -/
def pooled (ns : List Node) (s : State) : State :=
  (withInst 1 (inst ns) s).updDie 0 fun d => { d with pool := (List.range ns.length).map fun k => (k, 1, k) }

def sSlot : State := { pooled [node tileRec 0 .pooled] (at0 id) with arg := .slot 0 1 ⟨1, 0, 0, 0⟩ }
def toRun : Pooled := ⟨1, 0, 0, node tileRec 0 .pooled⟩

theorem witness_DispatchStartsTask : sSlot.arg = .slot 0 1 ⟨1, 0, 0, 0⟩ ∧ sSlot.quiesced = false ∧
    (let s1 := ((sSlot.sweepOne 0).promoteAll 0).noteBlocked 0
    ∃ a, (firsts (s1.candidates 0)).find? (fun a => a.i = 1 && a.n = 0) = some a ∧
      (recKind a.x.record = 0 ∧ a.x.task = none ∧ (s1.executors 0 a.part a.x).contains (0, 0) = true ∧ s1.tokenAt a.i = false ∧
        (firstPhase (recTask a.x.record a.i a.n (sSlot.cluster 0).part 0 0 a.x.addr sSlot.cycle)).1 ≠ .ended)) :=
  ⟨rfl, by decide +kernel, some_and (by decide +kernel)⟩

/-- A tile record of `n` = 1, 4 or 16 cores by the coded size, with the bits `m` of its role word. -/
def setRec (m : Nat) : BitVec 512 := BitVec.ofNat 512 (tileRec.toNat + m * 2 ^ 416)

/-- Every core of cluster 0 is busy with task 0. -/
def busy (s : State) : State := (coresOf 0).foldl (fun s g => s.updCore g fun c => { c with task := some 0, phase := .prologue }) s

def sDone : State := event (.unit 0) 50 (withInst 1 (inst [{ node tileRec 0 .running with task := some 0 }]) (inTask 1 (setPhase .ended)))
def aged : Node := { node (setRec 0x101) 0 .pooled with blocked := some 0 }
def sAged : State := event (.pair 1 0) 0x30000 (pooled [aged] (inTask 16 id))
def sOffer : State := { busy sAged with arg := .node 1 0 1 }
def going : Node := { node (setRec 0x101) 0 .ready with inTransit := some (1, 160), moved := true }
def sArrive : State := event (.pair 1 0) 160 (withInst 1 (inst [going]) (at0 id))
def urgent : Node := { node (setRec 1) 0 .pooled with promoted := true, blocked := some 0 }
def sUrgentOf (x : Node) : State := event (.pair 1 0) 0x30000 (busy (pooled [x] (inTask 16 id)))
def sUrgent : State := sUrgentOf urgent
def gone : Instance := { inst [node tileRec 3 .waiting] with cancelled := some 130 }
def sToken : State := { event (.unit 1) 5 (withInst 1 gone (at0 id)) with tokens := [1] }
def sEnds : State := event (.unit 1) 5 (withInst 1 (inst [node tileRec 0 .complete]) (at0 id))

theorem witness_GalliardEvents : sDone.arg = .unit 0 ∧ sDone.tasks.find 0 = some (task 1) ∧ sDone.taskDone 0 (task 1) = true ∧
    sAged.nodeAt 1 0 = some aged ∧ aged.st = .pooled ∧ aged.readyAt + (sAged.die aged.die).age.toNat ≤ sAged.cycle ∧
    sOffer.insts.find 1 = some (inst [aged]) ∧ sOffer.nodeAt 1 0 = some aged ∧ sOffer.mayOffer 0 aged 1 = true ∧
    sArrive.nodeAt 1 0 = some going ∧ (sArrive.die 1).pool.length < 4096 ∧
    sUrgent.insts.find 1 = some (inst [urgent]) ∧ sUrgent.nodeAt 1 0 = some urgent ∧ recKind urgent.record = 0 ∧
    urgent.st = .pooled ∧ urgent.inTransit = none ∧ urgent.promoted = true ∧ urgent.blocked = some 0 ∧ urgent.asked = false ∧
    (task 16).saving = false ∧ (sUrgentOf { urgent with asked := true }).nodeAt 1 0 = some { urgent with asked := true } ∧
    max 0 (urgent.readyAt + (sUrgent.die urgent.die).age.toNat) + (sUrgent.die urgent.die).age.toNat ≤ sUrgent.cycle ∧ sUrgent.executors urgent.die 0 urgent = [] ∧
    latest (sUrgent.victims 0 urgent) = some (0, task 16) ∧ sUrgent.tasks.find 0 = some (task 16) ∧ (task 16).trip ≠ 0 ∧
    (∀ g ∈ (task 16).cores, (sUrgent.core g).phase = .prologue ∨ (sUrgent.core g).phase = .kernel) ∧
    sToken.insts.find 1 = some gone ∧ gone.cancelled = some 130 ∧ 1 ∈ sToken.tokens ∧
    sEnds.instEnds 1 (inst [node tileRec 0 .complete]) = true ∧ (inst [node tileRec 0 .complete]).restartable = false ∧
    (inst [node tileRec 0 .complete]).notify = .flag 0 3 := by
  decide +kernel

/-- Queue 5 of partition 0 and a core of a task with its descriptor at near offset 32. -/
def sPush : State := withXq 5 xqc (inTask 1 (regs [(1, nearA + 32)]))

def descs : List XDesc := [⟨77, 1, 0⟩, ⟨78, 1, 3⟩]
def batched : Instance := { inst [] with batch := some (5, descs) }
def sTake : State := withInst 1 batched (inTask 1 (regs [(1, nearA + 32), (2, 1)]))

/-- Two arrived rows of two f32 elements. -/
def sComb : State :=
  words [(clusLoc 0 + 56, 0xF0003), (clusLoc 0 + 128, 0x4000000040400000), (clusLoc 0 + 192, 0x3F80000040400000)]
    (at0 fun c => { regs [(1, pcA + 64), (2, pcA + 0x400)] c with xqWidth := 2, xqStride := 1 })

def filled : XQueue := { xqc with descs := descs, near := 2 }
def sFire : State := event (.pair 0 0) 10 (withXq 5 filled (withInst 1 (inst []) sSubmit))
def combK : CmdKind := .combine .f32 (ownClus + 64) (ownClus + 0x400) 2 64 2

theorem witness_ExpertQueues : Fires .always [1] [] sPush ∧ Quiet sPush.myCore ∧ sPush.xq (sPush.partOf sPush.me) 5 = some xqc ∧
    xqNear (sPush.myCore.reg 1).toNat = true ∧ sPush.unc (nearLoc 0 + 32) 16 = false ∧
    (∃ y, xqc.push (sPush.spillFree 0) ⟨0, sPush.instOf sPush.me, sPush.cycle⟩ sPush.cycle = some y ∧ y.descs.length = 1) ∧
    Fires .always [4, 1, 2] [] sTake ∧ sTake.insts.find (sTake.instOf sTake.me) = some batched ∧ xqNear (sTake.myCore.reg 1).toNat = true ∧
    (sTake.myCore.reg 1).toNat + 16 * 1 ≤ ownNear + nearSize ∧
    Fires .always [4, 1, 2] [] sComb ∧ (sComb.myCore.inh = false ∧ sComb.myCore.writesOut = false) ∧ sComb.myCore.xqWidth.toNat * 4 ≤ sComb.myCore.xqStride.toNat * 64 ∧
    (∃ r, combPieces sComb (sComb.whoCore sComb.me) (ownClus + 64) (ownClus + 0x400) 2 64 8 = .ok r ∧
      (sComb.piecesUnc r.2.2 = none ∧ Unwatched sComb false (pieceRuns (r.1 ++ r.2.2)) ∧ Unwatched sComb true (pieceRuns (r.2.1 ++ r.2.2)))) ∧
    EngineFree sComb ∧ sFire.xqPick 0 0 = some (5, filled) ∧ cutBatch sFire.tokenAt filled.batchMax (filled.standing sFire.cycle).descs = (descs, []) ∧
    sFire.quiesced = false ∧ (∃ r, sFire.boundRecord 0 filled = .ok r ∧ recKind r = 0) ∧
    (withCmd combK sComb).cmd 7 = some (cmd0 combK) ∧ AllStarted (withCmd combK sComb) ∧
    (withCmd combK sComb).combReady (cmd0 combK) (ownClus + 64) 2 = true := by
  refine ⟨?_, ?_, ?_, ?_, ?_, some_and ?_, ?_, ?_, ?_, ?_, ?_, ?_, ?_, ok_and ?_, ?_, ?_, ?_, ?_, ok_and ?_, ?_, ?_, ?_⟩ <;> decide +kernel

def stored64 : List Byte := List.replicate 64 0
def ixProps : IndexProps := ⟨false, .i8, 64, true, 0, 0, 1, 1024⟩
def ixGen : IndexGen := ⟨0, [], [stored64], [[(11, stored64), (12, List.replicate 64 1)]]⟩
def ixMerged : IndexGen := ⟨0, [], [stored64], [[(11, stored64), (12, List.replicate 64 1), (13, stored64)]]⟩
def index (log : List LogRec) : Sys2Proof.Machine.Index := ⟨ixProps, 0, 0, ixGen, log⟩

/-- Namespace 0 is granted to partition 0, and `x` stands there under name 9. -/
def withStore (x : Store) (s : State) : State :=
  { s.updPart 0 fun p => { p with namespaces := [0] } with stores := [(0, [(9, x)])] }

/-- Partition 0 with an installed entry of its object table and its flash store. -/
def withObj2 (i : Nat) (e : BitVec 512) (st : Nat) (s : State) : State :=
  s.updPart 0 fun x => { x with objs := x.objs.set i ⟨e, 0, st, 0⟩ }

def ixEntry : BitVec 512 := entInstalled (entry .i8 0 64 4 64 31) 0

/-- A search descriptor for object 40, an ivf index, at the start of core 0's near scratch. -/
def sSearch : State :=
  words [(nearLoc 0, 40 + 1 * 2 ^ 16 + 3 * 2 ^ 32), (nearLoc 0 + 8, ownClus), (nearLoc 0 + 16, 5 + 6 * 2 ^ 24)]
    (withRing { ring 0 0 0 0 with slotsz := 128 } (withStore (.index (index [])) (withObj2 40 ixEntry 9 (inTask 1 (regs [(1, nearA)])))))

/-- An append record for the same index. -/
def sAppend : State := words [(nearLoc 0, 40), (nearLoc 0 + 8, 77), (nearLoc 0 + 16, ownClus)] sSearch

/-- A sequence descriptor at the start of the code window, a passage record in near scratch, and the passage's flash store. -/
def sSeq (p : Word) : State :=
  words [(clusLoc 0, ownClus + 0x1000), (clusLoc 0 + 8, 41 + 2 * 2 ^ 16 + 3 * 2 ^ 24 + 1 * 2 ^ 36), (clusLoc 0 + 0x1010, 0x800000000000006A),
      (nearLoc 0, 40 + 1 * 2 ^ 26), (nearLoc 0 + 8, 500), (nearLoc 0 + 16, 7)]
    (withStore (.passages [(500, [List.replicate 8192 3])])
      (withObj2 41 (entInstalled (entry .i8 dieScr 64 4096 64 31) 0) 0
        (withObj2 40 ixEntry 9 (inTask 1 (regs [(1, pcA), (2, p), (3, 102), (5, nearA)])))))

/-- A prefix-index descriptor and a key. -/
def sPrefix : State :=
  words [(clusLoc 0, ownClus + 0x1000), (clusLoc 0 + 8, 2), (nearLoc 0, 0x1235), (nearLoc 0 + 8, ownClus + 0x2000), (nearLoc 0 + 16, 64),
      (clusLoc 0 + 0x1108, 7)]
    (inTask 1 (regs [(1, pcA), (2, nearA), (3, 55)]))

theorem witness_RetrievalWords :
    (Fires .always [4, 1, 2] [] sSearch ∧ sSearch.myCore.inh = false ∧ Quiet sSearch.myCore ∧
      ∃ y, checkSearch (released sSearch) (sSearch.whoCore sSearch.me) (sSearch.myCore.reg 1).toNat
        ((released sSearch).ringName sSearch.me (sSearch.myCore.reg 2) 3) 3 = .ok y ∧ y.queryOk = true) ∧
    (Fires .always [4, 1] [] sAppend ∧ Quiet sAppend.myCore ∧ sAppend.unc (nearLoc 0) 64 = false ∧
      (∃ r, nearRecord sAppend (sAppend.myCore.reg 1).toNat 64 = some r ∧ (r.1 = nearLoc 0 ∧ appendOk r.2 = true ∧
        (appendVector sAppend ((dwordAt r.2 0).getLsbD 16) (dwordAt r.2 16).toNat ixProps.d).isOk = true)) ∧
      (∃ e, sAppend.obj (sAppend.partOf sAppend.me) 40 = some e ∧ sAppend.indexOf (sAppend.partOf sAppend.me) e = some (index []))) ∧
    (Fires .always [4, 1, 5] [] (sSeq 2) ∧ (sSeq 2).myCore.inh = false ∧ Quiet (sSeq 2).myCore ∧ (sSeq 2).unc (nearLoc 0) 32 = false ∧
      (∃ r, nearRecord (sSeq 2) ((sSeq 2).myCore.reg 5).toNat 32 = some r ∧ (r.1 = nearLoc 0 ∧ passageOk r.2 = true ∧
        (checkSeq (sSeq 2) ((sSeq 2).whoCore (sSeq 2).me) ((sSeq 2).myCore.reg 1).toNat).toOption.any
          (fun x => (checkBind (released (sSeq 2)) x r.2).isOk) = true))) ∧
    (∃ x, checkSeq (sSeq 2) ((sSeq 2).whoCore (sSeq 2).me) ((sSeq 2).myCore.reg 1).toNat = .ok x ∧
      (Fires .always [4, 1, 2, 3] [] (sSeq 2) ∧ (sSeq 2).myCore.writesOut = false ∧ ((sSeq 2).myCore.reg 3).toNat < entExt x.pool 1 ∧
        (sSeq 2).unc (x.slotAt (x.slotOf 2).1) 8 = false ∧ (sSeq 2).unc x.loc 64 = false ∧ x.lookupSlot false 2 = some (x.slotOf 2))) ∧
    (∃ k, checkPrefix sPrefix .rd (sPrefix.myCore.reg 1).toNat (sPrefix.myCore.reg 2).toNat = .ok k ∧
      (Fires .always [4, 1, 2] [] sPrefix ∧ sPrefix.myCore.writesOut = false)) ∧
    (∃ k, checkPrefix (released sPrefix) .both (sPrefix.myCore.reg 1).toNat (sPrefix.myCore.reg 2).toNat = .ok k ∧
      (Quiet sPrefix.myCore ∧ sPrefix.myCore.reg 3 ≠ 0 ∧ (k.bucket + 256 ≤ k.desc + 0x28 ∨ k.desc + 0x30 ≤ k.bucket))) := by
  refine ⟨⟨?_, ?_, ?_, ok_and ?_⟩, ⟨?_, ?_, ?_, some_and ?_, some_and ?_⟩, ⟨?_, ?_, ?_, ?_, some_and ?_⟩, ok_and ?_, ok_and ?_,
    ok_and ?_⟩ <;> decide +kernel

def binding (n : Nat) : KvBind :=
  { id := 3, part := 0, inst := 1, core := 0, objs := [40, 41], ctrl := 0, ns := 0, store := 9, slotLoc := clusLoc 0 + 0x1030, nblk := n, pid := 500,
    blk0 := 7, pool := entInstalled (entry .i8 dieScr 64 4096 64 31) 0, flag := 5 }
def sBind (n : Nat) : State := { event (.unit 3) 0 (withInst 1 (inst []) (sSeq 2)) with binds := [binding n] }
def sDurable : State := { event (.unit 3) 0 (at0 id) with appends := [⟨3, 0, 1, 0, 5, 0⟩] }

/-- The search that SRCH starts on `sSearch`. -/
def search0 : Option Search :=
  ((checkSearch (released sSearch) (sSearch.whoCore sSearch.me) ownNear (some 0) 3).toOption).map (·.search)
def sFlash (x : Search) : State := { event (.flash 3 0 true 0) 0 sSearch with searches := [(3, x)] }

theorem witness_ControllerEvents :
    (sDurable.appends.find? (·.id = 3) = some ⟨3, 0, 1, 0, 5, 0⟩) ∧
    ((sBind 1).binds.find? (·.id = 3) = some (binding 1) ∧ ∃ l, (sBind 1).passage (binding 1) = some l ∧ l.length = 1) ∧
    ((sBind 2).binds.find? (·.id = 3) = some (binding 2) ∧ (∃ l, (sBind 2).passage (binding 2) = some l ∧ l.length ≠ 2) ∧
      (sBind 2).insts.find 1 = some (inst [])) ∧
    (∃ x, search0 = some x ∧ (x.props.graph = false ∧ x.mayRead 0 0 = true ∧ x.slot = none ∧
      (x.readList 0 true).any (fun y => !y.1.chooseLists.judge.finished) = true)) ∧
    (∃ x, search0 = some x ∧ ((x.readList 0 true).any (fun y => let z := y.1.chooseLists.judge
      z.mayRead 0 0 && z.node.isNone && (z.readList 0 true).any fun u => u.1.chooseLists.judge.finished &&
        (((sFlash x).ring u.1.chooseLists.judge.ringClus u.1.chooseLists.judge.ring).claim).isSome) = true)) ∧
    ((withStore (.index (index [⟨false, 13, stored64⟩])) (at0 id)).store 0 9 = some (.index (index [⟨false, 13, stored64⟩])) ∧
      genOk ixMerged ixProps = true ∧
      sameMembers (applyLog (indexVectors ixProps ixGen) [⟨false, 13, stored64⟩]) (indexVectors ixProps ixMerged) = true) ∧
    ((at0 id).store 0 9 = none ∧ newStoreOk (.index ixProps ixGen) = true ∧ (at0 id).firmware = .running ∧
      ({ at0 id with firmware := .loader } : State).firmware ≠ .running) := by
  refine ⟨?_, ⟨?_, some_and ?_⟩, ⟨?_, some_and ?_, ?_⟩, some_and ?_, some_and ?_, ⟨?_, ?_, ?_⟩, ⟨?_, ?_, ?_, ?_⟩⟩ <;> decide +kernel

def poolE : BitVec 512 := entInstalled (entry .bf16 dieScr 32 2 8192 31) 0

/-- Objects of a Pavane pass, its descriptors, and its parameter block at offset 0x80 of cluster 0's scratch. -/
def sPav : State :=
  words [(dieScr + 0x9000, dieScr + 0x9100), (dieScr + 0x9008, 41 + 3 * 2 ^ 24), (dieScr + 0x9100, 0x8000000000000001),
      (dieScr + 8192 + 4, 0x3F803F80), (clusLoc 0 + 0x80, 0), (clusLoc 0 + 0x88, dieScr + 0x9000), (clusLoc 0 + 0x90, 42 + 43 * 2 ^ 16),
      (clusLoc 0 + 0x98, 0xFFFFFFFF * 2 ^ 32)]
    (withObj 41 poolE (withObj 42 (entInstalled (entry .bf16 (dieScr + 0x4000) 32 1 64 31) 0)
      (withObj 43 (entInstalled (entry .bf16 (dieScr + 0x8000) 32 1 64 31) 0) (at0 id))))

def pass0 : Option Pass := (checkPass sPav 0 0 (ownClus + 0x80)).toOption

def withPass (st : List Word) (ops : List PavOp) (p : Pass) : Pass := { p with stack := st, ops := ops, inst := 1, flag := 5 }

/-- Cluster 0 runs the pass that `sPav` describes, with this stack and these operations. -/
def sPass (p : Pass) : State := event (.unit 0) 99 (sPav.setPass 0 (some p))

def op (o b : Nat) : PavOp := ⟨0, o, b, false, 0, none, none⟩

theorem witness_PavaneWords : ∃ p, pass0 = some p ∧
    ((sPass (withPass [1, 2] [] p)).passOf (sPass (withPass [1, 2] [] p)).clus = some (withPass [1, 2] [] p) ∧ p.pc + 1 < 4096 ∧
      (∀ o ∈ (withPass [1, 2] [op 0x11 0] p).ops, o.op ≠ 0x14) ∧
      8 < ((7 : Word) :: (withPass [1, 2, 3, 4, 5, 6, 7, 8] [] p).stack).length ∧ 0 ≤ microTarget p 9 ∧ microTarget p 9 < 4096 ∧
      microTarget p (-9) < 0 ∧ opGroup (op 0x11 0).op = 0 ∧ (3 : BitVec 4).getLsbD 0 = true ∧ (12 : BitVec 4).getLsbD 0 = false ∧
      p.node = none ∧ ((sPass p).cluster (sPass p).clus).pav.reqs = []) := some_and (by decide +kernel)

/-- A pass in a ring, with a triple ready in ring 3. -/
def ringPass (p : Pass) : Pass :=
  { withPass [] [] p with params := (p.params.set 6 (BitVec.ofNat 64 dieScr)).set 5 (3 + 5 * 2 ^ 8 + 2 * 2 ^ 24) }
def sMerge (r : Ring) (p : Pass) : State := withRing { r with slotsz := 512 } (sPav.setPass 0 (some (ringPass p)))

theorem witness_PavaneLaunchWords : ∃ p, pass0 = some p ∧
    ((sPass p).tokenAt 1 = false ∧ (∃ o ∈ (withPass [] [op 0x14 0] p).ops, o.op = 0x14) ∧ (∀ o ∈ (ringPass p).ops, o.op ≠ 0x14) ∧
      (withPass [] [op 0x11 0] p).mergeBusy = true ∧ (ringPass p).mergeBusy = false ∧
      ({ sPass { p with inst := 1 } with tokens := [] }.tokenAt 1 = false) ∧ (p.ops.filter fun e => opGroup e.op = 2).length < 4 ∧
      4 ≤ ((withPass [] (List.replicate 4 (op 0x11 0)) p).ops.filter fun e => opGroup e.op = opGroup 0x11).length ∧
      (sPass { withPass [] [] p with inst := 1 }).passOf 0 = some (withPass [] [] p) ∧
      (kvblkSlot (sPass (withPass [0] [] p)) 0 (withPass [] [] p) false 0).isOk = true ∧
      (op 0x11 2).usesBuf = true ∧ (ringPass p).stateBusy = false ∧
      (groupLoc (sMerge (ring 1 1 0 0) p) 0 (ringPass p) .rd).isOk = true ∧
      ((sMerge (ring 1 1 0 0) p).ringOf (ringPass p).part 0 (ringPass p).inRing).isSome = true ∧
      ((sMerge (ring 0 0 0 0) p).ring 0 (ringPass p).inRing).take = none ∧
      (((sMerge (ring 1 1 0 0) p).ring 0 (ringPass p).inRing).take).isSome = true ∧
      ((((dwordAt ((sMerge (ring 1 1 0 0) p).homeBytes ((ring 1 1 0 0).slotLoc 0 0) (ringPass p).tripleBytes) 0).extractLsb' 0 32).toNat =
        (ringPass p).revn.toNat))) := some_and (by decide +kernel)

def sAstart : State := { inTask 16 (regs [(1, BitVec.ofNat 64 (ownClus + 0x80))]) with mem := sPav.mem }
def requests : List PavReq := (coresOf 0).map fun g => ⟨g, 1, some 0, BitVec.ofNat 64 (ownClus + 0x80), 5⟩
def sReqs (l : List PavReq) : State := event (.unit 0) 9 (sPav.updCluster 0 fun x => { x with pav := { x.pav with reqs := l } })

/-- A payload that cluster 0's TRIPLE has sent to ring 3. -/
def tripled : Delivery := { id := 4, part := 0, clus := 0, ring := 3, bytes := [1, 2, 3], cmd := none, pav := some 0, sender := 0 }
def sTripled (p : Pass) : State := { withRing (ring 1 0 0 0) (sPass p) with deliveries := [tripled], arg := .pair 2 4 }

theorem witness_AttentionPasses :
    (Fires .always [4, 1] [] sAstart ∧ sAstart.myCore.inh = false ∧ sAstart.inSixteen sAstart.me = true ∧
      astartPlace (sAstart.myCore.reg 1).toNat = true ∧ Quiet sAstart.myCore ∧
      blockLoc sAstart (clusOf sAstart.me) (sAstart.partOf sAstart.me) (sAstart.myCore.reg 1).toNat = some (clusLoc 0 + 0x80) ∧
      firstReqs 0 [⟨0, 1, sAstart.myCore.task, sAstart.myCore.reg 1, 5⟩] = none) ∧
    (firstReqs 0 ((sReqs requests).cluster 0).pav.reqs = some requests ∧ (∀ x ∈ requests, x.blk = 0x80 + BitVec.ofNat 64 ownClus ∧ x.flag = 5) ∧
      (sReqs requests).passOf 0 = none ∧ (checkPass (takeReqs (sReqs requests) 0 (some 0)) 0 0 (ownClus + 0x80)).isOk = true) ∧
    (∃ p, pass0 = some p ∧ ((withPass [] [op 0x11 1] p).nextOp = some 0 ∧ (withPass [] [op 0x10 1] p).nextOp = some 0 ∧
      (withPass [] [op 0x14 1] p).nextOp = some 0 ∧ p.ring = false ∧ (op 0x11 1).buf < 4 ∧ p.fmt ≠ .mx4 ∧ 0 < p.qry.length ∧ 0 < p.rows ∧
      (∀ r, r < p.o.length → ((p.buf 1).probs.getD r []).length = 64 ∧ (p.o.getD r []).length = p.dh) ∧ 0 < p.o.length ∧
      (let u := withPass [] [op 0x14 1] (ringPass p)
       u.ring = true ∧ u.nextOp = some 0 ∧ (groupLoc (sPass u) 0 u .wr).isOk = true ∧
         (locatePieces (u.view (sPass u)) (pavWho 0 u.part) .wr u.outPieces).isOk = true) ∧
      (let u : Pass := { withPass [] [op 0x15 1] p with params := p.params.set 4 3 }
       let s (n : BitVec 16) : State := withRing { ring 1 0 0 0 with slotsz := n } (sPass u)
       u.nextOp = some 0 ∧ desigOk (s 512) u.part 3 = true ∧ u.params.getD 4 0 = 3 ∧ desigRemote 3 = false ∧
         (triplePayload u).length ≤ ((s 1024).ring 0 3).slotsz.toNat ∧ ((s 64).ring 0 3).slotsz.toNat < (triplePayload u).length) ∧
      ((sTripled p).deliveries.find? (·.id = 4) = some tripled ∧ tripled.pav = some 0 ∧ (sTripled p).deliveryBehind tripled = false ∧
        (((sTripled p).ring 0 3).claim).isSome = true ∧ (sTripled p).passOf 0 = some p) ∧
      ((sPass (withPass [] [op 0x10 1] p)).kvblk 0 (withPass [] [op 0x10 1] p) (op 0x10 1)).isOk = true ∧
      (locatePieces (sPass p) (pavWho 0 p.part) .wr p.outPieces).isOk = true ∧
      ({ p with mergeDeadline := some 90 } : Pass).mergeDeadline = some 90 ∧ 90 ≤ (sPass p).cycle)) ∧
    (((sReqs (requests.take 3)).cluster 0).pav.reqs = requests.take 3 ∧ 9 ∈ coresOf 0 ∧ (sReqs (requests.take 3)).partEnded (some 0) 9 = true ∧
      ∀ x ∈ requests.take 3, x.core ≠ 9) := by
  refine ⟨?_, ?_, some_and ?_, ?_⟩ <;> decide +kernel

/-- A started SEND of core 0 to ring 3. -/
def sendK : CmdKind := .send srcR 3
def sOut : State := withCmd sendK (withRing (ring 1 0 0 0) sCopy)
def arrived : Delivery := { id := 4, part := 0, clus := 0, ring := 3, bytes := [1, 2, 3], cmd := none, pav := none, sender := 9 }
def sArrived : State := { withRing (ring 1 0 0 0) (at0 id) with deliveries := [arrived], arg := .pair 2 4 }
def payload : Payload := { (default : Payload) with clus := 0, ring := 3, data := [1, 2, 3], port := 2, dtag := some 6 }
def sDomain (b : Bool) : State :=
  { withRing { ring 1 0 0 0 with dlv := b } ((at0 id).updPart 0 fun x => { x with dtag := some 6 }) with
    inDomain := true, ports := 255, arg := .payload payload }

/-- As `openRound`, on object 44. -/
def farRound (n k : Nat) : Round := { openRound n k with obj := 44 }
/-- A remote contribution to object 44, of rank 0 of `n` sources, and the state that it meets with the rounds `rs`. -/
def remotePl (o n : Nat) : Payload :=
  { payload with red := true, rtype := .f32, rop := .add, ordered := true, srcs := n, obj := o, box := dstR.box, data := List.replicate 64 0 }
def sRemote (pl : Payload) (rs : List Round) : State :=
  { (withObj 44 (entry .f32 (dieScr + 256) 4 4 16 31) sCopy).updPart 0 (fun x => { x with dtag := some 6 }) with inDomain := true, ports := 255, arg := .payload pl, rounds := rs }
def remoteIs (pl : Payload) (rs : List Round) (p : RedIn → Bool) : Bool := (redPayload (sRemote pl rs) pl).any p

theorem witness_DeliveryAndLinkEvents_red :
    (remotePl 44 1).red = true ∧ (sRemote (remotePl 44 1) []).ports.getLsbD (remotePl 44 1).port = true ∧
    redPayload (sRemote (remotePl 99 1) []) (remotePl 99 1) = none ∧ AllStarted (sRemote (remotePl 44 1) []) ∧
    (∀ x ∈ [((1 : Nat), ([] : List Round)), (2, []), (2, [farRound 2 1])], remoteIs (remotePl 44 x.1) x.2 (fun y =>
      !y.mixed (sRemote (remotePl 44 x.1) x.2) && !y.waits (sRemote (remotePl 44 x.1) x.2) &&
        ((sRemote (remotePl 44 x.1) x.2).piecesUnc (y.pieces (sRemote (remotePl 44 x.1) x.2))).isNone) = true) ∧
    remoteIs (remotePl 44 2) [farRound 3 1] (fun y => y.mixed (sRemote (remotePl 44 2) [farRound 3 1])) = true ∧
    remoteIs (remotePl 44 3) [farRound 3 0] (fun y => !y.mixed (sRemote (remotePl 44 3) [farRound 3 0]) &&
      y.waits (sRemote (remotePl 44 3) [farRound 3 0])) = true ∧
    (redPayload { sRemote (remotePl 44 1) [] with memunc := [dieScr + 256] } (remotePl 44 1)).any (fun y =>
      ((({ sRemote (remotePl 44 1) [] with memunc := [dieScr + 256] } : State).piecesUnc (y.pieces (sRemote (remotePl 44 1) []))).isSome)) = true := by
  decide +kernel

theorem witness_DeliveryAndLinkEvents :
    sOut.cmd 7 = some (cmd0 sendK) ∧ AllStarted sOut ∧ desigRemote 3 = false ∧ sOut.sendBehind (cmd0 sendK) 3 = false ∧ (sOut.quiesced && sOut.inDomain) = false ∧
    (let s : State := { sOut with quiesced := true, inDomain := true }
     s.cmd 7 = some (cmd0 sendK) ∧ s.quiesced = true ∧ s.inDomain = true) ∧
    ((sOut.ring (desigClus 3) (desigRing 3)).claim).isSome = true ∧
    sOut.piecesUnc (cmdPieces sOut (cmd0 sendK) .rd srcR.runs) = none ∧
    sArrived.deliveries.find? (·.id = 4) = some arrived ∧ arrived.pav = none ∧ sArrived.deliveryBehind arrived = false ∧
    ((sArrived.ring arrived.clus arrived.ring).claim).isSome = true ∧
    (sDomain true).inDomain = true ∧ (sDomain true).ports.getLsbD payload.port = true ∧ payload.red = false ∧
    (sDomain true).takesPayload payload = true ∧ (sDomain false).takesPayload payload = false ∧
    (∀ m ∈ (sDomain true).links, m.port ≠ 3) := by decide +kernel

theorem witness_ControlRegisters : csrValue sAB sAB.me 0x000 = some 0 ∧ sAB.myCore.ready [4] [] = true ∧ sAB.myCore.csrWaits 0x000 = false ∧
    (at0 (setEng .load [] [⟨0, none, none, none⟩])).myCore.csrWaits 0x011 = true ∧
    (at0 (setEng .load [] [⟨0, none, none, none⟩])).myCore.ready [4] [] = true ∧ (511 < 512 ∧ State.reset.partOf 511 < 8) ∧
    (0x777 ∉ [0x011, 0x060, 0x080, 0x0A0, 0x0A1, 0x0A2, 0x0B8, 0x0C0, 0x0C1]) ∧ sAB.myCore.drained = true ∧
    (at0 (setEng .load [] [⟨0, none, none, none⟩])).myCore.drained = false := by decide +kernel

/-- Eight words of a record. -/
def put64 (loc : Nat) (e : BitVec 512) : List (Nat × Nat) := (List.range 8).map fun i => (loc + 8 * i, bitsOf e.toNat (64 * i) 64)

def e40 : BitVec 512 := entry .f32 ownClus 4 4 16 15

/-- An entry image, a ring image and a queue's configuration stand in core 0's near scratch; the table holds entry 41. -/
def area (f : State → State) : State :=
  words (put64 (nearLoc 0) (BitVec.ofNat 512 (e40.toNat - 2 ^ 69)) ++ put64 dieScr tileRec ++
      [(nearLoc 0 + 128, ownClus + 0x100), (nearLoc 0 + 136, 64 + 4 * 2 ^ 16), (nearLoc 0 + 144, 1 + 2 * 2 ^ 13 + 100 * 2 ^ 32),
        (nearLoc 0 + 152, dieScr)])
    (withObj 41 (entInstalled e40 0) (f (at0 id)))

/-- Core 0 calls with `a` in s2 and the registers after it. -/
def call (a : List Word) (f : State → State) : State := (area f).updCore 0 fun c => regs (([2, 3, 4, 5] : List (BitVec 6)).zip a) c

/-- Service firmware calls for core 0. -/
def served (a : List Word) (f : State → State) : State := { area f with arg := .service 0 (a.getD 0 0) (a.getD 1 0) (a.getD 2 0) (a.getD 3 0) }

/-- The arguments of a core's call, and of service firmware's. -/
def argOf (s : State) (n : Nat) : Nat := (s.myCore.reg (BitVec.ofNat 6 n)).toNat
def argSvc (a : List Word) (n : Nat) : Nat := (([0, 0] ++ a).getD n 0).toNat

/-- The page of 1 GiB at 0x4000_0000 is mapped in partition 0. -/
def mapped (s : State) : State :=
  s.updPart 0 fun x =>
    { x with root := some 0x1000000, pages := [(pteKey 0 0x40000000, 0x2000001), (pteKey 1 0x40000000, leafEntry 0x80000000 3 false)] }
def oldPage : PageMap := ⟨0x40000000, 0x40000000, 0x80000000, 1⟩

/-- Core 5 has a store on its way to that page. -/
def storing (s : State) : State := s.updCore 5 (setOut [.store (physBase + 0x80000000) [1] 0x40000000])
def remap (n : Nat) : Remap := ⟨n, [oldPage], [], 9, some 5⟩
def remapping (n : Nat) (s : State) : State := mapped (s.updPart 0 fun x => { x with remap := some (remap n) })

/-- A call of `a` meets the hypotheses of a clause, with `f` done to the machine before it. -/
abbrev Meets (mk : List Word → (State → State) → State) (ok : State → Bool) (r : State → State) (arg : List Word → State → Nat → Nat)
    (a : List Word) (f : State → State) (p : State → State → (Nat → Nat) → Bool) : Prop :=
  (ok (mk a f) && p (mk a f) (r (mk a f)) (arg a (mk a f))) = true

/-- The hypotheses of the clauses of `AnyCalls` are met, for a caller whose calls `mk` makes; `x.any p` says that there is an `e` with
`x = some e` and `p e`. -/
abbrev CallsMet (mk : List Word → (State → State) → State) (ok : State → Bool) (r : State → State) (arg : List Word → State → Nat → Nat)
    (who : Nat) : Prop :=
  let m := Meets mk ok r arg
  let used (s : State) := s.updCore 3 (setEng .load [{ qe (.vmov plain 4 1 0) with sa := ⟨true, 41, 0, 0, 0, 0, 0⟩ }] [])
  m [40, nearA] id (fun _ r a => a 2 < 65536 && r.objUsed 0 (a 2) = false && (objImage r 0 (a 3)).any fun e => entryOk e) ∧
  m [65536, nearA] id (fun _ _ a => 65536 ≤ a 2) ∧ m [40, 8] id (fun _ r a => objImage r 0 (a 3) = none) ∧
  m [40, nearA + 64] id (fun _ r a => (objImage r 0 (a 3)).any fun e => entryOk e = false) ∧
  m [41] id (fun s r a => ((s.part 0).objs.find (a 2)).isSome && r.objUsed 0 (a 2) = false) ∧
  m [41] used (fun s r a => ((s.part 0).objs.find (a 2)).isSome && r.objUsed 0 (a 2)) ∧
  m [40] id (fun s _ a => (s.part 0).objs.find (a 2) = none) ∧
  m [0, 3, nearA + 128] id (fun s r a => a 2 ≤ 32 && a 3 < 64 && (s.cluster 0).part = 0 && (s.ring 0 3).claimed = (s.ring 0 3).head &&
    (sysBytes r 0 (a 4) 16).any fun bs => ringImageOk r 0 0 (dwordAt bs 0) (dwordAt bs 8)) ∧
  m [1, 3, nearA + 128] (withRing (ring 1 0 0 0)) (fun s r a => a 2 ≤ 32 && a 3 < 64 && (s.ring 0 3).claimed ≠ (s.ring 0 3).head &&
    (sysBytes r 0 (a 4) 16).any fun bs => ringImageOk r 0 0 (dwordAt bs 0) (dwordAt bs 8)) ∧
  m [3, 63] (fun s => s.updCluster 2 fun x => { x with part := 1 }) (fun s _ a => a 2 ≤ 32 && a 3 < 64 && (s.cluster (a 2 - 1)).part ≠ 0) ∧
  m [5, nearA + 144] id (fun _ r a => a 2 < 1024 && (r.xq 0 (a 2)).elim false (fun q => q.descs != []) = false &&
    (sysBytes r 0 (a 3) 16).any fun bs => xqConfigOk r 0 (BitVec.ofNat 128 (bytesNat bs))) ∧
  m [1023, nearA + 256] id (fun _ r a => a 2 < 1024 &&
    (sysBytes r 0 (a 3) 16).any fun bs => xqConfigOk r 0 (BitVec.ofNat 128 (bytesNat bs)) = false) ∧
  m [0x40000000, 4096, 4, 3] id (fun s r a => (s.part 0).remap = none && (s.part 0).root = none && s.usedPages = [] && a 4 ≤ 4 && a 5 < 4 &&
    a 2 % pageSize (a 4) = 0 && a 3 ≠ 0 && a 2 + roundUp (a 3) (pageSize (a 4)) ≤ winBase && roundUp (a 3) (pageSize (a 4)) / pageSize (a 4) = 1 &&
    ((s.part 0).mapped.filter fun x => x.meets (a 2) (roundUp (a 3) (pageSize (a 4)))) = [] && (s.part 0).pages = [] && s.mem.wf &&
    r.pagesUsed 0 ⟨who, [], [], s.nextId, some 0x40000000⟩ = false) ∧
  m [0x40000000, 4096, 4, 3] (fun s => storing (mapped s)) (fun s r a => (s.part 0).remap = none && s.rootOf 0 = some 0x1000000 &&
    ((s.part 0).mapped.filter fun x => x.meets (a 2) (roundUp (a 3) (pageSize (a 4)))) = [oldPage] && oldPage.size ≤ pageSize (a 4) &&
    (mapPages (a 4) (a 5) (⟨0, 65536, 0x1000000, 0⟩ :: s.usedPages) [oldPage] (s.part 0).pages [a 2]).isSome &&
    r.pagesUsed 0 ⟨who, [oldPage], (s.part 0).pages, s.nextId, some 0x40000000⟩) ∧
  (∀ g ∈ [(mapped, false), (fun s => storing (mapped s), true)], m [0x40000000, 0x40000000] g.1 fun s r a => (s.part 0).remap = none && a 2 % 4096 = 0 &&
    a 3 % 4096 = 0 && a 3 ≠ 0 && a 2 + a 3 ≤ winBase && ((s.part 0).mapped.filter fun x => x.meets (a 2) (a 3)) = [oldPage] &&
    a 2 ≤ oldPage.va && oldPage.va + oldPage.size ≤ a 2 + a 3 && r.pagesUsed 0 ⟨who, [oldPage], (s.part 0).pages, s.nextId, none⟩ = g.2) ∧
  m [1] (remapping who) (fun s r _ => (s.part 0).remap = some (remap (s.caller 0)) && r.pagesUsed 0 (remap (s.caller 0)) = false) ∧
  m [] (fun s => storing (remapping who s)) (fun s r _ => (s.part 0).remap = some (remap (s.caller 0)) && r.pagesUsed 0 (remap (s.caller 0))) ∧
  m [] (remapping 7) (fun s _ _ => (s.part 0).remap = some (remap 7) && 7 ≠ s.caller 0) ∧
  m [] (fun s => { s with sigNext := 1048576 }) (fun s _ _ => 1048576 ≤ s.sigNext) ∧
  m [nearA, nearA + 0x100] id (fun s r a => s.sigNext < 1048576 && (sysBytes r 0 (a 2) 32).isSome && a 3 = ownNear + 0x100 && (r.whoCore 0).own = some 0)

/-- A report of any size that fits below the end of near scratch has its place there. -/
theorem near_range (r : State) (w : Who) (hw : w.own = some 0) (n : Nat) (h : n ≤ 7000) : ∃ rs, resolveRange r w .wr (ownNear + 0x100) n = .ok rs := by
  have h1 : ¬vaLimit ≤ ownNear + 0x100 := by decide
  have h2 : winBase ≤ ownNear + 0x100 := by decide
  have h3 : winLoc r w (ownNear + 0x100) = some (nearLoc 0 + (ownNear + 0x100 - ownNear)) := by
    rw [winLoc, if_pos (by decide), hw]; rfl
  have h4 : winGap r w (ownNear + 0x100) (min (ownNear + 0x100 + n) (winEnd (ownNear + 0x100))) = none := by
    rw [winGap, if_neg (by decide), if_neg (by decide)]
  have h5 : ¬winEnd (ownNear + 0x100) < ownNear + 0x100 + n := by
    have : ownNear + 0x100 + 7000 ≤ winEnd (ownNear + 0x100) := by decide
    omega
  have h6 : window r w (ownNear + 0x100) n = .ok (some (nearLoc 0 + (ownNear + 0x100 - ownNear))) := by
    simp only [window, if_neg h1, if_neg (Nat.not_lt.mpr h2), h3, h4, if_neg h5]
  have h7 : isCtl (ownNear + 0x100) = false := by decide
  rw [resolveRange, if_pos h2, resolve, h6]
  simp only [h7]
  exact ⟨_, rfl⟩

/-- With at most two pages in use, each within a die, a page is found wherever the firmware looks first. -/
theorem finds (used : List PageMap) (first n : Nat) (hn : n = 4096 ∨ n = 65536 ∨ n = 0x40000000) (hl : used.length ≤ 2)
    (hd : ∀ m ∈ used, 0 < m.size ∧ m.pa % 0x8000000000 + m.size ≤ 0x8000000000) :
    ∃ pa, findPage used first n = some pa ∧ pa % 0x8000000000 + n ≤ 0x8000000000 := by
  have hs : (findPage used first n).isSome = true := by
    by_contra h
    rw [Bool.not_eq_true, Option.isSome_eq_false_iff, Option.isNone_iff_eq_none, findPage, List.find?_eq_none] at h
    have h0 := h 0 (List.mem_map.mpr ⟨0, by simp, by obtain rfl | rfl | rfl := hn <;> decide⟩)
    have h1 := h 0x8000000000 (List.mem_map.mpr ⟨0x8000000000, by simp, by obtain rfl | rfl | rfl := hn <;> decide⟩)
    have h2 := h 0x10000000000 (List.mem_map.mpr ⟨0x10000000000, by simp, by obtain rfl | rfl | rfl := hn <;> decide⟩)
    clear h
    match used, hl with
    | [], _ => simp [freeAt] at h0; omega
    | [a], _ => simp [freeAt] at h0 h1 h2 hd; omega
    | [a, b], _ => simp [freeAt] at h0 h1 h2 hd; omega
  obtain ⟨pa, h⟩ := Option.isSome_iff_exists.mp hs
  have := List.find?_some h
  simp only [freeAt, Bool.and_eq_true, decide_eq_true_eq] at this
  exact ⟨pa, h, by omega⟩

/-- A page of one table level is mapped in empty tables when a page and a table are free. -/
theorem map_page (z rights va pa pt : Nat) (used : List PageMap) (hl : (sizeLevel z).1 = 1)
    (hp : findPage used (Config.freePage used.length z) (pageSize z) = some pa)
    (ht : findPage (⟨va, pageSize z, pa, 1⟩ :: used) (Config.freePage (used.length + 1) 0) 4096 = some pt) :
    ∃ t ms, mapPages z rights used [] [] [va] = some (t, ms) := by
  simp [mapPages, choosePage, hl, hp, openTables, clearRange, ht, pteV, Tab.get, Tab.find]

/-- So MAP of 1 GiB finds its page, whatever the root's place. -/
theorem map_one (s : State) (hs : (s.part 0).root = none) (hu : s.usedPages = []) : ∃ root, s.rootOf 0 = some root ∧
    ∃ t ms, mapPages 4 3 (⟨0, 65536, root, 0⟩ :: s.usedPages) [] [] [0x4000_0000] = some (t, ms) := by
  have e : pageSize 4 = 0x40000000 := by decide +kernel
  obtain ⟨root, hr, hb⟩ := finds [] (Config.freePage 0 1) 65536 (by simp) (by simp) (by simp)
  obtain ⟨pa, hp, hq⟩ := finds [⟨0, 65536, root, 0⟩] (Config.freePage 1 4) 0x40000000 (by simp) (by simp) (by simp; omega)
  obtain ⟨pt, ht, -⟩ := finds [⟨0x4000_0000, 0x40000000, pa, 1⟩, ⟨0, 65536, root, 0⟩] (Config.freePage 2 0) 4096 (by simp) (by simp)
    (by simp; omega)
  rw [← e] at hp
  refine ⟨root, by simp [State.rootOf, hs, hu, hr], ?_⟩
  rw [hu]
  exact map_page 4 3 0x40000000 pa pt _ rfl hp (by rw [e]; exact ht)

/-- A core's call is ready, and service firmware's is made. -/
def coreOk (s : State) : Bool := s.arg = .none && s.myCore.ready [1, 2, 3, 4, 5, 6, 7, 8] [] && s.myCore.settled && s.myCore.smb = []
def svcOk (s : State) : Bool := s.firmware = .running && (match s.arg with
  | .service 0 .. => true
  | _ => false)

theorem calls_core (s : State) (h : coreOk s = true) : Calls s := by
  simp only [coreOk, Bool.and_eq_true, decide_eq_true_eq] at h
  obtain ⟨⟨⟨h1, h2⟩, h3⟩, h4⟩ := h
  exact ⟨fun _ _ _ _ _ e => Arg.noConfusion (h1.symm.trans e), h2, h3, h4⟩

theorem witness_SystemCalls : CallsMet call coreOk released (fun _ => argOf) 0 := by decide +kernel

theorem report_fits : Config.reportSize ≤ 7000 := by have := Config.reportExtra.isLt; simp only [Config.reportSize]; omega

theorem witness_SystemCalls_attest : ∃ rs, resolveRange (released (call [] id)) ((released (call [] id)).whoCore 0) .wr (ownNear + 0x100)
    Config.reportSize = .ok rs := near_range _ _ (by decide +kernel) _ report_fits

theorem witness_SystemCalls_map (a : List Word) : ∃ root, (call a id).rootOf 0 = some root ∧
    ∃ t ms, mapPages 4 3 (⟨0, 65536, root, 0⟩ :: (call a id).usedPages) [] [] [0x4000_0000] = some (t, ms) :=
  map_one _ (by cases a <;> rfl) (by cases a <;> rfl)

theorem witness_AnyCalls_service : CallsMet served svcOk id (fun a _ => argSvc a) 512 := by decide +kernel

/-- Service firmware calls with `a` and `b`. -/
def svcAt (a b : Word) (s : State) : State := { s with arg := .service 0 a b 0 0 }

theorem witness_ServiceCalls :
    (let s := svcAt 1 0 (inTask 1 id);
      Serves s 0 1 0 0 0 ∧ s.taskNamed 1 0 = some 0 ∧ s.tasks.find 0 = some (task 1) ∧ (task 1).trip ≠ 0 ∧ (task 1).saving = false ∧
        (∀ g ∈ (task 1).cores, (s.core g).phase = .prologue ∨ (s.core g).phase = .kernel) ∧ s.clusIdle 0 = false ∧ s.taskNamed 2 9 = none) ∧
    Serves (svcAt 2 9 (inTask 1 id)) 0 2 9 0 0 ∧ (svcAt 2 9 (inTask 1 id)).taskNamed 2 9 = none ∧
    Serves (svcAt 0 1 (inTask 1 id)) 0 0 1 0 0 ∧ (svcAt 0 1 (inTask 1 id)).clusIdle 0 = false ∧
    Serves (svcAt 3 0 (at0 id)) 0 3 0 0 0 ∧ Serves (svcAt 32 0 (at0 id)) 0 32 0 0 0 ∧ Serves (svcAt 0 8 (at0 id)) 0 0 8 0 0 ∧
    (at0 id).ckpt = none ∧ (svcAt 0 0 { at0 id with ckpt := some 3 }).ckpt.isSome = true ∧
    (let s := svcAt 2 1 (at0 id); Serves s 0 2 1 0 0 ∧ s.clusIdle 2 = true ∧ (s.cluster 2).part ≠ 1 ∧ s.swapped.find (swapKey 1 2) = none ∧
      s.mem.wf = true ∧ ∀ x ∈ s.cores, x.2.storesTo (inCluster 2) = false) := by decide +kernel

def debugged (s : State) : State := s.updPart 0 fun x => { x with debug := true }

/-- Core 0 in handler mode for a fault of class D, Q or an arithmetic entry. -/
def sHandler (e : Option Eng) (cause : Nat) : State :=
  at0 fun c => setEng .arith [qe (.vmov plain 4 1 0)] []
    { setInh c with faultRep := (inTask 1 id).report 0 pcA (pcA + 16) { cause := cause, eng := e } }

theorem witness_HandlerEntryAndReturn :
    (let s := inTask 1 fun c => { c with hndCtl := 15, hndBase := BitVec.ofNat 52 (ownClus + 64) };
      Delivers350 s ∧ s.myCore.inh = false ∧ (s.part (s.partOf s.me)).debug = false ∧ s.myCore.handles .debug = true ∧ s.myCore.smb = []) ∧
    (Delivers350 (debugged (inTask 1 id)) ∧ ((debugged (inTask 1 id)).part 0).debug = true) ∧
    (Delivers350 (withInst 1 (inst []) (inTask 1 id)) ∧ (withInst 1 (inst []) (inTask 1 id)).myCore.handles .debug = false ∧
      (withInst 1 (inst []) (inTask 1 id)).insts.find 1 = some (inst []) ∧ (inst []).cancelled = none) ∧
    ((sHandler none cDBRK).myCore.inh = true ∧ (sHandler none cDBRK).myCore.phase ≠ .ended ∧
      ((sHandler none cDBRK).updMe (setPhase .ended)).myCore.phase = .ended ∧ repEng (sHandler none cDBRK).myCore.faultRep = none) ∧
    (repEng (sHandler (some .arith) cMSTACK).myCore.faultRep = some .arith ∧ (sHandler (some .arith) cMSTACK).myCore.phase ≠ .ended ∧
      ((sHandler (some .arith) cMSTACK).myCore.getEng .arith).queue = [qe (.vmov plain 4 1 0)]) ∧
    (at0 id).myCore.inh = false ∧ 56 ≤ (57 : BitVec 6).toNat ∧ (Delivers350 (inTask 1 setInh) ∧ (inTask 1 setInh).myCore.inh = true) ∧
    (Fires .always [1, 2] [] (inTask 1 setInh) ∧ Fires .always [1, 2, 3] [] (inTask 1 setInh)) ∧
    (decodeWord (encode (.vmov plain 4 1 0)) = .ok (.vmov plain 4 1 0) ∧ ((Instr.vmov plain 4 1 0).engine).isSome = true) := by decide +kernel

def sHalted : State := debugged (inTask 1 fun c => regs [(2, nearA + 8), (3, 16)] { c with halted := true, stopped := true })

theorem witness_DebugResults : (let s := at0 fun c => { regs [(2, 5)] c with traceCtl := 1 };
      s.myCore.ready [2] [] = true ∧ s.myCore.traceCtl.getLsbD 0 = true ∧
        ((s.die (dieOf s.me)).traces.get (s.partOf s.me) []).length < Config.traceCapacity) ∧
    (at0 id).myCore.traceCtl.getLsbD 0 = false ∧
    (sHalted.myCore.ready [2, 3] [] = true ∧ (sHalted.myCore.engs.all fun e => e.queue = []) = true ∧
      (wpLocate sHalted (sHalted.whoCore sHalted.me) (wpNeed .rw) (sHalted.myCore.reg 2).toNat (sHalted.myCore.reg 3).toNat).isOk = true) ∧
    (sHalted.tasks.find 0 = some (task 1) ∧ (sHalted.part (task 1).part).debug = true ∧
      ∀ g ∈ (task 1).cores, (sHalted.core g).stopped = true ∧ (sHalted.core g).drained = true) ∧
    sHalted.dbgOk 0 0 = true ∧ csrValue sHalted 0 0x002 = some 0 ∧ sysBytes sHalted 0 ownNear 8 = some (List.replicate 8 0) ∧
    (resolveRange sHalted (sHalted.whoCore 0) .wr ownNear 3).isOk = true ∧ (∃ g ∈ (task 1).cores, (sHalted.core g).halted = true) := by
  decide +kernel

/-- Sixteen attached cores with an ADD at the start of the code. -/
def sQuad : State :=
  words [(clusLoc 0, 0x010000C308000000)] ({ inTask 16 setAtt with arg := .unit 0 }.updCluster 0 fun x =>
    { x with quad := startQuad { task 16 with pro := pcA } })

/-- The Quadrille waits at a JMPR that core 0 resolves. -/
def sLead : State :=
  (inTask 16 fun c => regs [(2, pcA + 80)] { c with att := true, qpos := 0 }).updCluster 0 fun x =>
    { x with quad := { startQuad { task 16 with pro := pcA } with run := .paused, win := [⟨pcA, encode (.jmpr 2), false, none, 0⟩] } }

/-- An attached core of a sixteen-core set whose next address the Quadrille holds as another one. -/
def sDiv (f : Core → Core) : State := (sRef (some 0) 0).updMe fun c => f (regs [(4, 0), (62, pcA + 64)] c)

/-- The same in the kernel, with level 0 as `x`. -/
def sDivK (x : LoopLv) : State := sDiv fun c => setPhase .kernel (looped 0 x (withLoops c (.reset)))

/-- `Diverts` and `Disagrees` as tests. -/
def divB (s : State) (next : Word) (trip : BitVec 32) : Bool :=
  s.myCore.att && (s.entryOf s.me).any fun e => e.ref.any fun r => r != next || e.trip != trip
def disB (s : State) (next : Word) : Bool := s.myCore.att && (s.entryOf s.me).any fun e => e.ref != some next

theorem diverts_of {s : State} {next : Word} {trip : BitVec 32} (h : divB s next trip = true) : Diverts s next trip := by
  simpa [divB, Diverts, Option.any_eq_true] using h

theorem disagrees_of {s : State} {next : Word} (h : disB s next = true) : Disagrees s next := by
  simpa [disB, Disagrees, Option.any_eq_true] using h

theorem witness_QuadrilleFollows_departs :
    (let s := sDiv id
     s.myCore.ready [] [1] = true ∧ codeOk (target s 2) = true ∧ divB s (target s 2) 0 = true ∧ divB s (s.myCore.pc + 8) 0 = true ∧
       s.myCore.ready [3, 62] [] = true ∧ codeOk (s.myCore.reg 3) = true ∧ divB s (s.myCore.reg 3) 0 = true ∧ codeOk (s.myCore.reg 62) = true ∧
       divB s (s.myCore.reg 62) 0 = true ∧ (s.myCore.getEng .arith).queue = [] ∧ (s.myCore.getEng .arith).inflight = [] ∧ s.myCore.m0 ≠ 0 ∧
       s.myCore.inh = false ∧ s.myCore.loops.nestOk 2 = true ∧ s.myCore.ready [2] [] = true ∧ (s.myCore.reg 2).extractLsb' 0 32 = 3 ∧
       divB s (s.myCore.pc + 8) 3 = true ∧ (s.myCore.reg 4).extractLsb' 0 32 = 0 ∧ codeOk (target s 2 + 8) = true ∧ divB s (target s 2 + 8) 0 = true) ∧
    (sDiv fun c => { c with mstack := [0] }).myCore.m0 = 0 ∧
    divB (sDiv fun c => { c with mstack := [0] }) (target (sDiv id) 2) 0 = true ∧
    (let s := sDivK (level 0 false false)
     s.myCore.phase = .kernel ∧ s.myCore.loops.nestOk 1 = true ∧ divB s (s.myCore.pc + 8) 3 = true ∧ divB s (target s 2 + 8) 0 = true ∧
       s.myCore.loops.inner = some 0 ∧ s.cancelledAt s.me = false ∧ s.atStop s.me = false ∧ goesOn s.myCore.loops 0 = true ∧
       codeOk (target s (-1)) = true ∧ disB s (target s (-1)) = true ∧ (s.myCore.loops.get 0).active = true ∧ disB s (s.myCore.pc + 8) = true) ∧
    (let s := sDiv id
     s.myCore.loops.inner = some 1 ∧ s.myCore.phase ≠ .kernel ∧ goesOn s.myCore.loops 1 = true ∧ codeOk (target s (-1)) = true ∧
       disB s (target s (-1)) = true) ∧
    (let s := sDiv (looped 1 (level 3 false false))
     s.myCore.loops.inner = some 1 ∧ goesOn s.myCore.loops 1 = false ∧ (s.myCore.loops.get 1).pipelined = false ∧ disB s (s.myCore.pc + 8) = true) ∧
    (let s := sDiv (looped 1 (level 0 false true))
     (s.myCore.loops.get 1).active = true ∧ (s.myCore.loops.get 1).pipelined = true ∧ disB s (s.myCore.pc + 8) = true) := by
  decide +kernel

theorem witness_QuadrilleFollows :
    (sQuad.quadTask 0 = some (task 16) ∧ (sQuad.cluster 0).quad.run = .running ∧ codeOk (sQuad.cluster 0).quad.dpc = true ∧
      sQuad.quadStalled 0 = false ∧
      (sQuad.updCluster 0 fun x => { x with quad := { x.quad with win := List.replicate 128 ⟨0, 0, false, none, 0⟩ } }).quadStalled 0 = true) ∧
    (decodeWord 0x010000C308000000 = .ok (.add .always 3 3 2) ∧ (sQuad.cluster 0).quad.win.length < 128 ∧
      decodeWord (encode (.call (-5))) = .ok (.call (-5)) ∧ decodeWord (encode .ret) = .ok .ret ∧ intDest (.add .always 3 3 2) ≠ none) ∧
    (sLead.myCore.ready [2] [] = true ∧ codeOk (sLead.myCore.reg 2) = true ∧ sLead.myCore.att = true ∧
      sLead.entryOf sLead.me = some ⟨pcA, encode (.jmpr 2), false, none, 0⟩ ∧ sLead.leader (clusOf sLead.me) = some sLead.me ∧
      (sLead.cluster (clusOf sLead.me)).quad.run = .paused) := by
  decide +kernel

/-- A write of a word by the host or firmware. -/
def atWord (p off : Nat) (v : Word) : State := { at0 id with arg := .word p off v }
def hdmPut (off : Nat) (bs : List Byte) : State :=
  { (at0 id).updPart 0 (fun x => { x with hdm := [(0, 3)] }) with arg := .hdm 0 0 off bs.length (some bs) }
def hdmGet (off n : Nat) : State := { (at0 id).updPart 0 (fun x => { x with hdm := [(0, 3)] }) with arg := .hdm 0 0 off n none }
def hostGet (op : HostOp) : State := { at0 id with arg := .hostMem 0x100 4 op }
def sDump : State := { (at0 id).updPart 0 (fun x => { x with dump := { x.dump with cur := some [1, 2] } }) with arg := .unit 0 }

theorem witness_HostWindow : (atWord 0 0x10 5).arg = .word 0 0x10 5 ∧ (0x28 ∉ [0x000, 0x008, 0x010, 0x018, 0x020]) ∧
    (hdmPut 64 (List.replicate 64 7)).arg = .hdm 0 0 64 (List.replicate 64 (7 : Byte)).length (some (List.replicate 64 7)) ∧
    64 % 64 + (List.replicate 64 (7 : Byte)).length ≤ 64 ∧ 0x10000 % 64 + [(1 : Byte), 2, 3, 4].length ≤ 64 ∧
    ((hdmPut 0x100000008 [1, 2, 3, 4]).part 0).hdmLoc 0x100000008 ≠ none ∧
    (hdmGet 0x10000 4).arg = .hdm 0 0 0x10000 4 none ∧ ((hdmGet 0x100000008 4).part 0).hdmLoc 0x100000008 ≠ none ∧
    (hdmPut 0x10000 [1, 2, 3, 4]).arg = .hdm 0 0 0x10000 [(1 : Byte), 2, 3, 4].length (some [1, 2, 3, 4]) ∧
    0x20000 % 64 + 4 ≤ 64 ∧ (hdmGet 0x10040 4).arg = .hdm 0 0 0x10040 4 none ∧
    ({ at0 id with arg := .hdm 3 0 64 4 none } : State).arg = .hdm 3 0 64 4 none ∧ (3 : Nat) ≠ 0 ∧
    (hostGet .read).arg = .hostMem 0x100 4 .read ∧ (hostGet (.write [1, 2, 3, 4])).arg = .hostMem 0x100 4 (.write [1, 2, 3, 4]) ∧
    0x100 < 0x8000000000000 ∧ 0x100 % 64 + 4 ≤ 64 ∧
    (({ at0 id with coalesce := [⟨0, 4, 0⟩] } : State).coalesce.any fun c => c.part = 0 && c.vec = 4 && c.ends ≤ 0) = true ∧
    (sDump.part 0).dump.openTask = none ∧ (sDump.part 0).dump.cur = some [1, 2] ∧ (∀ q, q < 8 → (sDump.part q).dump.queued = []) := by
  decide +kernel

/-- A packet: sequence, operation, graph, count of nodes, vector, completion address, instance. -/
def packet (seq opc graph n vec cpl ins : Nat) : BitVec 512 :=
  BitVec.ofNat 512 (seq + opc * 2 ^ 32 + graph * 2 ^ 64 + n * 2 ^ 128 + vec * 2 ^ 160 + cpl * 2 ^ 192 + ins * 2 ^ 256)

/-- Partition 0's queue holds one packet; instance 6 lives. -/
def queued (x : BitVec 512) (f : CmdQ → CmdQ) : State :=
  words (put64 dieScr tileRec)
    { ((withInst 6 (inst []) (at0 id)).updPart 0 fun p =>
        { p with cmdq := f { p.cmdq with en := true, log2 := 4, slots := p.cmdq.slots.set 0 x, tail := 1 } }) with arg := .unit 0 }

def badSeq : BitVec 512 := packet 9 0 0 0 4 (dieScr + 0x100) 0
def pkt (opc n : Nat) : BitVec 512 := packet 0 opc (if opc = 1 then dieScr else 0) n 4 (dieScr + 0x100) (if opc = 2 then 6 else 0)
def broken (q : CmdQ) : CmdQ := { q with brk0 := BitVec.ofNat 55 (4 + 2 * 2 ^ 52) }

/-- A launch of one tile record is taken whichever die its processor stands on. -/
theorem launch_taken : ∀ d, d < 4 → (((queued (pkt 1 1) id).consume 0).submit 0 d dieScr 1 none
    (.packet (pkSeq (pkt 1 1)) (pkVec (pkt 1 1)) (pkCpl (pkt 1 1)))).isOk = true := by decide +kernel

theorem witness_CommandPackets : (queued badSeq id).nextPacket 0 = some badSeq ∧ pkReject badSeq 0 ≠ 0 ∧
    (cmdqOf (queued badSeq fun q => { q with tail := 0 }) 0).tail = 0 ∧ Reads (queued (pkt 0 0) id) 0 (pkt 0 0) 0 ∧
    pkCpl (pkt 0 0) ≠ 0 ∧ (pkCpl (pkt 0 0)).toNat % 16 = 0 ∧
    (resolve (queued (pkt 0 0) id) (cmdWho 0) .wr (pkCpl (pkt 0 0)).toNat 16).isOk = true ∧
    Reads (queued (pkt 2 0) id) 0 (pkt 2 0) 2 ∧ (queued (pkt 2 0) id).insts.find (pkInst (pkt 2 0)) = some (inst []) ∧
    Reads (queued (pkt 3 0) id) 0 (pkt 3 0) 3 ∧ (cmdqOf (queued (pkt 3 0) id) 0).launched = [] ∧
    (cmdqOf (queued (pkt 3 0) fun q => { q with launched := [6] }) 0).launched ≠ [] ∧
    (∀ l ∈ [[], [6]], (cmdqOf (queued (pkt 3 0) fun q => { q with fence := some (pkt 3 0), head := 1, launched := l }) 0).fence = some (pkt 3 0)) ∧
    (queued (packet 0 2 0 0 4 0 9) id).insts.find (pkInst (packet 0 2 0 0 4 0 9)) = none ∧ Reads (queued (packet 0 2 0 0 4 0 9) id) 0 (packet 0 2 0 0 4 0 9) 2 ∧
    (cmdqOf (queued (pkt 1 1) fun q => { q with untested := true }) 0).untested = true ∧
    ((queued (pkt 1 1) fun q => { broken q with hit := true }).updCmdq 0 fun q => { q with hit := false, untested := true }).nextPacket 0 = some (pkt 1 1) ∧
    Reads (queued (pkt 1 1) id) 0 (pkt 1 1) 1 ∧ brkMode (cmdqOf (queued (pkt 1 1) id) 0).brk0 = 0 ∧
    (((queued (pkt 1 1) id).consume 0).submit 0 (Config.commandDie 0 % 4) dieScr 1 none
      (.packet (pkSeq (pkt 1 1)) (pkVec (pkt 1 1)) (pkCpl (pkt 1 1)))).isOk = true ∧
    (((queued (packet 0 1 (dieScr + 64) 1 4 0 0) id).consume 0).submit 0 (Config.commandDie 0 % 4) (dieScr + 64) 1 none
      (.packet 0 4 0)).isOk = false ∧
    brkMatch (queued (pkt 1 1) broken) 0 (pkt 1 1) (cmdqOf (queued (pkt 1 1) broken) 0).brk0 = true ∧
    (cmdqOf (queued (pkt 1 1) broken) 0).untested = false ∧ (cmdqOf (queued (pkt 1 1) broken) 0).hit = false ∧
    (cmdqOf (queued (pkt 1 1) fun q => { broken q with hit := true }) 0).hit = true :=
  by and_intros <;> first | decide +kernel | exact launch_taken _ (Nat.mod_lt _ (by decide))

def asked : Task := { task 1 with preReq := true }
def sStopped (t : Task) : State :=
  { withInst 1 (inst [{ node tileRec 0 .running with task := some 0 }]) (inTask 1 fun c => { c with stopped := true }) with
    arg := .unit 0, tasks := [(0, t)] }
def saved1 : Saved := ⟨[(0, Core.reset 0)], 0, [], [], []⟩
def saved2 : Saved := ⟨[(0, Core.reset 0)], 0, [(nearLoc 0, 7)], [nearLoc 0 / 4096], []⟩

theorem witness_SaveAndResume : (sStopped asked).tasks.find 0 = some asked ∧ asked.haltReq = false ∧
    (sStopped asked).preemptReady 0 asked = true ∧ (sStopped (task 1)).preemptReady 0 (task 1) = false ∧
    (sStopped { asked with saving := true }).taskLost { asked with saving := true } = false ∧
    (sStopped asked).nodeAt 1 0 = some { node tileRec 0 .running with task := some 0 } ∧
    ({ inTask 1 id with saved := [(0, saved1)] } : State).saved.find 0 = some saved1 ∧
    Memory.wf saved2.scratch = true ∧ (∀ y ∈ saved2.scratch, y.1 / 4096 ∈ saved2.dirty ∧ (task 1).nearOf y.1 = true) ∧
    (task 1).nearOf (nearLoc 0) = true ∧ nearLoc 0 / 4096 ∈ saved2.dirty ∧ (nearLoc 0 + 4096) / 4096 ∉ saved2.dirty ∧ nearLoc 0 + 4096 < 2 ^ 60 ∧
    Memory.wf (inTask 1 id).baseline = true ∧ (task 1).nearOf (clusLoc 0) = false ∧ (sStopped { asked with saving := true }).dirty = [] ∧
    saved1.cores = (task 1).cores.map (fun g => (g, Core.reset g)) ∧ (∀ g ∈ (task 1).cores, ((inTask 1 id).core g).task = some 0) := by
  decide +kernel
theorem witness_ResetsAndPower :
    (((at0 id).updPart 2 fun x => { x with resetting := true }).part 2).resetting = true ∧
    ((at0 id).updPart 2 fun x => { x with resetting := true }).partitionQuiet 2 = true ∧
    (((withInst 1 gone (at0 id)).updPart 0 fun x => { x with resetting := true }).part 0).resetting = true ∧
    ((withInst 1 gone (at0 id)).updPart 0 fun x => { x with resetting := true }).partitionQuiet 0 = false ∧ ({ at0 id with arg := .flag (clusLoc 0) true } : State).arg = .flag (clusLoc 0) true ∧
    clusLoc 0 < hostBase ∧ Memory.wf (at0 id).mem = true ∧ (at0 id).sigNext < 1048576 := by decide +kernel

def image (e : Nat) : Image := (words [(clusLoc 0, 7)] (at0 id)).makeImage e
def sImages : State := { words [(hostBase + 8, 9), (clusLoc 0 + 64, 9)] (at0 id) with images := [image 3, image 5] }

theorem witness_Checkpoints : ({ at0 id with ckpt := some 3, quiesced := true } : State).quiet = true ∧
    ({ inTask 1 id with ckpt := some 3 } : State).quiet = false ∧
    (let s : State := { inTask 1 id with quiesced := true, inDomain := true }; s.quiesced = true ∧ s.inDomain = true ∧ s.quiet = false) ∧
    (sImages.quiesced && sImages.inDomain) = false ∧ (∀ m ∈ (inTask 1 id).links, m.dev ≠ 5) ∧ 5 ≠ (inTask 1 id).devNum.toNat ∧
    (inTask 1 id).tasks.find 0 = some (task 1) ∧ (task 1).trip ≠ 0 ∧ (task 1).saving = false ∧
    (∀ g ∈ (task 1).cores, ((inTask 1 id).core g).phase = .prologue) ∧ ({ at0 id with inDomain := true } : State).inDomain = true ∧
    (at0 id).ckpt = none ∧ (at0 id).firmware = .running ∧ sImages.chooseImage none = some (image 5) ∧
    sImages.chooseImage (some 3) = some (image 3) ∧ Memory.wf sImages.mem = true ∧ Memory.wf (image 5).mem = true := by decide +kernel

def ringDesc : BitVec 128 := BitVec.ofNat 128 (ownClus + 64 * 2 ^ 64 + 4 * 2 ^ 80)
def queueDesc : BitVec 128 := BitVec.ofNat 128 (1 + 2 * 2 ^ 13 + 100 * 2 ^ 32 + dieScr * 2 ^ 64)
def bundle : LoadImage :=
  { part := 0, sections := [⟨ownClus + 4096, 0, [1, 2, 3]⟩], relocs := [], objects := [⟨40, BitVec.ofNat 512 (e40.toNat - 2 ^ 69), 0, 0, 0⟩],
    rings := [(0, 3, ringDesc)], experts := [(5, queueDesc)], grants := none }
/-- The same with one relocation, an address of a label, and no object. -/
def relocated : LoadImage :=
  { bundle with sections := [⟨ownClus + 4096, 0, List.replicate 16 0⟩], relocs := [⟨0, 8, 0, 64, .label 0 0x20⟩], objects := [], rings := [], experts := [] }
def sLoad : State := words (put64 dieScr tileRec) { at0 id with arg := .image bundle }

theorem witness_LoadingAndGrants : sLoad.arg = .image bundle ∧ sLoad.firmware = .running ∧ bundle.part < 8 ∧
    (∀ x ∈ bundle.sections, x.va % 4096 = 0 ∧ x.clus < 32 ∧ (sLoad.cluster x.clus).part = bundle.part ∧ ownClus ≤ x.va ∧
      x.va + x.bytes.length ≤ ownClus + clusSize) ∧
    (∀ r ∈ bundle.rings, r.1 < 32 ∧ r.2.1 < 64 ∧ (sLoad.cluster r.1).part = bundle.part) ∧ (∀ x ∈ bundle.experts, x.1 < 1024) ∧
    (∀ x ∈ bundle.objects, sLoad.objUsed bundle.part x.index = false ∧ x.index < 65536 ∧ entryOk x.entry = true) ∧
    ringImageOk sLoad 0 0 (ringDesc.extractLsb' 0 64) (ringDesc.extractLsb' 64 64) = true ∧
    (sLoad.ring 0 3).claimed = (sLoad.ring 0 3).head ∧ xqConfigOk sLoad 0 queueDesc = true ∧ sLoad.xq 0 5 = none ∧
    (∀ x ∈ relocated.sections, x.va % 4096 = 0 ∧ x.clus < 32 ∧ (sLoad.cluster x.clus).part = relocated.part ∧ ownClus ≤ x.va ∧
      x.va + x.bytes.length ≤ ownClus + clusSize ∧ 8 + 8 ≤ x.bytes.length) ∧
    Memory.wf (at0 id).mem = true ∧ (at0 id).granuleOwner 0 1 = 0 ∧ (at0 id).granuleOwner 0 1 ≠ 3 ∧
    (at0 id).storageHeld (fun _ => true) [granuleRun 0 1] = false ∧
    (withRing { ring 0 0 0 0 with base := BitVec.ofNat 52 (dieScr + 0x100000) } (at0 id)).storageHeld (fun _ => true) [granuleRun 0 1] = true := by
  decide +kernel

/-- An image that grants namespaces 4 and 5 of the flash, and partition 0 with namespace 3, which a KVBIND still uses. -/
def granting : LoadImage :=
  { bundle with sections := [], objects := [], rings := [], experts := [],
                grants := some { namespaces := [4, 5], spill := 0, dtag := none, msixBase := 0, msixCount := 0, hdm := [], tlb := [], domain := none } }
def sGranting : State :=
  { (at0 id).updPart 1 (fun x => { x with namespaces := [5] }) with arg := .image granting, spaceOwner := [(4, 2)], stores := [(4, [(9, .passages [])])] }
def sHeld : State := { sGranting.updPart 0 (fun x => { x with namespaces := [3] }) with binds := [binding 1] }

theorem witness_LoadingAndGrants_spaces : sGranting.firmware = .running ∧ granting.part < 8 ∧
    granting.grants.elim false (sGranting.grantsHeld granting.part) = false ∧ granting.grants.elim false (sHeld.grantsHeld granting.part) = true ∧
    bundle.grants.elim false (sLoad.grantsHeld bundle.part) = false ∧ (∀ q, q < 8 → q ≠ 0 → 4 ∉ (sGranting.part q).namespaces) ∧
    sGranting.spaceOwner.get 4 0 ≠ 0 ∧ (∃ q, q < 8 ∧ q ≠ 0 ∧ 5 ∈ (sGranting.part q).namespaces) :=
  ⟨rfl, by decide, by decide +kernel, by decide +kernel, by decide +kernel, by decide +kernel, by decide +kernel, 1, by decide, by decide,
    by decide +kernel⟩

theorem witness_LoadingAndGrants_stores (g : Nat) (f : Nat → Bool) : (State.reset.core g).storesTo f = false := rfl

/-- Core 0 at its scalar turn with `w` in the line of its pc. -/
def sTurn (w : Word) : State :=
  { inTask 1 (fun c => { c with lines := [(lineOf pcA, BitVec.ofNat 512 w.toNat)] }) with agenda := [⟨1, .scalar 0⟩] }

theorem witness_StepRuns :
    (let s := sTurn 0x010000C308000000
     let u : State := { s with agenda := [], cycle := s.cycle + 1, me := 0, clus := clusOf 0, arg := .none }
     let c := s.core 0
     s.agenda = [⟨1, .scalar 0⟩] ∧ c.running = true ∧ c.stopped = false ∧ c.halted = false ∧ c.pend = none ∧ u.overtime c = false ∧
      c.wait = none ∧ c.inh = false ∧ codeOk c.pc = true ∧ (u.takeWord 0).1 = some 0x010000C308000000 ∧ c.att = false ∧
      (c.lines.find? (fun y => y.1 = lineOf c.pc)).isSome = true) ∧
    decodeWord 0x010000C308000000 = .ok (.add .always 3 3 2) ∧ (decodeWord 1).isOk = false ∧
    ((sLead.core 0).att = true ∧ (sLead.cluster 0).quad.base ≤ (sLead.core 0).qpos ∧
      (sLead.cluster 0).quad.win[(sLead.core 0).qpos - (sLead.cluster 0).quad.base]? = some ⟨pcA, encode (.jmpr 2), false, none, 0⟩) ∧
    (((vec .arith (.vmov plain 4 1 0)).core 0).getEng .arith).queue.head? = some (qe (.vmov plain 4 1 0)) ∧
    decodeWord (encode (.vmov plain 4 1 0)) = .ok (.vmov plain 4 1 0) ∧
    (((at0 id).placeMicroWord 0x1008).passOf 0 = some slotPass ∧
      decodePavane ((((at0 id).placeMicroWord 0x1008).cluster 0).pav.store.get slotPass.pc 0) = some (.pavaneParm 8)) ∧
    (let c := { sTurn 0x010000C308000000 with agenda := [] }.updCore 0 fun c => { c with badLines := [lineOf pcA] }; c.wordUnc 0 = true) ∧
    (let s : State := { inTask 1 (setWait (.sysc .syscMap)) with agenda := [⟨1, .scalar 0⟩] }
     (s.core 0).running = true ∧ (s.core 0).stopped = false ∧ (s.core 0).halted = false ∧ (s.core 0).wait = some (.sysc .syscMap)) ∧
    (let s : State := { vec .arith (.vmov plain 4 1 0) with agenda := [⟨1, .engine 0 .arith⟩] }
     ((s.core 0).issueCycle = s.cycle + 1 → (s.core 0).issueSeq ≤ (qe (.vmov plain 4 1 0)).seq) ∧ (∀ l ∈ (s.core 0).late, l.eng ≠ .arith)) ∧
    (∃ t, exec (.vmov plain 4 1 0) { vec .arith (.vmov plain 4 1 0) with cycle := 1 } = .next t) ∧
    (∃ o ∈ (withPass [] [op 0x14 1] slotPass).ops, o.op = 0x14) ∧ (∀ o ∈ slotPass.ops, o.op ≠ 0x14) ∧
    (⟨1, .unc (.scalar 0)⟩ : Move).turn = .unc (.scalar 0) ∧ decodePavane 0x7801 = none ∧ Instr.cmdNop.isEvent = true ∧ State.reset.agenda = [] :=
  by and_intros <;> first | exact ⟨_, rfl⟩ | decide +kernel
theorem witness_DecodeEncode : (Instr.add .always 3 3 2).wf = true ∧ (Instr.pavaneDjnz (-9)).wfPavane = true := by decide +kernel
theorem witness_StorageInvariant : State.reset.Inv ∧ (∃ t, step State.reset = .next t ∧ t.cycle = 1) ∧ sMem.Inv := by
  refine ⟨?_, ⟨_, rfl, ?_⟩, ?_⟩ <;> (try unfold State.Inv) <;> decide +kernel

end Sys2Proof.Tests
end

section
/-!
PROOFS. The integer words of the scalar pipe (04_scalar_control.md R97 to R100): the value of each word of two and three sources, ADDX
with its carry, the bit counts and the reversals.
-/

namespace Sys2Proof.Machine

open Sys2Proof.Spec

/-! ## Words that only write a scalar register -/

/-- A word that `exec` runs as the frame of a scalar word around `g` yields every `f` that agrees with `g`. -/
theorem yields_of_exec_eq {i : Instr} {q : Qual} {d : BitVec 6} {rs : List (BitVec 6)} {cs : List (BitVec 3)} {f g : Core → Word}
    (h : ∀ s, exec i s = scalarTo q d rs cs g s) (hfg : ∀ c, g c = f c) : Yields i q d rs cs f := by
  obtain rfl : g = f := funext hfg
  rintro s ⟨hon, hready⟩
  rw [h, scalarTo_on hon hready]

theorem alu1_of_exec_eq {mk : Qual → BitVec 6 → BitVec 6 → Instr} {f g : Word → Word}
    (h : ∀ q d a s, exec (mk q d a) s = intOp1 q d a g s) (hfg : ∀ x, g x = f x := by intros; rfl) : Alu1 mk f :=
  fun q d a => yields_of_exec_eq (h q d a) fun _ => hfg _

theorem alu2_of_exec_eq {mk : Qual → BitVec 6 → BitVec 6 → BitVec 6 → Instr} {f g : Word → Word → Word}
    (h : ∀ q d a b s, exec (mk q d a b) s = intOp2 q d a b g s) (hfg : ∀ x y, g x y = f x y := by intros; rfl) : Alu2 mk f :=
  fun q d a b => yields_of_exec_eq (h q d a b) fun _ => hfg _ _

theorem alu3_of_exec_eq {mk : Qual → BitVec 6 → BitVec 6 → BitVec 6 → BitVec 6 → Instr} {f g : Word → Word → Word → Word}
    (h : ∀ q d a b e s, exec (mk q d a b e) s = intOp3 q d a b e g s) (hfg : ∀ x y z, g x y z = f x y z) : Alu3 mk f :=
  fun q d a b e => yields_of_exec_eq (h q d a b e) fun _ => hfg _ _ _

/-! ## Values of R97 to R100 -/

theorem smax_eq (x y : Word) : smax x y = if x.toInt ≤ y.toInt then y else x := by
  unfold smax
  split_ifs with hyx hxy hxy
  · exact BitVec.eq_of_toInt_eq (le_antisymm hxy hyx)
  · rfl
  · rfl
  · omega

theorem umax_eq (x y : Word) : umax x y = if x.toNat ≤ y.toNat then y else x := by
  unfold umax
  split_ifs with hyx hxy hxy
  · exact BitVec.eq_of_toNat_eq (le_antisymm hxy hyx)
  · rfl
  · rfl
  · omega

/-- The high half of a pair shifted left takes the top bits of the low word in from below. -/
theorem extractLsb'_append_shiftLeft (x y : Word) {n : Nat} (hn : n < 64) :
    ((x ++ y : BitVec 128) <<< n).extractLsb' 64 64 = if n = 0 then x else x <<< n ||| y >>> (64 - n) := by
  split_ifs with h0
  · rw [h0, BitVec.shiftLeft_zero]
    exact BitVec.extractLsb'_append_eq_left
  · refine BitVec.eq_of_getLsbD_eq fun i hi => ?_
    rw [BitVec.getLsbD_extractLsb', BitVec.getLsbD_shiftLeft, BitVec.getLsbD_append, BitVec.getLsbD_or, BitVec.getLsbD_shiftLeft,
      BitVec.getLsbD_ushiftRight]
    by_cases hin : i < n
    · have hlo : 64 + i - n = 64 - n + i := by omega
      simp [hi, hin, hlo, show 64 + i < 128 by omega, show n ≤ 64 + i by omega, show 64 - n + i < 64 by omega]
    · have hhi : 64 + i - n - 64 = i - n := by omega
      simp [hi, hin, hhi, show 64 + i < 128 by omega, show n ≤ 64 + i by omega, show ¬ 64 + i - n < 64 by omega,
        BitVec.getLsbD_of_ge y (64 - n + i) (by omega)]

/-- The low half of a pair shifted right takes the low bits of the high word in from above. -/
theorem extractLsb'_append_ushiftRight (x y : Word) {n : Nat} (hn : n < 64) :
    ((x ++ y : BitVec 128) >>> n).extractLsb' 0 64 = if n = 0 then y else y >>> n ||| x <<< (64 - n) := by
  split_ifs with h0
  · rw [h0, BitVec.ushiftRight_zero]
    exact BitVec.extractLsb'_append_eq_right
  · refine BitVec.eq_of_getLsbD_eq fun i hi => ?_
    rw [BitVec.getLsbD_extractLsb', BitVec.getLsbD_ushiftRight, BitVec.getLsbD_append, BitVec.getLsbD_or, BitVec.getLsbD_shiftLeft,
      BitVec.getLsbD_ushiftRight, Nat.zero_add]
    by_cases hin : n + i < 64
    · simp [hi, hin, show i < 64 - n by omega]
    · have hhi : n + i - 64 = i - (64 - n) := by omega
      simp [hi, hin, hhi, show ¬ i < 64 - n by omega, BitVec.getLsbD_of_ge y (n + i) (by omega)]

theorem shCount_lt (x : Word) : shCount x < 64 := Nat.mod_lt _ (by decide)

theorem fshl_eq (x y e : Word) : fshl x y e = ((x ++ y : BitVec 128) <<< (e.toNat % 64)).extractLsb' 64 64 :=
  (extractLsb'_append_shiftLeft x y (shCount_lt e)).symm

theorem fshr_eq (x y e : Word) : fshr x y e = ((x ++ y : BitVec 128) >>> (e.toNat % 64)).extractLsb' 0 64 :=
  (extractLsb'_append_ushiftRight x y (shCount_lt e)).symm

theorem sdiv_eq_ofInt_tdiv {w : Nat} (x y : BitVec w) : x.sdiv y = BitVec.ofInt w (x.toInt.tdiv y.toInt) :=
  BitVec.eq_of_toInt_eq (by rw [BitVec.toInt_sdiv, BitVec.toInt_ofInt])

theorem sub_mul_sdiv {w : Nat} (x y : BitVec w) : x - y * x.sdiv y = BitVec.ofInt w (x.toInt.tmod y.toInt) := by
  apply BitVec.eq_of_toInt_eq
  rw [BitVec.toInt_ofInt, Int.tmod_def, BitVec.toInt_sub, BitVec.toInt_mul, BitVec.toInt_sdiv, Int.mul_bmod_bmod, Int.sub_bmod_bmod]

theorem sub_mul_udiv {w : Nat} (x y : BitVec w) : x - y * (x / y) = BitVec.ofNat w (x.toNat % y.toNat) := by
  rw [sub_eq_iff_eq_add]
  calc x = BitVec.ofNat w (x.toNat % y.toNat + y.toNat * (x.toNat / y.toNat)) := by rw [Nat.mod_add_div]; simp
    _ = BitVec.ofNat w (x.toNat % y.toNat) + y * (x / y) := by
      rw [BitVec.ofNat_add, BitVec.ofNat_mul, BitVec.udiv_def, BitVec.ofNat_toNat, BitVec.setWidth_eq]

theorem divS_eq (x y : Word) :
    divS x y = if y = 0 then BitVec.allOnes 64 else BitVec.ofInt 64 (x.toInt.tdiv y.toInt) := by
  rw [divS, sdiv_eq_ofInt_tdiv]

theorem divU_eq (x y : Word) : divU x y = if y = 0 then BitVec.allOnes 64 else BitVec.ofNat 64 (x.toNat / y.toNat) := by
  rw [divU, BitVec.udiv_def]

theorem remS_eq (x y : Word) :
    (if y = 0 then x else x - y * divS x y) = if y = 0 then x else BitVec.ofInt 64 (x.toInt.tmod y.toInt) := by
  split_ifs with h
  · rfl
  · rw [divS, if_neg h, sub_mul_sdiv]

theorem remU_eq (x y : Word) :
    (if y = 0 then x else x - y * divU x y) = if y = 0 then x else BitVec.ofNat 64 (x.toNat % y.toNat) := by
  split_ifs with h
  · rfl
  · rw [divU, if_neg h, sub_mul_udiv]

/-- Settles O1: every word is the frame of a scalar word around its value, and the values are those of R97 to R100. -/
theorem integerResults : Obligations.IntegerResults := by
  refine ⟨⟨?add, ?sub, ?and, ?or, ?xor, ?andn, ?orn, ?min, ?max, ?minn, ?maxn, ?lea, ?sel⟩,
    ⟨?shl, ?shr, ?sar, ?rol, ?ror, ?fshl, ?fshr⟩, ?mul, ?mulh, ?mulhn, ?div, ?divn, ?rem, ?remn⟩
  case add => exact alu2_of_exec_eq exec_add
  case sub => exact alu2_of_exec_eq exec_sub
  case and => exact alu2_of_exec_eq exec_and
  case or => exact alu2_of_exec_eq exec_or
  case xor => exact alu2_of_exec_eq exec_xor
  case andn => exact alu2_of_exec_eq exec_andn
  case orn => exact alu2_of_exec_eq exec_orn
  case min => exact alu2_of_exec_eq exec_min
  case max => exact alu2_of_exec_eq exec_max smax_eq
  case minn => exact alu2_of_exec_eq exec_minn
  case maxn => exact alu2_of_exec_eq exec_maxn umax_eq
  case lea => exact fun q d a b sh => yields_of_exec_eq (exec_lea q d a b sh) fun _ => rfl
  case sel => exact fun q d a b k => yields_of_exec_eq (exec_sel q d a b k) fun _ => rfl
  case shl => exact alu2_of_exec_eq exec_shl
  case shr => exact alu2_of_exec_eq exec_shr
  case sar => exact alu2_of_exec_eq exec_sar
  case rol => exact alu2_of_exec_eq exec_rol
  case ror => exact alu2_of_exec_eq exec_ror
  case fshl => exact alu3_of_exec_eq exec_fshl fshl_eq
  case fshr => exact alu3_of_exec_eq exec_fshr fshr_eq
  case mul => exact alu2_of_exec_eq exec_mul
  case mulh => exact alu2_of_exec_eq exec_mulh
  case mulhn => exact alu2_of_exec_eq exec_mulhn
  case div => exact alu2_of_exec_eq exec_div divS_eq
  case divn => exact alu2_of_exec_eq exec_divn divU_eq
  case rem => exact alu2_of_exec_eq exec_rem remS_eq
  case remn => exact alu2_of_exec_eq exec_remn remU_eq

/-! ## ADDX (R98) -/

theorem State.myCore_updMe (s : State) (f : Core → Core) : (s.updMe f).myCore = f s.myCore := State.core_updCore_same s s.me f

@[simp] theorem Core.reg_goto (c : Core) (n : Word) (r : BitVec 6) : (c.goto n).reg r = c.reg r := rfl

@[simp] theorem Core.creg_goto (c : Core) (n : Word) (k : BitVec 3) : (c.goto n).creg k = c.creg k := rfl

@[simp] theorem Core.reg_setCreg (c : Core) (k : BitVec 3) (v : Bool) (r : BitVec 6) : (c.setCreg k v).reg r = c.reg r := by
  simp [Core.reg]

@[simp] theorem Core.creg_setReg (c : Core) (d : BitVec 6) (v : Word) (k : BitVec 3) : (c.setReg d v).creg k = c.creg k := by
  simp [Core.creg]

/-- The 65-bit sum `t` of R98. -/
def Core.addxSum (c : Core) (a b : BitVec 6) (k : BitVec 3) : Nat := (c.reg a).toNat + (c.reg b).toNat + bit (c.creg k)

/-- The core after an ADDX that acts (R98): the low 64 bits of the sum in `d`, its bit 64 in `k`. -/
def Core.addx (c : Core) (d a b : BitVec 6) (k : BitVec 3) : Core :=
  ((c.setReg d (BitVec.ofNat 64 (c.addxSum a b k))).setCreg k (2 ^ 64 ≤ c.addxSum a b k)).advance

section
variable (c : Core) (d a b r : BitVec 6) (j k : BitVec 3)

theorem Core.ofNat_addxSum : BitVec.ofNat 64 (c.addxSum a b k) = c.reg a + c.reg b + if c.creg k then 1 else 0 := by
  cases h : c.creg k <;> simp [Core.addxSum, bit, h, BitVec.ofNat_add]

variable {c d a b r j k}

theorem Core.reg_addx_same (h : d ≠ 0) : (c.addx d a b k).reg d = c.reg a + c.reg b + if c.creg k then 1 else 0 := by
  simp [Core.addx, Core.reg_setReg_same _ _ _ h, Core.ofNat_addxSum]

theorem Core.reg_addx_ne (h : r ≠ d) : (c.addx d a b k).reg r = c.reg r := by simp [Core.addx, Core.reg_setReg_ne _ _ h]

theorem Core.creg_addx_same (h : k ≠ 0) : (c.addx d a b k).creg k = decide (2 ^ 64 ≤ c.addxSum a b k) := by
  simp [Core.addx, Core.creg_setCreg_same _ _ _ h]

theorem Core.creg_addx_ne (h : j ≠ k) : (c.addx d a b k).creg j = c.creg j := by simp [Core.addx, Core.creg_setCreg_ne _ _ h]

theorem Core.addx_pc : (c.addx d a b k).pc = c.pc + 8 := by simp [Core.addx]

/-- With NOT `y` as the second source and a carry in, the sum carries out exactly when subtracting `y` does not borrow. -/
theorem Core.carry_addxSum_not {y : Word} (hk : c.creg k = true) (hb : c.reg b = ~~~y) :
    2 ^ 64 ≤ c.addxSum a b k ↔ y.toNat ≤ (c.reg a).toNat := by
  have hy : y.toNat < 2 ^ 64 := y.isLt
  simp only [Core.addxSum, hk, hb, bit, BitVec.toNat_not, if_true]
  omega

end

theorem exec_addx_on {q : Qual} {d a b : BitVec 6} {k : BitVec 3} {s : State} (h : Fires q [d, a, b] [k] s) :
    exec (.addx q d a b k) s = .next (s.updMe fun c => c.addx d a b k) := by
  obtain ⟨hon, hready⟩ := h
  rw [exec_addx, execAddx, scalarWord_on hon hready]
  rfl

/-! ## The bit counts of R99 -/

theorem toNat_ofNat_of_le_64 {n : Nat} (h : n ≤ 64) : (BitVec.ofNat 64 n).toNat = n := Nat.mod_eq_of_lt (by omega)

theorem clzFrom_le (x n : Nat) : clzFrom x n ≤ n := by
  induction n with
  | zero => rfl
  | succ n ih =>
    rw [clzFrom]
    split_ifs <;> omega

/-- The bits that CLZ counts are 0. -/
theorem testBit_of_clzFrom {x n i : Nat} (hi : i < n) (h : n ≤ i + clzFrom x n) : x.testBit i = false := by
  induction n with
  | zero => omega
  | succ n ih =>
    rw [clzFrom] at h
    split_ifs at h with hb
    · omega
    · rcases Nat.lt_succ_iff_lt_or_eq.mp hi with hlt | rfl
      · exact ih hlt (by omega)
      · exact Bool.eq_false_iff.mpr hb

/-- The bit where CLZ stops is 1. -/
theorem testBit_clzFrom {x n : Nat} (h : clzFrom x n < n) : x.testBit (n - 1 - clzFrom x n) = true := by
  induction n with
  | zero => omega
  | succ n ih =>
    rw [clzFrom] at h ⊢
    split_ifs at h ⊢ with hb
    · exact hb
    · rw [← ih (by omega)]
      congr 1
      omega

theorem ctzFrom_le (x n i : Nat) : ctzFrom x n i ≤ n := by
  induction n generalizing i with
  | zero => rfl
  | succ n ih =>
    rw [ctzFrom]
    have hrest := ih (i + 1)
    split_ifs <;> omega

/-- The bits that CTZ counts from bit `i` on are 0. -/
theorem testBit_of_ctzFrom {x n i j : Nat} (hi : i ≤ j) (h : j < i + ctzFrom x n i) : x.testBit j = false := by
  induction n generalizing i with
  | zero => rw [ctzFrom] at h; omega
  | succ n ih =>
    rw [ctzFrom] at h
    split_ifs at h with hb
    · omega
    · rcases hi.eq_or_lt with rfl | hlt
      · exact Bool.eq_false_iff.mpr hb
      · exact ih (i := i + 1) hlt (by omega)

/-- The bit where CTZ stops is 1. -/
theorem testBit_ctzFrom {x n i : Nat} (h : ctzFrom x n i < n) : x.testBit (i + ctzFrom x n i) = true := by
  induction n generalizing i with
  | zero => omega
  | succ n ih =>
    rw [ctzFrom] at h ⊢
    split_ifs at h ⊢ with hb
    · exact hb
    · rw [← Nat.add_assoc]
      exact ih (by omega)

theorem popFrom_eq_length_filter (x n : Nat) : popFrom x n = ((List.range n).filter x.testBit).length := by
  induction n with
  | zero => rfl
  | succ n ih => cases hb : x.testBit n <;> simp [popFrom, bit, List.range_succ, ih, hb, Nat.add_comm]

theorem popFrom_le (x n : Nat) : popFrom x n ≤ n := by
  rw [popFrom_eq_length_filter]
  exact (List.length_filter_le _ _).trans_eq List.length_range

/-! ## Reversals of R99 -/

theorem getLsbD_brevWord (x : Word) (i : Nat) (hi : i < 64) : (brevWord x).getLsbD i = x.getLsbD (63 - i) := by
  rw [brevWord, BitVec.getLsbD_reverse, BitVec.getMsbD, decide_eq_true hi, Bool.true_and]

@[simp] theorem length_natBytes (n x : Nat) : (natBytes n x).length = n := by
  induction n generalizing x with
  | zero => rfl
  | succ n ih => simp [natBytes, ih]

/-- Byte `j` of a number holds its bits `8 j` to `8 j + 7`. -/
theorem getElem_natBytes {n x j : Nat} (h : j < (natBytes n x).length) :
    (natBytes n x)[j] = BitVec.ofNat 8 (x >>> (8 * j)) := by
  induction n generalizing x j with
  | zero => simp at h
  | succ n ih =>
    cases j with
    | zero => rfl
    | succ j =>
      simp only [natBytes, List.getElem_cons_succ, ih]
      rw [show 256 = 2 ^ 8 from rfl, ← Nat.shiftRight_eq_div_pow, ← Nat.shiftRight_add]
      congr 2
      omega

/-- Bit `8 j + i` of the number that bytes hold is bit `i` of byte `j`. -/
theorem testBit_bytesNat {bs : List Byte} {j i : Nat} (hj : j < bs.length) (hi : i < 8) :
    (bytesNat bs).testBit (8 * j + i) = bs[j].getLsbD i := by
  induction bs generalizing j with
  | nil => simp at hj
  | cons b bs ih =>
    rw [bytesNat, Nat.add_comm, Nat.testBit_two_pow_mul_add (i := 8) _ b.isLt]
    cases j with
    | zero => rw [if_pos (by omega)]; simp [BitVec.getLsbD]
    | succ j =>
      rw [if_neg (by omega), show 8 * (j + 1) + i - 8 = 8 * j + i by omega, ih (by simpa using hj)]
      rfl

theorem getLsbD_bswpWord (x : Word) {j i : Nat} (hj : j < 8) (hi : i < 8) :
    (bswpWord x).getLsbD (8 * j + i) = x.getLsbD (8 * (7 - j) + i) := by
  have hlt : 8 * j + i < 64 := by omega
  simp only [bswpWord, bytesWord, wordBytes, BitVec.getLsbD_ofNat, hlt, decide_true, Bool.true_and]
  rw [testBit_bytesNat (by simpa using hj) hi, List.getElem_reverse]
  simp only [length_natBytes, getElem_natBytes]
  rw [BitVec.getLsbD_ofNat, Nat.testBit_shiftRight, BitVec.testBit_toNat]
  simp [hi]

/-- Settles O2: ADDX through the sum of R98, the counts by induction on the number of bits looked at, BREV and BSWP bit by bit. -/
theorem carryAndBitCounts : Obligations.CarryAndBitCounts := by
  refine ⟨fun q d a b k s h => ⟨_, exec_addx_on h, ?result, ?carry, ?noBorrow, ?regs, ?cregs, ?pc, rfl⟩,
    ?clz, ?ctz, ?popc, ?brev, ?bswp⟩
  case result => intro hd; rw [State.myCore_updMe, Core.reg_addx_same hd]
  case carry => intro hk; rw [State.myCore_updMe, Core.creg_addx_same hk]; rfl
  case noBorrow =>
    intro hk hc y hy
    rw [State.myCore_updMe, Core.creg_addx_same hk]
    exact decide_eq_decide.mpr (Core.carry_addxSum_not hc hy)
  case regs => intro r hr; rw [State.myCore_updMe, Core.reg_addx_ne hr]
  case cregs => intro j hj; rw [State.myCore_updMe, Core.creg_addx_ne hj]
  case pc => rw [State.myCore_updMe, Core.addx_pc]
  case clz =>
    refine ⟨_, alu1_of_exec_eq exec_clz, fun x => ?_⟩
    rw [toNat_ofNat_of_le_64 (clzFrom_le _ _)]
    exact ⟨clzFrom_le _ _, fun i h hi => testBit_of_clzFrom hi (by omega), testBit_clzFrom⟩
  case ctz =>
    refine ⟨_, alu1_of_exec_eq exec_ctz, fun x => ?_⟩
    rw [toNat_ofNat_of_le_64 (ctzFrom_le _ _ _)]
    refine ⟨ctzFrom_le _ _ _, fun i hi => testBit_of_ctzFrom (Nat.zero_le i) (by rwa [Nat.zero_add]), fun h => ?_⟩
    have hbit := testBit_ctzFrom h
    rwa [Nat.zero_add] at hbit
  case popc =>
    refine ⟨_, alu1_of_exec_eq exec_popc, fun x => ?_⟩
    rw [toNat_ofNat_of_le_64 (popFrom_le _ _)]
    exact popFrom_eq_length_filter _ _
  case brev => exact ⟨brevWord, alu1_of_exec_eq exec_brev, getLsbD_brevWord⟩
  case bswp => exact ⟨bswpWord, alu1_of_exec_eq exec_bswp, fun x j i hj hi => getLsbD_bswpWord x hj hi⟩

end Sys2Proof.Machine
end
